-- ==== Sys2Proof/Word.lean ====
section
/-! DEFINITION. The word types of the Gralin 4 and their plainest arithmetic (R3: little-endian, bit 0 lowest). -/

namespace Sys2Proof

/-- One byte of memory: a location in the sense of R100. -/
abbrev Byte := BitVec 8

/-- A 64-bit register, address or instruction word. -/
abbrev Word := BitVec 64

/-- The bits `hi:lo` of a word, as a natural number (R3's bit ranges are inclusive). -/
def bitsOf (w : Nat) (hi lo : Nat) : Nat := (w / 2 ^ lo) % 2 ^ (hi + 1 - lo)

/-- A natural number below `2 ^ n` read as two's complement. -/
def signedOf (n w : Nat) : Int := if w < 2 ^ (n - 1) then (w : Int) else (w : Int) - 2 ^ n

end Sys2Proof
end

