-- ==== Sys2Proof/Syntax.lean ====
section
/-! DEFINITION. The syntax: the codes of the shared fields (R176 to R180), the operands, and `Instr`, with one
constructor for each row of spec/opcode_table.json. Strand instructions carry the fields of their word, pair words
carry the half of slot B, events carry which agent they concern and what outside parties bring. -/

namespace Sys2Proof

/-- Element types, R177, in code order. -/
inductive ETy where
  | f32 | bf16 | f16 | e5m2 | e4m3 | e3m2 | e2m3 | e2m1 | i16 | i8 | n8 | i4 | n4 | t2 | b4 | b8
  | f64 | i32 | n32 | i64 | n64 | n16 | fr16
  deriving DecidableEq, Repr

/-- Rounding codes, R126 (code 7 is reserved). -/
inductive Rnd where
  | rne | rtz | rup | rdn | rna | rst | dyn
  deriving DecidableEq, Repr

/-- Ordering codes, R178. -/
inductive MOrd where
  | plain | acq | rel | ar
  deriving DecidableEq, Repr

/-- Scope codes, R178. -/
inductive Scope where
  | st | co | cl | di | mo | fa
  deriving DecidableEq, Repr

/-- Relation codes, R179. -/
inductive Rel where
  | eq | ne | lt | le | gt | ge
  deriving DecidableEq, Repr

/-- The event classes that have an index pair, in the order of R134. -/
inductive EvClass where
  | v | z | o | u | i | s
  deriving DecidableEq, Repr

/-- System registers: R27, R79, R134, R186, R356, R360. -/
inductive SysReg where
  | vtype | vl | mvl | esr | fstat | tau
  | fidxA (c : EvClass) | fidxE (c : EvClass)
  | rngkey | rngctr | time | govst | tsync | govb | stripprev
  | nodeid | ldepth | llin | lix (l : Fin 8) | lext (l : Fin 8)
  | codeb | decver
  deriving DecidableEq, Repr

/-- Register fields, by file (R173). -/
abbrev XReg := Fin 32
abbrev FReg := Fin 32
abbrev VRegNo := Fin 32
abbrev MRegNo := Fin 8
abbrev PRegNo := Fin 8
abbrev BRegNo := Fin 16
abbrev AccNo := Fin 4
abbrev AlgNo := Fin 4
abbrev WReg := Fin 16

/-- TYPE, RND and SAT of a scalar float word (R202). -/
structure FMod where
  ty : ETy
  rnd : Rnd
  sat : Bool
  deriving DecidableEq, Repr

/-- TYPE, RND, SAT, MASK and .keep of a vector word (R176, R180). -/
structure VMod where
  ty : ETy
  rnd : Rnd
  sat : Bool
  mask : MRegNo
  keep : Bool
  deriving DecidableEq, Repr

/-- The fields of a WM word (R172, R174): the index names an x register, or a v register in the indexed forms. -/
structure WM where
  data : Fin 32
  bnd : BRegNo
  idx : Fin 32
  scale : BitVec 3
  ord : MOrd
  sc : Scope
  ty : ETy
  off : BitVec 18
  deriving DecidableEq, Repr

/-- TYPE, RND, SAT, MASK and the scale, ordering and scope of OPS, for major 0x0C (R180, R288). -/
structure AMod where
  ty : ETy
  rnd : Rnd
  sat : Bool
  mask : MRegNo
  scale : BitVec 3
  ord : MOrd
  sc : Scope
  deriving DecidableEq, Repr

/-- TYPE, RND, SAT, OPP, CJG, TRN and the algebra subfield of OPS, for the products of majors 0x0F and 0x10 (R252, R260). -/
structure PMod where
  ty : ETy
  rnd : Rnd
  sat : Bool
  opp : Bool
  cjg : Bool
  trn : Bool
  alg : Option AlgNo
  deriving DecidableEq, Repr

/-- The declared vector register counts (R28). -/
inductive VCount where
  | c8 | c16 | c32
  deriving DecidableEq, Repr

/-- The halves that slot B of a pair may hold: half-opcodes 0 to 11 (R181, R182). -/
inductive HalfB where
  | add (d a b : XReg) | sub (d a b : XReg) | and (d a b : XReg) | or (d a b : XReg)
  | xor (d a b : XReg) | shl (d a b : XReg) | shr (d a b : XReg) | slt (d a b : XReg)
  | addi (d a : XReg) (i : BitVec 15) | shli (d a : XReg) (n : BitVec 6) | shri (d a : XReg) (n : BitVec 6)
  | li (d : XReg) (i : BitVec 15)
  deriving DecidableEq, Repr

/-- A command message as it arrives (R346): its sender, the lane or the port and endpoint it came on, its header fields
other than OPC, and its payload. -/
structure Cmd where
  src : Nat
  lane : Bool
  port : Nat
  endp : Nat
  fmt : BitVec 32
  rsv : BitVec 16
  tag : Word
  ctx : BitVec 32
  plen : BitVec 32
  arg0 : Word
  arg1 : Word
  arg2 : Word
  arg3 : Word
  arg4 : Word
  payload : List Byte
  deriving DecidableEq, Repr

/-- One code object named by a load list (R336): where its sections go, the bytes the module read from the host
(`none` when the remote read failed, R408 cause 4), and the physical ranges the loader found for its sections (`none`
when no memory remains, R408 cause 5). -/
structure LoadItem where
  textVa : Nat
  dataVa : Nat
  image : Option (List Byte)
  textPa : Option Nat
  dataPa : Option Nat
  deriving DecidableEq, Repr

/-- A host symbol of a load list: a name and a generic address (R336). -/
structure HostSym where
  name : List Byte
  addr : Word
  deriving DecidableEq, Repr

/-- The areas of one strand in the state pool (R47): save area, second save area, return-stack and mask-stack spill
areas. Where in the pool they lie is the scheduler's choice. -/
structure Areas where
  save : Nat
  save2 : Nat
  rs : Nat
  ms : Nat
  deriving DecidableEq, Repr

/-- How a remote operation reached a window (R342, R345). -/
inductive Delivery where
  | rod | rud | rudi
  deriving DecidableEq, Repr

/-- A remote operation on a window: window number, offset, initiator endpoint, delivery service (R344), and the port it
came on (R376). -/
structure Remote where
  win : Nat
  off : Nat
  src : Nat
  svc : Delivery
  port : Nat
  deriving DecidableEq, Repr

/-- The remote atomics of R342. -/
inductive RAtomic where
  | fetchAdd | swap | cswap
  deriving DecidableEq, Repr

/-- What one member brings to a collective (R300, R422): its rank, the fields on which members must agree, its
contributions (source index, destination element's linear index or shard, value codes), and whether it has failed. In a
list of all members the entry of this module's own rank marks its place in the order. -/
structure Contribution where
  rank : Nat
  xop : Nat
  ckind : Nat
  count : Nat
  ty : ETy
  rnd : Rnd
  sat : Bool
  gshape : List Nat
  items : List (Nat × Nat × List Nat)
  failed : Bool
  deriving DecidableEq, Repr

/-- What the controller samples: a die's temperature sensors and supply rails, the ageing oscillators of cores and
scratchpad banks, the temperature of each HBM stack (R362), and the other quantities that tell wear (R447): failed idle
self-tests of a unit (kind 1 or 3), errors corrected in a bank or a row within 24 hours (kind 2 or 5), and a port lane's
corrected FEC symbols in 10^9 over a second. A unit is named by its UNIT (R363): a bank by its cluster and its number
there, a row by its stack and its number there, a lane by its port and its number there. -/
inductive Sensor where
  | temperature (die i : Nat)
  | rail (die i : Nat)
  | coreDrift (core : Nat)
  | bankDrift (cluster bank : Nat)
  | stack (i : Nat)
  | failedTest (kind unit : Nat)
  | corrected (kind unit part : Nat)
  | fec (port lane : Nat)
  deriving DecidableEq, Repr

/-- How a peer fails an operation (R422, R423): it refuses an access or cannot be reached, after `reach` writes that it
took, or after the bytes `data` that it returned. -/
structure PeerFailure where
  refused : Bool
  reach : Nat
  data : List Byte
  deriving DecidableEq, Repr

/-- A die that came to its protection point, with the reading (R358, R363). -/
structure Protection where
  die : Nat
  reading : Nat
  deriving DecidableEq, Repr

/-- The instructions, events and commands: one constructor for each row of the opcode table. The rows stand in the
table's order but for those from the first row without operands on: Lean's compiler builds a constructor with fields
only where fewer than 244 stand before it, and the rows of `Late` come last for that. -/
inductive Instr where
  -- major 0x00, system (R190)
  | svc (d a : XReg) (code : BitVec 24)
  | brk (code : BitVec 24)
  | rdsr (d : XReg) (r : SysReg)
  | wrsr (r : SysReg) (a : XReg)
  | wrsrVtype (a : XReg)
  | xchsr (d : XReg) (r : SysReg) (a : XReg)
  | fence (sc : Scope)
  | rdtime (d : XReg)
  | waitt (a : XReg)
  | sev (sc : Scope)
  -- major 0x01, integer (R198)
  | add (d a b : XReg)
  | sub (d a b : XReg)
  | mul (d a b : XReg)
  | mulh (d a b : XReg)
  | mulhu (d a b : XReg)
  | div (d a b : XReg)
  | divu (d a b : XReg)
  | rem (d a b : XReg)
  | remu (d a b : XReg)
  | and (d a b : XReg)
  | or (d a b : XReg)
  | xor (d a b : XReg)
  | andn (d a b : XReg)
  | shl (d a b : XReg)
  | shr (d a b : XReg)
  | sra (d a b : XReg)
  | slt (d a b : XReg)
  | sltu (d a b : XReg)
  | min (d a b : XReg)
  | max (d a b : XReg)
  | sel (d a b c : XReg)
  -- major 0x02, immediate (R200)
  | addi (d a : XReg) (i : BitVec 36)
  | andi (d a : XReg) (i : BitVec 36)
  | ori (d a : XReg) (i : BitVec 36)
  | xori (d a : XReg) (i : BitVec 36)
  | shli (d a : XReg) (n : BitVec 6)
  | shri (d a : XReg) (n : BitVec 6)
  | srai (d a : XReg) (n : BitVec 6)
  | slti (d a : XReg) (i : BitVec 36)
  | sltui (d a : XReg) (i : BitVec 36)
  | li (d : XReg) (i : BitVec 36)
  | addpc (d : XReg) (i : BitVec 36)
  -- major 0x03, double-word (R175)
  | lid (d : XReg) (v : Word)
  | cpset (lev : BitVec 6) (a : BRegNo) (count sstr dstr : BitVec 32)
  | tdnew (d : XReg) (a : BRegNo) (off : BitVec 62)
  -- major 0x04, scalar float (R202)
  | fadd (d a b : FReg) (m : FMod)
  | fsub (d a b : FReg) (m : FMod)
  | fmul (d a b : FReg) (m : FMod)
  | fdiv (d a b : FReg) (m : FMod)
  | fsqrt (d a : FReg) (m : FMod)
  | fma (d a b c : FReg) (m : FMod)
  | fmin (d a b : FReg) (ty : ETy)
  | fmax (d a b : FReg) (ty : ETy)
  | fcvt (d a : Fin 32) (src : ETy) (route : Fin 3) (m : FMod)
  | fclass (d : XReg) (a : FReg) (ty : ETy)
  | fcmp (d : XReg) (rel : Rel) (a b : FReg) (ty : ETy)
  | fmvxf (d : XReg) (a : FReg) (ty : ETy)
  | fmvfx (d : FReg) (a : XReg) (ty : ETy)
  -- major 0x05, branch (R209)
  | beq (a b : XReg) (off : BitVec 36)
  | bne (a b : XReg) (off : BitVec 36)
  | blt (a b : XReg) (off : BitVec 36)
  | bge (a b : XReg) (off : BitVec 36)
  | bltu (a b : XReg) (off : BitVec 36)
  | bgeu (a b : XReg) (off : BitVec 36)
  | jal (off : BitVec 36)
  | jalr (a : XReg) (off : BitVec 36)
  | bstrip (a b : XReg) (off : BitVec 36)
  -- major 0x06, scalar memory (R213)
  | ld (m : WM)
  | st (m : WM)
  | fld (m : WM)
  | fst (m : WM)
  | lr (m : WM)
  | sc (m : WM)
  | amo (d : XReg) (b : BRegNo) (o : XReg) (op : BitVec 3) (ord : MOrd) (sc : Scope) (ty : ETy) (off : BitVec 18)
  | pref (b : BRegNo) (idx : XReg) (scale : BitVec 3) (off : BitVec 18)
  -- major 0x07, bounds (R217)
  | bld (d : BRegNo) (entry : BitVec 16)
  | bnarrow (d a : BRegNo) (b c : XReg)
  | bseta (d : BRegNo) (a : XReg)
  | bgeta (d : XReg) (a : BRegNo)
  | bperm (d a : BRegNo) (mask : BitVec 9)
  | acvt (d a : XReg) (ap : BitVec 8) (dir : Bool)
  | atest (d a : XReg) (ap : BitVec 8)
  -- major 0x08, vector configuration (R222)
  | cfgreg (cnt : VCount) (g : BitVec 4) (k : VRegNo)
  | setvl (d a : XReg)
  | setvli (d : XReg) (n : BitVec 36)
  | setvt (ty : ETy) (blk : BitVec 2)
  | rdvl (d a : XReg)
  -- major 0x09, vector arithmetic (R224)
  | vadd (d a b : VRegNo) (m : VMod)
  | vsub (d a b : VRegNo) (m : VMod)
  | vmul (d a b : VRegNo) (m : VMod)
  | vmulh (d a b : VRegNo) (m : VMod)
  | vdiv (d a b : VRegNo) (m : VMod)
  | vrem (d a b : VRegNo) (m : VMod)
  | vmin (d a b : VRegNo) (m : VMod)
  | vmax (d a b : VRegNo) (m : VMod)
  | vand (d a b : VRegNo) (m : VMod)
  | vor (d a b : VRegNo) (m : VMod)
  | vxor (d a b : VRegNo) (m : VMod)
  | vshl (d a b : VRegNo) (m : VMod)
  | vshr (d a b : VRegNo) (m : VMod)
  | vsra (d a b : VRegNo) (m : VMod)
  | vfma (d a b c : VRegNo) (m : VMod)
  | vfms (d a b c : VRegNo) (m : VMod)
  | vfnma (d a b c : VRegNo) (m : VMod)
  | vsqrt (d a : VRegNo) (m : VMod)
  | vexp2 (d a : VRegNo) (m : VMod)
  | vlog2 (d a : VRegNo) (m : VMod)
  | vrsq (d a : VRegNo) (m : VMod)
  | vabs (d a : VRegNo) (m : VMod)
  | vneg (d a : VRegNo) (m : VMod)
  -- major 0x0A, vector data (R226 to R231)
  | vcvt (d a : VRegNo) (src : ETy) (m : VMod)
  | vquant (d a : VRegNo) (ty : ETy) (rnd : Rnd) (sat : Bool) (src : ETy) (kind : BitVec 2)
  | vdeq (d a : VRegNo) (src : ETy) (m : VMod)
  | vclass (d a : VRegNo) (ty : ETy) (mask : MRegNo) (keep : Bool)
  | vcmp (d : MRegNo) (rel : Rel) (a b : VRegNo) (ty : ETy) (mask : MRegNo) (keep : Bool)
  | vsel (d a b : VRegNo) (ty : ETy) (mask : MRegNo)
  | vmv (d a : VRegNo) (ty : Option ETy) (mask : MRegNo) (keep : Bool)
  | vsplat (d : VRegNo) (a : Fin 32) (fromF : Bool) (ty : ETy)
  | vslide (d a : VRegNo) (b : XReg) (ty : ETy) (mask : MRegNo) (keep : Bool)
  | vperm (d a b : VRegNo) (ty : ETy) (mask : MRegNo) (keep : Bool)
  | vreds (d : Fin 32) (a : VRegNo) (c : Fin 32) (ty : ETy) (rnd : Rnd) (sat : Bool) (mask : MRegNo)
  | vredm (d : Fin 32) (a : VRegNo) (c : Fin 32) (ty : ETy) (isMax : Bool) (mask : MRegNo)
  | vscan (d a : VRegNo) (c : Fin 32) (m : VMod)
  | vcomp (d a : VRegNo) (ty : ETy) (mask : MRegNo)
  | vmvx (toV : Bool) (useF : Bool) (d a : Fin 32) (b : XReg) (ty : ETy)
  -- major 0x0B, vector memory (R233 to R238)
  | vld (m : WM)
  | vst (m : WM)
  | vlds (m : WM)
  | vsts (m : WM)
  | vldx (m : WM)
  | vstx (m : WM)
  | vldt (m : WM)
  | vstt (m : WM)
  | slq (m : WM)
  | slqtake (d : VRegNo) (a b : XReg)
  -- major 0x0C, vector atomics and waits (R288 to R294)
  | vamo (d : VRegNo) (b : BRegNo) (k c : VRegNo) (op : BitVec 3) (m : AMod)
  | vcas (d : VRegNo) (b : BRegNo) (k c : VRegNo) (m : AMod)
  | gcsleep (b : BRegNo) (k c : VRegNo) (ty : ETy) (mask : MRegNo) (scale : BitVec 3)
  | awin (d : XReg) (b : BRegNo) (w : BitVec 6) (m : FMod)
  | aacc (b : BRegNo) (k c : VRegNo) (m : AMod)
  | amerge (b : BRegNo) (c : XReg) (ty : ETy) (rnd : Rnd) (sat : Bool) (ord : MOrd) (sc : Scope)
  -- major 0x0D, masks (R240)
  | mand (d a b : MRegNo)
  | mor (d a b : MRegNo)
  | mxor (d a b : MRegNo)
  | mnot (d a : MRegNo)
  | mmovx (d : XReg) (a : MRegNo) (b : XReg)
  | msetx (d : MRegNo) (a b : XReg)
  | mpush (a : MRegNo)
  | mpop (d : MRegNo)
  -- major 0x0E, predicates (R244)
  | pcmp (d : PRegNo) (rel : Rel) (a b : VRegNo) (tag : BitVec 4) (ty : ETy) (mask : MRegNo) (keep : Bool)
  | pand (d a b : PRegNo) (mode : Fin 3) (rnd : Rnd) (mask : MRegNo) (keep : Bool)
  | por (d a b : PRegNo) (mode : Fin 3) (rnd : Rnd) (mask : MRegNo) (keep : Bool)
  | pnot (d a : PRegNo) (mask : MRegNo) (keep : Bool)
  | pblend (d a b : VRegNo) (c : PRegNo) (m : VMod)
  | pcoll (d : MRegNo) (a : PRegNo) (mask : MRegNo) (keep : Bool)
  | phard (d : MRegNo) (a : PRegNo) (b : XReg) (mask : MRegNo) (keep : Bool)
  | pgrad (d a : VRegNo) (b c : Fin 32) (kind : Fin 4) (m : VMod)
  | pmv (d a : PRegNo) (mask : MRegNo) (keep : Bool)
  | pseed (d : PRegNo) (a : VRegNo) (tag : BitVec 4) (ty : ETy) (rnd : Rnd) (mask : MRegNo) (keep : Bool)
  | pprov (set : Bool) (x : XReg) (p : PRegNo)
  -- major 0x0F, algebra (R252)
  | atld (d : AlgNo) (b : BRegNo) (off : BitVec 9)
  | atinfo (d : XReg) (a : AlgNo) (item : BitVec 2)
  | amul (d a b : VRegNo) (c : AlgNo) (m : VMod) (cjg opp : Bool)
  | amac (d a b : VRegNo) (c : AlgNo) (m : VMod) (cjg opp : Bool)
  | aconj (d a : VRegNo) (c : AlgNo) (ty : ETy) (mask : MRegNo) (keep : Bool)
  -- major 0x10, matrix (R260)
  | mzero (d : AccNo)
  | mopa (d : AccNo) (a b : VRegNo) (m : PMod)
  | mops (d : AccNo) (a b : VRegNo) (m : PMod)
  | mldw (a : BRegNo) (off : BitVec 9) (ty : ETy) (trn : Bool)
  | mstrm (d : AccNo) (a : VRegNo) (b : XReg) (m : PMod)
  | mrdrow (d : VRegNo) (a : AccNo) (b : XReg) (m : FMod)
  | mwrrow (d : AccNo) (a : VRegNo) (b : XReg) (m : FMod)
  | mldacc (d : AccNo) (a : BRegNo) (off : BitVec 9) (ty : ETy)
  | mstacc (d : XReg) (a : BRegNo) (b : AccNo) (c : FReg) (off : BitVec 9) (m : FMod)
  | mbind (a : XReg)
  | msync (sc : Scope)
  | stpair (d : XReg) (a : BRegNo) (b : AccNo) (c : FReg) (off : BitVec 9) (m : FMod)
  -- major 0x11, copies (R285)
  | cpgo (ch : BitVec 6) (a : BRegNo) (b : XReg)
  | cpgob (ch : BitVec 6) (a : BRegNo) (b : XReg)
  | cpwp (d : XReg) (ch : BitVec 6)
  | cpcan (ch : BitVec 6)
  | cpinv (a : XReg) (all : Bool)
  -- major 0x12, buffers and barriers (R275, R278)
  | bufset (a b c : XReg)
  | bufclaim (d a : XReg) (produce : Bool)
  | bufrel (a : XReg)
  | bufstat (d a : XReg)
  | binit (a b : XReg) (sc : Scope)
  | bexp (a b : XReg)
  | barr (a : XReg)
  | bwait (a b : XReg)
  | btry (d a b : XReg)
  -- major 0x13, scratchpad and tags (R286, R287)
  | tglook (d a : XReg)
  | tgins (d a b : XReg)
  | tgdel (d a : XReg)
  | spalloc (d a : XReg) (z : Fin 6)
  | spfree (a : XReg)
  -- major 0x14, fabric (R296 to R302)
  | tdshard (d : XReg) (a : BRegNo) (b c : XReg)
  | fgath (d : XReg) (a : BRegNo) (ty : ETy)
  | fscat (d : XReg) (a : BRegNo) (ty : ETy)
  | fscata (d : XReg) (a : BRegNo) (m : FMod)
  | coll (d : XReg) (a : BRegNo) (m : FMod)
  | rput (d : XReg) (a : BRegNo) (ty : ETy)
  | rget (d : XReg) (a : BRegNo) (ty : ETy)
  -- major 0x15, walker control (R325)
  | wkrun (d : XReg) (a : BRegNo) (b c : XReg)
  | wkwait (a : XReg)
  | wkstat (d a : XReg)
  -- major 0x16, tree engine (R310)
  | trinit (d : XReg) (a : BRegNo)
  | trdesc (d : XReg) (a : BRegNo)
  | trbatch (d : XReg) (a : BRegNo) (b c : XReg)
  | trexp (d : XReg) (a : BRegNo) (b c : XReg)
  | trback (a : BRegNo) (b c : XReg) (mode : Fin 3)
  | trroot (a : BRegNo) (b : XReg)
  | trread (d : XReg) (a : BRegNo) (b c : XReg) (kids : Bool)
  -- major 0x17, attention cache (R317)
  | kvacc (a : BRegNo) (b : VRegNo) (c : XReg) (ty : ETy) (rnd : Rnd) (mask : MRegNo)
  | kvevict (d : XReg) (a : BRegNo) (b c : XReg)
  -- major 0x18, graphs and queues (R320)
  | glaunch (d : XReg) (a : BRegNo) (b : XReg)
  | gdone (d a b : XReg)
  | gquery (d a b : XReg)
  | qnew (d : XReg) (a : BRegNo)
  | qdel (a : XReg) (mode : Fin 3)
  -- pair words, by the half in slot A (R181); `o` is the half in slot B
  | pairAdd (d a b : XReg) (o : HalfB)
  | pairSub (d a b : XReg) (o : HalfB)
  | pairAnd (d a b : XReg) (o : HalfB)
  | pairOr (d a b : XReg) (o : HalfB)
  | pairXor (d a b : XReg) (o : HalfB)
  | pairShl (d a b : XReg) (o : HalfB)
  | pairShr (d a b : XReg) (o : HalfB)
  | pairSlt (d a b : XReg) (o : HalfB)
  | pairAddi (d a : XReg) (i : BitVec 15) (o : HalfB)
  | pairShli (d a : XReg) (n : BitVec 6) (o : HalfB)
  | pairShri (d a : XReg) (n : BitVec 6) (o : HalfB)
  | pairLi (d : XReg) (i : BitVec 15) (o : HalfB)
  | pairLd (d a : XReg) (b : BRegNo) (i : BitVec 11) (o : HalfB)
  | pairSt (d a : XReg) (b : BRegNo) (i : BitVec 11) (o : HalfB)
  | pairVadd (d a b : VRegNo) (o : HalfB)
  | pairVsub (d a b : VRegNo) (o : HalfB)
  | pairVmul (d a b : VRegNo) (o : HalfB)
  | pairVmin (d a b : VRegNo) (o : HalfB)
  | pairVmax (d a b : VRegNo) (o : HalfB)
  | pairVmv (d a : VRegNo) (o : HalfB)
  | pairVsplat (d : VRegNo) (a : XReg) (o : HalfB)
  | pairSlqtake (d : VRegNo) (a b : XReg) (o : HalfB)
  | pairBarr (a : XReg) (o : HalfB)
  | pairBwait (a b : XReg) (o : HalfB)
  -- rows without operands
  | nop
  | exit
  | eret
  | ifence
  | yield
  | waite
  | ret
  | mstart
  | mstop
  | mswap
  -- integer and mask counts (R198, R240)
  | clz (d a : XReg)
  | popc (d a : XReg)
  | mpopc (d : XReg) (a : MRegNo)
  | mfirst (d : XReg) (a : MRegNo)
  -- the walker's own words (R327)
  | wli (d : WReg) (i : BitVec 24)
  | wadd (d a b : WReg) (i : BitVec 16)
  | wsub (d a b : WReg) (i : BitVec 16)
  | wshl (d a b : WReg) (i : BitVec 16)
  | wand (d a b : WReg) (i : BitVec 16)
  | wldix (d a b : WReg) (sz : BitVec 2) (off : BitVec 14)
  | wldvl (a b : WReg) (off : BitVec 14)
  | wseek (a : WReg)
  | wbr (i : BitVec 16)
  | wbeq (a b : WReg) (i : BitVec 16)
  | wblt (a b : WReg) (i : BitVec 16)
  | wloop (a : WReg) (i : BitVec 16)
  | wemit (a : WReg)
  | wrow (a : WReg)
  | wflush
  | wend
  -- events and commands
  -- major 0x00, system (R190)
  | waittWake (sid : Nat)
  | waiteWake (sid : Nat)
  -- major 0x08, vector configuration (R222)
  | mstopDrainDone (sid : Nat)
  -- major 0x0B, vector memory (R233 to R238)
  | slqStripLoad (sid : Nat)
  -- major 0x0C, vector atomics and waits (R288 to R294)
  | gcsleepWake (sid : Nat)
  -- major 0x10, matrix (R260)
  | mbindRendezvous (sid : Nat)
  | matrixQueueExecute (sid : Nat)
  | governorWindow (core : Nat) (b : Nat)
  -- major 0x11, copies (R285)
  | channelRoom (sid : Nat)
  | interlockRetire (sid : Nat)
  | copyByteSignal (core ch n : Nat)
  | copySourceReleased (core ch : Nat)
  | copyDataVisible (core ch : Nat)
  | copyFailed (core ch : Nat)
  -- major 0x12, buffers and barriers (R275, R278)
  | bufclaimWake (sid : Nat)
  | bwaitWake (sid : Nat)
  -- major 0x14, fabric (R296 to R302)
  | timedPutRelease (op : Nat) (resent : Bool)
  | collectiveApply (op : Nat) (others : List Contribution)
  | collectiveAbort (op : Nat) (others : List Contribution)
  | fabricOpComplete (op : Nat) (peerData : List Byte)
  | fabricOpFailed (op : Nat) (peer : PeerFailure)
  -- major 0x15, walker control (R325)
  | walkerRoom (sid : Nat)
  | wkwaitWake (sid : Nat)
  | walkerRunStart (cluster : Nat)
  | walkerRunFailed (cluster : Nat)
  -- major 0x16, tree engine (R310)
  | treeWaitEnd (sid : Nat)
  | treeRequestPerformed (sid : Nat)
  | treeReclaimNode (cluster : Nat) (tree : Nat)
  | treeReclaimStopped (cluster : Nat) (tree : Nat)
  -- major 0x18, graphs and queues (R320)
  | glaunchRingSpace (sid : Nat)
  | gdoneWake (sid : Nat)
  -- commands (R348, R364, R453)
  | ident (c : Cmd)
  | physwin (c : Cmd)
  | ctxnew (c : Cmd)
  | ctxload (c : Cmd) (items : List LoadItem) (syms : List HostSym) (tables : List Nat)
  | ctxend (c : Cmd)
  | tlbinv (c : Cmd)
  | partset (c : Cmd)
  | qcreate (c : Cmd)
  | qdestroy (c : Cmd)
  | winset (c : Cmd)
  | winclr (c : Cmd)
  | groupset (c : Cmd)
  | clockset (c : Cmd)
  | hostreg (c : Cmd)
  | govset (c : Cmd)
  | monread (c : Cmd)
  | attest (c : Cmd)
  | fwload (c : Cmd) (image : List Byte)
  | ckpt (c : Cmd)
  | ckptcfg (c : Cmd)
  | logcfg (c : Cmd)
  | restore (c : Cmd)
  | replay (c : Cmd)
  | ckinfo (c : Cmd)
  | spares (c : Cmd)
  -- fabric and module events
  | sendDiscarded (c : Cmd)
  | remoteWrite (r : Remote) (data : List Byte) (mark : Option Word)
  | remoteRead (r : Remote) (len : Nat)
  | remoteAtomic (r : Remote) (op : RAtomic) (v w : Word)
  | ptpMessage (rate : Int) (ebound : Nat) (locked : Bool)
  | ptpLockLost
  | submissionRead (q : Nat)
  | completionRecordWrite (q : Nat)
  | poolEntry (launch node : Nat)
  | dispatch (launch node gang : Nat) (places : List Nat) (shares : List (BitVec 2)) (areas : List Areas)
  | preemptForTier0 (launch node : Nat)
  | preemption (launch node gang : Nat)
  | resumption (launch node gang : Nat) (shares : List (BitVec 2))
  | residencyYield (launch node gang : Nat)
  | nodeComplete (launch node : Nat)
  | demotion (launch node : Nat)
  | timedNodeFire (launch node : Nat)
  | deadlineMissed (launch : Nat)
  | deferredFailureTaken (sid : Nat)
  | monitorSample (samples : List (Sensor × Int))
  | spareSwap (kind unit : Nat)
  | unitFailure (kind unit : Nat)
  | protectionPoint (p : Protection)
  | powerLoss
  | ckptStart
  | ckptComplete
  | secureBoot (image : List Byte)
  | connectionSetup (src : Nat) (feature : Nat)
  deriving DecidableEq, Repr

/-- The rows from `clz` on as data of their own, which compiled code can build; `Late.instr` gives the instruction. -/
inductive Late where
  | clz (d a : XReg)
  | popc (d a : XReg)
  | mpopc (d : XReg) (a : MRegNo)
  | mfirst (d : XReg) (a : MRegNo)
  | wli (d : WReg) (i : BitVec 24)
  | wadd (d a b : WReg) (i : BitVec 16)
  | wsub (d a b : WReg) (i : BitVec 16)
  | wshl (d a b : WReg) (i : BitVec 16)
  | wand (d a b : WReg) (i : BitVec 16)
  | wldix (d a b : WReg) (sz : BitVec 2) (off : BitVec 14)
  | wldvl (a b : WReg) (off : BitVec 14)
  | wseek (a : WReg)
  | wbr (i : BitVec 16)
  | wbeq (a b : WReg) (i : BitVec 16)
  | wblt (a b : WReg) (i : BitVec 16)
  | wloop (a : WReg) (i : BitVec 16)
  | wemit (a : WReg)
  | wrow (a : WReg)
  | wflush
  | wend
  | waittWake (sid : Nat)
  | waiteWake (sid : Nat)
  | mstopDrainDone (sid : Nat)
  | slqStripLoad (sid : Nat)
  | gcsleepWake (sid : Nat)
  | mbindRendezvous (sid : Nat)
  | matrixQueueExecute (sid : Nat)
  | governorWindow (core : Nat) (b : Nat)
  | channelRoom (sid : Nat)
  | interlockRetire (sid : Nat)
  | copyByteSignal (core ch n : Nat)
  | copySourceReleased (core ch : Nat)
  | copyDataVisible (core ch : Nat)
  | copyFailed (core ch : Nat)
  | bufclaimWake (sid : Nat)
  | bwaitWake (sid : Nat)
  | timedPutRelease (op : Nat) (resent : Bool)
  | collectiveApply (op : Nat) (others : List Contribution)
  | collectiveAbort (op : Nat) (others : List Contribution)
  | fabricOpComplete (op : Nat) (peerData : List Byte)
  | fabricOpFailed (op : Nat) (peer : PeerFailure)
  | walkerRoom (sid : Nat)
  | wkwaitWake (sid : Nat)
  | walkerRunStart (cluster : Nat)
  | walkerRunFailed (cluster : Nat)
  | treeWaitEnd (sid : Nat)
  | treeRequestPerformed (sid : Nat)
  | treeReclaimNode (cluster : Nat) (tree : Nat)
  | treeReclaimStopped (cluster : Nat) (tree : Nat)
  | glaunchRingSpace (sid : Nat)
  | gdoneWake (sid : Nat)
  | ident (c : Cmd)
  | physwin (c : Cmd)
  | ctxnew (c : Cmd)
  | ctxload (c : Cmd) (items : List LoadItem) (syms : List HostSym) (tables : List Nat)
  | ctxend (c : Cmd)
  | tlbinv (c : Cmd)
  | partset (c : Cmd)
  | qcreate (c : Cmd)
  | qdestroy (c : Cmd)
  | winset (c : Cmd)
  | winclr (c : Cmd)
  | groupset (c : Cmd)
  | clockset (c : Cmd)
  | hostreg (c : Cmd)
  | govset (c : Cmd)
  | monread (c : Cmd)
  | attest (c : Cmd)
  | fwload (c : Cmd) (image : List Byte)
  | ckpt (c : Cmd)
  | ckptcfg (c : Cmd)
  | logcfg (c : Cmd)
  | restore (c : Cmd)
  | replay (c : Cmd)
  | ckinfo (c : Cmd)
  | spares (c : Cmd)
  | sendDiscarded (c : Cmd)
  | remoteWrite (r : Remote) (data : List Byte) (mark : Option Word)
  | remoteRead (r : Remote) (len : Nat)
  | remoteAtomic (r : Remote) (op : RAtomic) (v w : Word)
  | ptpMessage (rate : Int) (ebound : Nat) (locked : Bool)
  | ptpLockLost
  | submissionRead (q : Nat)
  | completionRecordWrite (q : Nat)
  | poolEntry (launch node : Nat)
  | dispatch (launch node gang : Nat) (places : List Nat) (shares : List (BitVec 2)) (areas : List Areas)
  | preemptForTier0 (launch node : Nat)
  | preemption (launch node gang : Nat)
  | resumption (launch node gang : Nat) (shares : List (BitVec 2))
  | residencyYield (launch node gang : Nat)
  | nodeComplete (launch node : Nat)
  | demotion (launch node : Nat)
  | timedNodeFire (launch node : Nat)
  | deadlineMissed (launch : Nat)
  | deferredFailureTaken (sid : Nat)
  | monitorSample (samples : List (Sensor × Int))
  | spareSwap (kind unit : Nat)
  | unitFailure (kind unit : Nat)
  | protectionPoint (p : Protection)
  | powerLoss
  | ckptStart
  | ckptComplete
  | secureBoot (image : List Byte)
  | connectionSetup (src : Nat) (feature : Nat)
  deriving DecidableEq, Repr

/-- The instruction of a late row. -/
noncomputable def Late.instr : Late → Instr
  | .clz d a => .clz d a
  | .popc d a => .popc d a
  | .mpopc d a => .mpopc d a
  | .mfirst d a => .mfirst d a
  | .wli d i => .wli d i
  | .wadd d a b i => .wadd d a b i
  | .wsub d a b i => .wsub d a b i
  | .wshl d a b i => .wshl d a b i
  | .wand d a b i => .wand d a b i
  | .wldix d a b sz off => .wldix d a b sz off
  | .wldvl a b off => .wldvl a b off
  | .wseek a => .wseek a
  | .wbr i => .wbr i
  | .wbeq a b i => .wbeq a b i
  | .wblt a b i => .wblt a b i
  | .wloop a i => .wloop a i
  | .wemit a => .wemit a
  | .wrow a => .wrow a
  | .wflush => .wflush
  | .wend => .wend
  | .waittWake sid => .waittWake sid
  | .waiteWake sid => .waiteWake sid
  | .mstopDrainDone sid => .mstopDrainDone sid
  | .slqStripLoad sid => .slqStripLoad sid
  | .gcsleepWake sid => .gcsleepWake sid
  | .mbindRendezvous sid => .mbindRendezvous sid
  | .matrixQueueExecute sid => .matrixQueueExecute sid
  | .governorWindow core b => .governorWindow core b
  | .channelRoom sid => .channelRoom sid
  | .interlockRetire sid => .interlockRetire sid
  | .copyByteSignal core ch n => .copyByteSignal core ch n
  | .copySourceReleased core ch => .copySourceReleased core ch
  | .copyDataVisible core ch => .copyDataVisible core ch
  | .copyFailed core ch => .copyFailed core ch
  | .bufclaimWake sid => .bufclaimWake sid
  | .bwaitWake sid => .bwaitWake sid
  | .timedPutRelease op resent => .timedPutRelease op resent
  | .collectiveApply op others => .collectiveApply op others
  | .collectiveAbort op others => .collectiveAbort op others
  | .fabricOpComplete op peerData => .fabricOpComplete op peerData
  | .fabricOpFailed op peer => .fabricOpFailed op peer
  | .walkerRoom sid => .walkerRoom sid
  | .wkwaitWake sid => .wkwaitWake sid
  | .walkerRunStart cluster => .walkerRunStart cluster
  | .walkerRunFailed cluster => .walkerRunFailed cluster
  | .treeWaitEnd sid => .treeWaitEnd sid
  | .treeRequestPerformed sid => .treeRequestPerformed sid
  | .treeReclaimNode cluster tree => .treeReclaimNode cluster tree
  | .treeReclaimStopped cluster tree => .treeReclaimStopped cluster tree
  | .glaunchRingSpace sid => .glaunchRingSpace sid
  | .gdoneWake sid => .gdoneWake sid
  | .ident c => .ident c
  | .physwin c => .physwin c
  | .ctxnew c => .ctxnew c
  | .ctxload c items syms tables => .ctxload c items syms tables
  | .ctxend c => .ctxend c
  | .tlbinv c => .tlbinv c
  | .partset c => .partset c
  | .qcreate c => .qcreate c
  | .qdestroy c => .qdestroy c
  | .winset c => .winset c
  | .winclr c => .winclr c
  | .groupset c => .groupset c
  | .clockset c => .clockset c
  | .hostreg c => .hostreg c
  | .govset c => .govset c
  | .monread c => .monread c
  | .attest c => .attest c
  | .fwload c image => .fwload c image
  | .ckpt c => .ckpt c
  | .ckptcfg c => .ckptcfg c
  | .logcfg c => .logcfg c
  | .restore c => .restore c
  | .replay c => .replay c
  | .ckinfo c => .ckinfo c
  | .spares c => .spares c
  | .sendDiscarded c => .sendDiscarded c
  | .remoteWrite r data mark => .remoteWrite r data mark
  | .remoteRead r len => .remoteRead r len
  | .remoteAtomic r op v w => .remoteAtomic r op v w
  | .ptpMessage rate ebound locked => .ptpMessage rate ebound locked
  | .ptpLockLost => .ptpLockLost
  | .submissionRead q => .submissionRead q
  | .completionRecordWrite q => .completionRecordWrite q
  | .poolEntry launch node => .poolEntry launch node
  | .dispatch launch node gang places shares areas => .dispatch launch node gang places shares areas
  | .preemptForTier0 launch node => .preemptForTier0 launch node
  | .preemption launch node gang => .preemption launch node gang
  | .resumption launch node gang shares => .resumption launch node gang shares
  | .residencyYield launch node gang => .residencyYield launch node gang
  | .nodeComplete launch node => .nodeComplete launch node
  | .demotion launch node => .demotion launch node
  | .timedNodeFire launch node => .timedNodeFire launch node
  | .deadlineMissed launch => .deadlineMissed launch
  | .deferredFailureTaken sid => .deferredFailureTaken sid
  | .monitorSample samples => .monitorSample samples
  | .spareSwap kind unit => .spareSwap kind unit
  | .unitFailure kind unit => .unitFailure kind unit
  | .protectionPoint p => .protectionPoint p
  | .powerLoss => .powerLoss
  | .ckptStart => .ckptStart
  | .ckptComplete => .ckptComplete
  | .secureBoot image => .secureBoot image
  | .connectionSetup src feature => .connectionSetup src feature

end Sys2Proof
end

