-- ==== Sys2Proof/Machine/Types.lean ====
section
/-! DEFINITION. The codes of the shared fields (R126, R177 to R179, R186) and what each element type is: its storage
width (R220), its class (R120, R121, R224) and the type lists that instructions allow. -/

namespace Sys2Proof.Machine

/-- The element type code of R177. -/
def etyCode : ETy → Nat
  | .f32 => 0 | .bf16 => 1 | .f16 => 2 | .e5m2 => 3 | .e4m3 => 4 | .e3m2 => 5 | .e2m3 => 6 | .e2m1 => 7
  | .i16 => 8 | .i8 => 9 | .n8 => 10 | .i4 => 11 | .n4 => 12 | .t2 => 13 | .b4 => 14 | .b8 => 15
  | .f64 => 16 | .i32 => 17 | .n32 => 18 | .i64 => 19 | .n64 => 20 | .n16 => 21 | .fr16 => 22

/-- The element type of a code; codes 23 to 31 are reserved (R177). -/
def etyOf : Nat → Option ETy
  | 0 => some .f32 | 1 => some .bf16 | 2 => some .f16 | 3 => some .e5m2 | 4 => some .e4m3 | 5 => some .e3m2
  | 6 => some .e2m3 | 7 => some .e2m1 | 8 => some .i16 | 9 => some .i8 | 10 => some .n8 | 11 => some .i4
  | 12 => some .n4 | 13 => some .t2 | 14 => some .b4 | 15 => some .b8 | 16 => some .f64 | 17 => some .i32
  | 18 => some .n32 | 19 => some .i64 | 20 => some .n64 | 21 => some .n16 | 22 => some .fr16 | _ => none

def rndCode : Rnd → Nat
  | .rne => 0 | .rtz => 1 | .rup => 2 | .rdn => 3 | .rna => 4 | .rst => 5 | .dyn => 6

/-- The rounding rule of a code; code 7 is reserved (R126). -/
def rndOf : Nat → Option Rnd
  | 0 => some .rne | 1 => some .rtz | 2 => some .rup | 3 => some .rdn | 4 => some .rna | 5 => some .rst
  | 6 => some .dyn | _ => none

def ordCode : MOrd → Nat
  | .plain => 0 | .acq => 1 | .rel => 2 | .ar => 3

def ordOf : Nat → Option MOrd
  | 0 => some .plain | 1 => some .acq | 2 => some .rel | 3 => some .ar | _ => none

def scopeCode : Scope → Nat
  | .st => 0 | .co => 1 | .cl => 2 | .di => 3 | .mo => 4 | .fa => 5

def scopeOf : Nat → Option Scope
  | 0 => some .st | 1 => some .co | 2 => some .cl | 3 => some .di | 4 => some .mo | 5 => some .fa | _ => none

def relCode : Rel → Nat
  | .eq => 0 | .ne => 1 | .lt => 2 | .le => 3 | .gt => 4 | .ge => 5

def relOf : Nat → Option Rel
  | 0 => some .eq | 1 => some .ne | 2 => some .lt | 3 => some .le | 4 => some .gt | 5 => some .ge | _ => none

/-- The place of an event class in the FIDX registers of R134. -/
def evIndex : EvClass → Fin 6
  | .v => 0 | .z => 1 | .o => 2 | .u => 3 | .i => 4 | .s => 5

def evOf : Nat → EvClass
  | 0 => .v | 1 => .z | 2 => .o | 3 => .u | 4 => .i | _ => .s

/-- System register numbers: R27, R79, R134, R186, R356, R360. -/
def sysRegNo : SysReg → Nat
  | .vtype => 0x001 | .vl => 0x002 | .mvl => 0x003 | .esr => 0x004 | .fstat => 0x010 | .tau => 0x011
  | .fidxA c => 0x020 + 2 * (evIndex c).val
  | .fidxE c => 0x021 + 2 * (evIndex c).val
  | .rngkey => 0x030 | .rngctr => 0x031 | .time => 0x040 | .govst => 0x041 | .tsync => 0x042 | .govb => 0x043
  | .stripprev => 0x050 | .nodeid => 0x080 | .ldepth => 0x081 | .llin => 0x082
  | .lix l => 0x088 + l.val | .lext l => 0x090 + l.val
  | .codeb => 0x0A0 | .decver => 0x0A1

/-- The register a number names; numbers in no table are reserved (R186, R434 DETAIL 10). -/
def sysRegOf (n : Nat) : Option SysReg :=
  if n = 0x001 then some .vtype else if n = 0x002 then some .vl else if n = 0x003 then some .mvl
  else if n = 0x004 then some .esr else if n = 0x010 then some .fstat else if n = 0x011 then some .tau
  else if 0x020 ≤ n ∧ n ≤ 0x02B then
    (if n % 2 = 0 then some (.fidxA (evOf ((n - 0x020) / 2))) else some (.fidxE (evOf ((n - 0x020) / 2))))
  else if n = 0x030 then some .rngkey else if n = 0x031 then some .rngctr else if n = 0x040 then some .time
  else if n = 0x041 then some .govst else if n = 0x042 then some .tsync else if n = 0x043 then some .govb
  else if n = 0x050 then some .stripprev else if n = 0x080 then some .nodeid else if n = 0x081 then some .ldepth
  else if n = 0x082 then some .llin
  else if 0x088 ≤ n ∧ n ≤ 0x08F then some (.lix (Fin.ofNat 8 (n - 0x088)))
  else if 0x090 ≤ n ∧ n ≤ 0x097 then some (.lext (Fin.ofNat 8 (n - 0x090)))
  else if n = 0x0A0 then some .codeb else if n = 0x0A1 then some .decver else none

/-- Storage bits of an element, R220: 8 for the 6-bit types; of a code, for the block types. -/
def sbits : ETy → Nat
  | .f32 => 32 | .bf16 => 16 | .f16 => 16 | .e5m2 => 8 | .e4m3 => 8 | .e3m2 => 8 | .e2m3 => 8 | .e2m1 => 4
  | .i16 => 16 | .i8 => 8 | .n8 => 8 | .i4 => 4 | .n4 => 4 | .t2 => 2 | .b4 => 4 | .b8 => 8
  | .f64 => 64 | .i32 => 32 | .n32 => 32 | .i64 => 64 | .n64 => 64 | .n16 => 16 | .fr16 => 16

/-- Bytes of an element of eight bits or more. -/
def sbytes (t : ETy) : Nat := sbits t / 8

/-- The class F of R224. -/
def isF : ETy → Bool
  | .f64 | .f32 | .f16 | .bf16 => true
  | _ => false

/-- The class I of R224. -/
def isI : ETy → Bool
  | .i8 | .n8 | .i16 | .n16 | .i32 | .n32 | .i64 | .n64 => true
  | _ => false

/-- The types f64, f32, f16 and bf16, or an integer of R224. -/
def isFI (t : ETy) : Bool := isF t || isI t

/-- The block types b4 and b8 (R122, R123). -/
def isBlock : ETy → Bool
  | .b4 | .b8 => true
  | _ => false

/-- The two's complement types. -/
def isSigned : ETy → Bool
  | .i4 | .i8 | .i16 | .i32 | .i64 => true
  | _ => false

/-- The integer types of R121, of every width. -/
def isIntTy : ETy → Bool
  | .i4 | .n4 | .i8 | .n8 | .i16 | .n16 | .i32 | .n32 | .i64 | .n64 => true
  | _ => false

/-- Types an LD or ST names (R213). -/
def isLdTy : ETy → Bool
  | .i64 | .n64 | .i32 | .n32 | .i16 | .n16 | .i8 | .n8 | .f64 | .f32 | .f16 | .bf16 => true
  | _ => false

/-- Types of LR, SC, AMO, VCAS and GCSLEEP (R213, R288). -/
def isAtomTy : ETy → Bool
  | .i64 | .n64 | .i32 | .n32 => true
  | _ => false

/-- Types of VAMO, AWIN, AACC and AMERGE (R288, R292). -/
def isWinTy : ETy → Bool
  | .f32 | .f64 | .i32 | .n32 | .i64 | .n64 => true
  | _ => false

/-- Types of the strided, indexed and tile forms, and of SLQ (R233, R236). -/
def isByteTy (t : ETy) : Bool := (8 ≤ sbits t) && !isBlock t

/-- The matrix operand formats of R258. -/
def isMatTy : ETy → Bool
  | .f32 | .bf16 | .f16 | .e5m2 | .e4m3 | .e3m2 | .e2m3 | .e2m1 | .b8 | .b4
  | .i16 | .i8 | .n8 | .i4 | .n4 | .t2 => true
  | _ => false

/-- Integer matrix formats, whose accumulator is i32 (R258). -/
def isMatInt : ETy → Bool
  | .i16 | .i8 | .n8 | .i4 | .n4 | .t2 => true
  | _ => false

/-- Types of MRDROW and MWRROW (R266). -/
def isRowTy (t : ETy) : Bool := !isBlock t && (sbits t ≤ 32) && (t != .t2) && (t != .fr16)

/-- Types of MSTACC (R267). -/
def isStaccTy : ETy → Bool
  | .f32 | .bf16 | .f16 | .e5m2 | .e4m3 | .e3m2 | .e2m3 | .e2m1 | .i32 | .i16 | .i8 | .n8 | .i4 | .n4 => true
  | _ => false

/-- Types of STPAIR and of algebra forms of matrix products (R265, R268). -/
def isPairTy : ETy → Bool
  | .f32 | .bf16 | .f16 => true
  | _ => false

/-- Types of FSCATA: every non-block type (R298); round_to (R127, R128) gives each its sum (R138, R300). -/
def isSumTy (t : ETy) : Bool := !isBlock t

/-- Types of COLL (R301). -/
def isCollTy : ETy → Bool
  | .f64 | .f32 | .f16 | .bf16 | .i32 | .n32 | .i64 | .n64 => true
  | _ => false

/-- The block length of a BLK code, R221: 0 stands for none. -/
def blkLen : Nat → Nat
  | 1 => 16 | 2 => 32 | 3 => 64 | _ => 0

/-- `bytes(T, n)` of R220, with `l` the block length. -/
def bytesOf (t : ETy) (l n : Nat) : Nat :=
  if isBlock t then ((n * sbits t + 7) / 8 + 63) / 64 * 64 + n / l else (n * sbits t + 7) / 8

def countOf : VCount → Nat
  | .c8 => 8 | .c16 => 16 | .c32 => 32

end Sys2Proof.Machine
end

