-- ==== Sys2Proof/Machine/Num.lean ====
section
/-! DEFINITION. Numbers (spec 06): exact values, the element formats, rounding and delivery (R120 to R131), the
stochastic draw (R129), and the named helpers of R141. Every value is exact until `roundTo` delivers it. -/

namespace Sys2Proof.Machine

/-- A set of events, bits 6:0 as FSTAT's flags: D S V Z O U I (R132). -/
abbrev Ev := BitVec 7

def evI : Ev := 1#7
def evU : Ev := 2#7
def evO : Ev := 4#7
def evZ : Ev := 8#7
def evV : Ev := 16#7
def evS : Ev := 32#7
def evD : Ev := 64#7

/-- An event when a condition holds. -/
def evIf (c : Bool) (e : Ev) : Ev := if c then e else 0#7

/-- The sign an exact zero takes: of every addend, or of addends that cancel (R127). -/
inductive ZSign where
  | pos | neg | cancel
  deriving DecidableEq, Repr

/-- A rational number `num · 2^exp / den`. -/
structure Q where
  num : Int
  exp : Int
  den : Nat
  deriving DecidableEq, Repr

/-- An exact value: R125's decoded values, with the sign of zero that R127 needs. `nan true` is a signalling NaN. -/
inductive Val where
  | nan (sig : Bool)
  | inf (neg : Bool)
  | zero (z : ZSign)
  | fin (q : Q)
  deriving DecidableEq, Repr

/-- A positive exact magnitude: rational, or one of the irrational results of R224, R225 and R141. -/
inductive Mag where
  | rat (n : Nat) (e : Int) (d : Nat)
  | sqrt (n : Nat) (e : Int) (d : Nat)
  | rsqrt (n : Nat) (e : Int) (d : Nat)
  | exp2 (q : Q)
  | alog2 (n : Nat) (e : Int)
  deriving DecidableEq, Repr

/-- What `roundTo` takes: a value, or a signed irrational magnitude. -/
inductive Real' where
  | val (v : Val)
  | mag (neg : Bool) (m : Mag)
  deriving DecidableEq, Repr

/-! ### Exact arithmetic -/

def zsign (neg : Bool) : ZSign := if neg then .neg else .pos

/-- A rational as a value; a zero gets the sign given. -/
def ofQ (q : Q) (z : ZSign) : Val := if q.num = 0 then .zero z else .fin q

def ofInt (i : Int) : Val := ofQ ⟨i, 0, 1⟩ .pos

def qmul (a b : Q) : Q := ⟨a.num * b.num, a.exp + b.exp, a.den * b.den⟩

/-- Scale to a common exponent and denominator, then add. -/
def qadd (a b : Q) : Q :=
  let e := min a.exp b.exp
  let x := a.num * 2 ^ (a.exp - e).toNat
  let y := b.num * 2 ^ (b.exp - e).toNat
  if a.den = b.den then ⟨x + y, e, a.den⟩ else ⟨x * b.den + y * a.den, e, a.den * b.den⟩

def qneg (a : Q) : Q := ⟨-a.num, a.exp, a.den⟩

/-- `a / b` for a non-zero `b`. -/
def qdiv (a b : Q) : Q :=
  let s : Int := if b.num < 0 then -1 else 1
  ⟨s * a.num * b.den, a.exp - b.exp, a.den * b.num.natAbs⟩

/-- Exact comparison of two rationals: is `a < b`. -/
def qlt (a b : Q) : Bool := (qadd b (qneg a)).num > 0

def isNan : Val → Bool
  | .nan _ => true
  | _ => false

def isSnan : Val → Bool
  | .nan s => s
  | _ => false

/-- A value about to be converted: a signalling NaN raises V (R130). -/
def converted (v : Val × Ev) : Val × Ev := (v.1, v.2 ||| evIf (isSnan v.1) evV)

def isInf : Val → Bool
  | .inf _ => true
  | _ => false

def isZero : Val → Bool
  | .zero _ => true
  | _ => false

/-- The sign of a number; a NaN has none. -/
def isNeg : Val → Bool
  | .inf n => n
  | .zero z => z == .neg
  | .fin q => q.num < 0
  | .nan _ => false

def vneg (v : Val) : Val :=
  match v with
  | .nan s => .nan s
  | .inf n => .inf !n
  | .zero .pos => .zero .neg
  | .zero .neg => .zero .pos
  | .zero .cancel => .zero .cancel
  | .fin q => .fin (qneg q)

/-- A number as a rational; infinities and NaN are read as zero and never reach here. -/
def toQ : Val → Q
  | .fin q => q
  | _ => ⟨0, 0, 1⟩

/-- exact_mul of R141, special operands by R130. -/
def exactMul (a b : Val) : Val × Ev :=
  if isNan a || isNan b then (.nan false, evIf (isSnan a || isSnan b) evV)
  else if (isInf a && isZero b) || (isZero a && isInf b) then (.nan false, evV)
  else
    let s := isNeg a != isNeg b
    if isInf a || isInf b then (.inf s, 0#7)
    else if isZero a || isZero b then (.zero (zsign s), 0#7)
    else (ofQ (qmul (toQ a) (toQ b)) (zsign s), 0#7)

/-- The zero sign of a sum of addends (R127): −0 when every addend is −0, +0 when none is negative, else they cancel. -/
def sumZero (vs : List Val) : ZSign :=
  if vs.all (fun v => v == .zero .neg) then .neg
  else if vs.all (fun v => !isNeg v) then .pos
  else .cancel

/-- The exact sum of a list of values, none of them NaN; opposite infinities are invalid (R130). -/
def sumNums (vs : List Val) : Val × Ev :=
  if vs.any (· == .inf true) && vs.any (· == .inf false) then (.nan false, evV)
  else if vs.any (· == .inf true) then (.inf true, 0#7)
  else if vs.any (· == .inf false) then (.inf false, 0#7)
  else (ofQ (vs.foldl (fun acc v => qadd acc (toQ v)) ⟨0, 0, 1⟩) (sumZero vs), 0#7)

/-- The exact sum of a list of values, special operands by R130. -/
def exactSum (vs : List Val) : Val × Ev :=
  if vs.any isNan then (.nan false, evIf (vs.any isSnan) evV) else sumNums vs

def exactAdd (a b : Val) : Val × Ev := exactSum [a, b]

/-- The exact sum of an addend and products, as one fused operation (R130, R131, R141 fused_dot): a NaN anywhere
gives NaN, and then only a signalling operand raises V. -/
def fusedSum (acc : Val) (ps : List (Val × Val)) : Val × Ev :=
  let ops := acc :: ps.flatMap (fun p => [p.1, p.2])
  if ops.any isNan then (.nan false, evIf (ops.any isSnan) evV)
  else
    let ms := ps.map (fun p => exactMul p.1 p.2)
    if ms.any (fun m => isNan m.1) then (.nan false, evV)
    else sumNums (acc :: ms.map (·.1))

/-- Exact division, special operands by R130. -/
def exactDiv (a b : Val) : Val × Ev :=
  if isNan a || isNan b then (.nan false, evIf (isSnan a || isSnan b) evV)
  else if (isInf a && isInf b) || (isZero a && isZero b) then (.nan false, evV)
  else
    let s := isNeg a != isNeg b
    if isInf a then (.inf s, 0#7)
    else if isInf b then (.zero (zsign s), 0#7)
    else if isZero b then (.inf s, evZ)
    else if isZero a then (.zero (zsign s), 0#7)
    else (.fin (qdiv (toQ a) (toQ b)), 0#7)

/-- Exact comparison of two numbers: is `a < b` (R130: −0 equals +0 in relations). -/
def vlt (a b : Val) : Bool :=
  match a, b with
  | .nan _, _ | _, .nan _ => false
  | .inf true, .inf true => false
  | .inf true, _ => true
  | _, .inf true => false
  | .inf false, _ => false
  | _, .inf false => true
  | x, y => qlt (toQ x) (toQ y)

def veq (a b : Val) : Bool := !isNan a && !isNan b && !vlt a b && !vlt b a

/-- A relation of R179 on two values; a NaN satisfies only ne (R207). -/
def relHolds (r : Rel) (a b : Val) : Bool :=
  if isNan a || isNan b then r == .ne
  else match r with
    | .eq => veq a b
    | .ne => !veq a b
    | .lt => vlt a b
    | .le => !vlt b a
    | .gt => vlt b a
    | .ge => !vlt a b

/-- V under R207: an ordering relation with a NaN, or a signalling NaN. -/
def relEv (r : Rel) (a b : Val) : Ev :=
  let nan := isNan a || isNan b
  let sig := isSnan a || isSnan b
  evIf ((nan && (r == .lt || r == .le || r == .gt || r == .ge)) || sig) evV

/-! ### Magnitudes: floors at a power of two -/

/-- The integer square root by Newton's iteration from above; `fuel` bounds the rounds. -/
def isqrtLoop : Nat → Nat → Nat → Nat
  | 0, _, x => x
  | fuel + 1, n, x => let y := (x + n / x) / 2; if y < x then isqrtLoop fuel n y else x

def isqrt (n : Nat) : Nat :=
  if n = 0 then 0 else isqrtLoop (Nat.log2 n + 2) n (2 ^ (Nat.log2 n / 2 + 1))

/-- `⌊n · 2^e / d⌋`. -/
def scaleFloor (n : Nat) (e : Int) (d : Nat) : Nat :=
  if 0 ≤ e then n * 2 ^ e.toNat / d else n / (d * 2 ^ (-e).toNat)

/-- Is `n · 2^e / d` an integer. -/
def scaleExact (n : Nat) (e : Int) (d : Nat) : Bool :=
  if 0 ≤ e then n * 2 ^ e.toNat % d = 0 else n % (d * 2 ^ (-e).toNat) = 0

/-- Sum of the Taylor series of e^(t/2^p), all terms positive; `k` is the next index and `term` the last term.
Each term loses less than one unit to its floor. -/
def expLoop (p t : Nat) : Nat → Nat → Nat → Nat → Nat
  | 0, _, _, acc => acc
  | fuel + 1, k, term, acc =>
    let nx := term * t / (k * 2 ^ p)
    if nx = 0 then acc else expLoop p t fuel (k + 1) nx (acc + nx)

/-- Lower and upper bounds of `e^(t/2^p) · 2^p` for `t` below `2^(p+7)`, from a lower and an upper `t`. The slack
covers the floors of all terms and the tail. -/
def expBounds (p tl tu : Nat) : Nat × Nat :=
  let f := 2 * p + 1024
  let l := expLoop p tl f 1 (2 ^ p) (2 ^ p)
  let u := expLoop p tu f 1 (2 ^ p) (2 ^ p)
  (l, u + (u / 2 ^ p + 2) * (4 * f))

/-- `Σ z^(2k+1)/(2k+1)`, scaled by 2^p, for z = zn/zd below one half. -/
def atanhLoop (p zn2 zd2 : Nat) : Nat → Nat → Nat → Nat → Nat
  | 0, _, _, acc => acc
  | fuel + 1, k, pw, acc =>
    if pw = 0 then acc else atanhLoop p zn2 zd2 fuel (k + 2) (pw * zn2 / zd2) (acc + pw / k)

/-- Lower and upper bounds of `ln((1+z)/(1−z)) · 2^p` for z = zn/zd at most one half. -/
def lnBounds (p zn zd : Nat) : Nat × Nat :=
  let l := 2 * atanhLoop p (zn * zn) (zd * zd) (p + 8) 1 (2 ^ p * zn / zd) 0
  (l, l + 8 * (p + 16))

/-- ln 2 is 2·atanh(1/3). -/
def ln2Bounds (p : Nat) : Nat × Nat := lnBounds p 1 3

/-- Lower and upper bounds of `2^f · 2^p` for a fraction f = n/2^s below one. -/
def exp2FracBounds (p n s : Nat) : Nat × Nat :=
  let (ll, lu) := ln2Bounds p
  expBounds p (ll * n / 2 ^ s) (lu * n / 2 ^ s + 1)

/-- Lower and upper bounds of `|log2 m| · 2^p` for m = n·2^e in [1, 2) taken with the integer `c` added:
log2 x = c + log2 m. -/
def log2Bounds (p : Nat) (c : Int) (n : Nat) : Nat × Nat :=
  let k := Nat.log2 n
  let (nl, nu) := lnBounds p (n - 2 ^ k) (n + 2 ^ k)
  let (ll, lu) := ln2Bounds p
  let fl := nl * 2 ^ p / lu
  let fu := nu * 2 ^ p / ll + 1
  if 0 ≤ c then (c.toNat * 2 ^ p + fl, c.toNat * 2 ^ p + fu)
  else ((-c).toNat * 2 ^ p - fu, (-c).toNat * 2 ^ p - fl)

/-- The integer and fraction parts of a rational exponent with a power-of-two denominator, as `(c, n, s)`: the value
is `c + n/2^s`. Exponents beyond the range of every format are cut to ±2^13: the result overflows or underflows alike. -/
def expParts (q : Q) : Int × Nat × Nat :=
  let sh := (-q.exp).toNat
  let up := q.exp.toNat
  let big : Bool := q.num.natAbs * 2 ^ (min up 64) ≥ 2 ^ (13 + sh)
  if big then ((if q.num < 0 then -(2 ^ 13 : Int) else 2 ^ 13), 1, 1)
  else
    let m := q.num * 2 ^ up
    (m / 2 ^ sh, (m % 2 ^ sh).toNat, sh)

/-- The exponent and significand of `n · 2^e` with the significand in [1, 2). -/
def topBit (n : Nat) (e : Int) : Int := (Nat.log2 n : Int) + e

/-- Bounds of a magnitude times 2^k from interval arithmetic at working precision `p`. -/
def magBounds (m : Mag) (k : Int) (p : Nat) : Nat × Nat :=
  match m with
  | .exp2 q =>
    let (c, n, s) := expParts q
    let (l, u) := exp2FracBounds p n s
    (scaleFloor l (c + k - p) 1, scaleFloor u (c + k - p) 1)
  | .alog2 n e =>
    let (l, u) := log2Bounds p (topBit n e) n
    (scaleFloor l (k - p) 1, scaleFloor u (k - p) 1)
  | _ => (0, 0)

/-- Ziv's strategy: double the precision until both bounds have one floor. The irrational values never lie on a
boundary, so the loop ends early; `fuel` rounds reach a precision no format needs. -/
def magFloorLoop (m : Mag) (k : Int) : Nat → Nat → Nat
  | 0, p => (magBounds m k p).1
  | fuel + 1, p =>
    let b := magBounds m k p
    if b.1 = b.2 then b.1 else magFloorLoop m k fuel (2 * p)

/-- `⌊m · 2^k⌋`. -/
def magFloor (m : Mag) (k : Int) : Nat :=
  match m with
  | .rat n e d => scaleFloor n (e + k) d
  | .sqrt n e d => isqrt (scaleFloor n (e + 2 * k) d)
  | .rsqrt n e d => isqrt (scaleFloor d (2 * k - e) n)
  | .exp2 _ | .alog2 _ _ => magFloorLoop m k 6 192

/-- Is `m · 2^k` an integer. VEXP2 and VLOG2 are exact exactly when their result is a value of the target (R225);
those cases are rationals before they come here. -/
def magExact (m : Mag) (k : Int) : Bool :=
  match m with
  | .rat n e d => scaleExact n (e + k) d
  | .sqrt n e d => scaleExact n (e + 2 * k) d && (let y := scaleFloor n (e + 2 * k) d; isqrt y * isqrt y == y)
  | .rsqrt n e d => scaleExact d (2 * k - e) n && (let y := scaleFloor d (2 * k - e) n; isqrt y * isqrt y == y)
  | .exp2 _ | .alog2 _ _ => false

/-- ⌊log2 m⌋. -/
def magLog (m : Mag) : Int :=
  match m with
  | .rat n e d =>
    let g : Int := (Nat.log2 n : Int) - (Nat.log2 d : Int) + e
    if scaleFloor n (e - g) d = 0 then g - 1 else g
  | .sqrt n e d =>
    let g : Int := (Nat.log2 n : Int) - (Nat.log2 d : Int) + e
    let g := if scaleFloor n (e - g) d = 0 then g - 1 else g
    g / 2
  | .rsqrt n e d =>
    let y := isqrt (scaleFloor d (2 * 2400 - e) n)
    (Nat.log2 y : Int) - 2400
  | .exp2 q => (expParts q).1
  | .alog2 _ _ => (Nat.log2 (magFloor m 256) : Int) - 256

/-! ### Formats -/

/-- A floating format: exponent and fraction bits, bias, greatest finite magnitude code, infinity code, NaN code. -/
structure Fmt where
  ebits : Nat
  fbits : Nat
  bias : Nat
  maxCode : Nat
  inf : Option Nat
  nan : Option Nat
  deriving DecidableEq, Repr

/-- The floating formats of R120. -/
def fmtOf : ETy → Option Fmt
  | .f64 => some ⟨11, 52, 1023, 0x7FEFFFFFFFFFFFFF, some 0x7FF0000000000000, some 0x7FF8000000000000⟩
  | .f32 => some ⟨8, 23, 127, 0x7F7FFFFF, some 0x7F800000, some 0x7FC00000⟩
  | .bf16 => some ⟨8, 7, 127, 0x7F7F, some 0x7F80, some 0x7FC0⟩
  | .f16 => some ⟨5, 10, 15, 0x7BFF, some 0x7C00, some 0x7E00⟩
  | .e5m2 => some ⟨5, 2, 15, 0x7B, some 0x7C, some 0x7E⟩
  | .e4m3 => some ⟨4, 3, 7, 0x7E, none, some 0x7F⟩
  | .e3m2 => some ⟨3, 2, 3, 0x1F, none, none⟩
  | .e2m3 => some ⟨2, 3, 1, 0x1F, none, none⟩
  | .e2m1 => some ⟨2, 1, 1, 0x7, none, none⟩
  | _ => none

/-- The sign bit of a format's codes. -/
def fmtSign (f : Fmt) : Nat := 2 ^ (f.ebits + f.fbits)

/-- Which NaNs of the type signal: those of f64, f32, f16 and bf16 with a clear top fraction bit (R130, R206). -/
def nanSignals (t : ETy) (f : Fmt) (mag : Nat) : Bool := isF t && (mag / 2 ^ (f.fbits - 1)) % 2 = 0

/-- decode of a floating code, R120. Of the byte of a 6-bit code bits 7:6 are not looked at (log entry 116). -/
def decodeFmt (t : ETy) (f : Fmt) (code : Nat) : Val :=
  let mag := code % fmtSign f
  let neg : Bool := (code / fmtSign f) % 2 = 1
  if f.inf = some mag then .inf neg
  else if f.maxCode < mag then .nan (nanSignals t f mag)
  else
    let e := mag / 2 ^ f.fbits
    let fr := mag % 2 ^ f.fbits
    let n : Int := if e = 0 then fr else fr + 2 ^ f.fbits
    let x : Int := (if e = 0 then 1 else (e : Int)) - f.bias - f.fbits
    ofQ ⟨if neg then -n else n, x, 1⟩ (zsign neg)

/-- The value of a 4-bit code under a b4 code type, R124; `none` marks −0. -/
def b4Val (kind code : Nat) : Int × Int :=
  -- value as (numerator, exponent of two)
  let m := code % 8
  let neg : Bool := 8 ≤ code
  let sgn : Int := if neg then -1 else 1
  match kind with
  | 0 => (signedOf 4 code, 0)
  | 1 => (sgn * (match m with | 0 => 0 | 1 => 1 | 2 => 2 | 3 => 3 | 4 => 4 | 5 => 6 | 6 => 8 | _ => 12), -1)
  | 2 => (sgn * (if m = 0 then 0 else 2 ^ (m - 1)), 0)
  | _ => (sgn * (match m with | 0 => 0 | 1 => 1 | 2 => 2 | 3 => 3 | 4 => 4 | 5 => 6 | 6 => 8 | _ => 12), 0)

/-- A 4-bit code's value, with −0 where the floating columns of R124 have it. -/
def b4Dec (kind code : Nat) : Val :=
  let (n, e) := b4Val kind code
  ofQ ⟨n, e, 1⟩ (zsign (kind ≠ 0 && 8 ≤ code))

/-- Multiply a value by 2^e. -/
def scaleVal (v : Val) (e : Int) : Val :=
  match v with
  | .fin q => .fin ⟨q.num, q.exp + e, q.den⟩
  | v => v

/-- decode of R141 under R120 to R125, with the event of a code that has no value (R441); `scale` is the block's
scale byte. -/
def decodeEv (t : ETy) (code scale : Nat) : Val × Ev :=
  match t with
  | .b8 =>
    if scale = 255 then (.nan false, 0#7)
    else
      match fmtOf .e4m3 with
      | some f => (scaleVal (decodeFmt .e4m3 f (code % 256)) ((scale : Int) - 127), 0#7)
      | none => (.nan false, 0#7)
  | .b4 =>
    if scale % 64 = 63 then (.nan false, 0#7)
    else (scaleVal (b4Dec (scale / 64 % 4) (code % 16)) ((scale % 64 : Nat) - (31 : Int)), 0#7)
  | .t2 =>
    match code % 4 with
    | 0 => (ofInt 0, 0#7)
    | 1 => (ofInt 1, 0#7)
    | 3 => (ofInt (-1), 0#7)
    | _ => (ofInt 0, evV)
  | .fr16 => (ofQ ⟨(code % 65536 : Nat), 0, 65535⟩ .pos, 0#7)
  | t =>
    match fmtOf t with
    | some f => (decodeFmt t f code, 0#7)
    | none =>
      let w := sbits t
      (ofInt (if isSigned t then signedOf w (code % 2 ^ w) else ((code % 2 ^ w : Nat) : Int)), 0#7)

def decodeVal (t : ETy) (code : Nat) : Val := (decodeEv t code 0).1

/-! ### Rounding -/

/-- A draw of R129, or none where the rounding does not draw. -/
abbrev Draw := Nat

/-- Does the magnitude with floor `n` at scale `k` round away from zero (R126). `d` is the draw under rst. -/
def roundsUp (neg : Bool) (m : Mag) (k : Int) (n : Nat) (rm : Rnd) (d : Draw) : Bool :=
  let h := magFloor m (k + 1) % 2 = 1
  let tie := h && magExact m (k + 1)
  match rm with
  | .rne | .dyn => if tie then n % 2 = 1 else h
  | .rna => h
  | .rtz => false
  | .rup => !neg
  | .rdn => neg
  | .rst =>
    let fr := magFloor m (k + 32) - n * 2 ^ 32
    let ex := magExact m (k + 32)
    if neg then decide (fr < 2 ^ 32 - d) == false else decide (d < fr ∨ (d = fr ∧ ¬ ex))

/-- R126 at scale 2^−k: the rounded integer, and whether it was exact. -/
def roundMag (neg : Bool) (m : Mag) (k : Int) (rm : Rnd) (d : Draw) : Nat × Bool :=
  let n := magFloor m k
  if magExact m k then (n, true)
  else (if roundsUp neg m k n rm d then n + 1 else n, false)

/-- The magnitude of a non-zero finite value. -/
def magOf (q : Q) : Mag := .rat q.num.natAbs q.exp q.den

/-- The IEEE directed result for an overflow (R127): infinity or the greatest finite value. -/
def overflowToInf (neg : Bool) (rm : Rnd) : Bool :=
  match rm with
  | .rne | .rna | .rst | .dyn => true
  | .rtz => false
  | .rup => !neg
  | .rdn => neg

/-- Deliver a finite non-zero magnitude to a floating format (R126, R127). -/
def roundFmt (f : Fmt) (neg : Bool) (m : Mag) (rm : Rnd) (sat : Bool) (d : Draw) : Nat × Ev :=
  let emin : Int := 1 - f.bias
  let e := magLog m
  let tiny : Bool := e < emin
  let qmin : Int := emin - f.fbits
  let q : Int := (if tiny then emin else e) - f.fbits
  let (n, exact) := roundMag neg m (-q) rm d
  let code := n + (q - qmin).toNat * 2 ^ f.fbits
  let s := if neg then fmtSign f else 0
  if f.maxCode < code then
    if sat then (s + f.maxCode, evO ||| evI ||| evS)
    else match f.inf with
      | some ic => (s + (if overflowToInf neg rm then ic else f.maxCode), evO ||| evI)
      | none =>
        match f.nan with
        | some nc => (nc, evO ||| evI)
        | none => (s + f.maxCode, evO ||| evI ||| evS)
  else (s + code, if exact then 0#7 else evI ||| evIf tiny evU)

/-- Deliver to a floating format under R127. -/
def roundToFmt (f : Fmt) (x : Real') (rm : Rnd) (sat : Bool) (d : Draw) : Nat × Ev :=
  match x with
  | .mag neg m => roundFmt f neg m rm sat d
  | .val (.nan _) =>
    match f.nan with
    | some c => (c, 0#7)
    | none => (0, evV)
  | .val (.inf neg) =>
    let s := if neg then fmtSign f else 0
    if sat then (s + f.maxCode, evS ||| evI)
    else match f.inf with
      | some c => (s + c, 0#7)
      | none =>
        match f.nan with
        | some c => (c, evI)
        | none => (s + f.maxCode, evS ||| evI)
  | .val (.zero z) => (if z == .neg || (z == .cancel && rm == .rdn) then fmtSign f else 0, 0#7)
  | .val (.fin q) => roundFmt f (q.num < 0) (magOf q) rm sat d

/-- R126 to an integer: the rounded value, and whether it was exact. -/
def roundToInt (x : Real') (rm : Rnd) (d : Draw) : Int × Bool :=
  match x with
  | .mag neg m => let (n, e) := roundMag neg m 0 rm d; (if neg then -(n : Int) else n, e)
  | .val (.fin q) => let (n, e) := roundMag (q.num < 0) (magOf q) 0 rm d; (if q.num < 0 then -(n : Int) else n, e)
  | .val _ => (0, true)

/-- The bounds of an integer type. -/
def intLo (t : ETy) : Int := if isSigned t then -(2 ^ (sbits t - 1) : Int) else 0
def intHi (t : ETy) : Int := if isSigned t then 2 ^ (sbits t - 1) - 1 else 2 ^ sbits t - 1

/-- An integer as a code of `w` bits. -/
def intCode (w : Nat) (i : Int) : Nat := (i % (2 ^ w : Int)).toNat

/-- Deliver to an integer range with the event that clamping raises (R128). -/
def roundClamp (w : Nat) (lo hi : Int) (clampEv : Ev) (x : Real') (rm : Rnd) (d : Draw) : Nat × Ev :=
  match x with
  | .val (.nan _) => (0, evV)
  | .val (.inf neg) => (intCode w (if neg then lo else hi), clampEv ||| evI)
  | x =>
    let (n, exact) := roundToInt x rm d
    if n < lo then (intCode w lo, clampEv ||| evI)
    else if hi < n then (intCode w hi, clampEv ||| evI)
    else (intCode w n, evIf (!exact) evI)

/-- Deliver to fr16 (R128): clamp to [0, 1] first, then round 65535·x. -/
def roundFr16 (x : Real') (rm : Rnd) (d : Draw) : Nat × Ev :=
  match x with
  | .val (.nan _) => (0, evV)
  | .val (.inf neg) => (if neg then 0 else 65535, evS ||| evI)
  | .val (.zero _) => (0, 0#7)
  | .val (.fin q) =>
    if q.num < 0 then (0, evS ||| evI)
    else if qlt ⟨1, 0, 1⟩ q then (65535, evS ||| evI)
    else
      let (n, exact) := roundMag false (.rat (q.num.natAbs * 65535) q.exp q.den) 0 rm d
      (n, evIf (!exact) evI)
  | .mag neg m =>
    -- no caller delivers an irrational value here; R141's fr_code of a sigmoid is `frSigmoid` below
    if neg then (0, evS ||| evI) else (min 65535 (magFloor m 0 * 65535), evI)

/-- round_to of R141 (R126 to R128), with the rounding resolved and the draw given. -/
def roundTo (t : ETy) (x : Real') (rm : Rnd) (sat : Bool) (d : Draw) : Nat × Ev :=
  match t with
  | .t2 => roundClamp 2 (-1) 1 evS x rm d
  | .fr16 => roundFr16 x rm d
  | t =>
    match fmtOf t with
    | some f => roundToFmt f x rm sat d
    | none => roundClamp (sbits t) (intLo t) (intHi t) evV x rm d

/-- Round an exact value and join the events met on the way. -/
def deliver (t : ETy) (r : Val × Ev) (rm : Rnd) (sat : Bool) (d : Draw) : Nat × Ev :=
  let (c, e) := roundTo t (.val r.1) rm sat d
  (c, r.2 ||| e)

/-- Integer arithmetic's delivery (R128): modulo 2^w, or clamped with S under sat. -/
def deliverInt (t : ETy) (x : Int) (sat : Bool) : Nat × Ev :=
  if sat && (x < intLo t || intHi t < x) then (intCode (sbits t) (if x < intLo t then intLo t else intHi t), evS)
  else (intCode (sbits t) x, 0#7)

/-- The integer value of a code of an integer type. -/
def intVal (t : ETy) (code : Nat) : Int :=
  if isSigned t then signedOf (sbits t) (code % 2 ^ sbits t) else ((code % 2 ^ sbits t : Nat) : Int)

/-! ### The generator, R129 and R141 -/

def rngMix (z : Nat) : Nat :=
  let z := z ^^^ (z >>> 29)
  let z := z * 0xA3C59AC2F1D74E35 % 2 ^ 64
  z ^^^ (z >>> 32)

/-- rng64 of R129. -/
def rng64 (key n j : Nat) : Nat :=
  rngMix (rngMix (rngMix ((n % 2 ^ 64) ^^^ (key % 2 ^ 64) ^^^ (j * 0xB5A36E1D92C70F4B % 2 ^ 64))))

/-- The draw D of the j-th rounding of element counter n (R129). -/
def drawOf (key n j : Nat) : Draw := rng64 key n j >>> 32

/-- uniform_below of R141; the rejection loop is bounded by `fuel` draws (each is rejected with chance below
m/2^64). -/
def uniformLoop (m key n : Nat) : Nat → Nat → Nat
  | 0, j => rng64 key n j % m
  | fuel + 1, j =>
    let w := rng64 key n j
    if w < 2 ^ 64 / m * m then w % m else uniformLoop m key n fuel (j + 1)

def uniformBelow (m key n : Nat) : Nat := uniformLoop m key n 64 0

/-! ### sigmoid and fr_code, R141 -/

/-- Bounds of `e^(n/d) · 2^p` for n/d below 64. -/
def expRatBounds (p n d : Nat) : Nat × Nat := expBounds p (n * 2 ^ p / d) (n * 2 ^ p / d + 1)

/-- fr_code(c · sigmoid(−w) , rne) for w = n/d in (0, 64), by intervals that tighten until both bounds round to one
code; `num/den` is the factor: 1 for sigmoid, 2 for eq (R245). -/
def frSigLoop (mul n d : Nat) : Nat → Nat → Nat
  | 0, p => let b := expRatBounds p n d; (mul * 65535 * 2 ^ p * 2 + (b.1 + 2 ^ p)) / (2 * (b.1 + 2 ^ p))
  | fuel + 1, p =>
    let b := expRatBounds p n d
    -- sigmoid(−w) = 1/(1 + e^w); 65535·mul/(1 + e^w), rounded to the nearest
    let hi := (mul * 65535 * 2 ^ p * 2 + (b.1 + 2 ^ p)) / (2 * (b.1 + 2 ^ p))
    let lo := (mul * 65535 * 2 ^ p * 2 + (b.2 + 2 ^ p)) / (2 * (b.2 + 2 ^ p))
    if hi = lo then hi else frSigLoop mul n d fuel (2 * p)

/-- fr_code(mul · sigmoid(−w), rne) for a rational w > 0; beyond 64 the code is 0. -/
def frSigNeg (mul : Nat) (w : Q) : Nat :=
  if qlt w ⟨64, 0, 1⟩ then
    let n := w.num.natAbs * 2 ^ w.exp.toNat
    let d := w.den * 2 ^ (-w.exp).toNat
    frSigLoop mul n d 6 160
  else 0

/-- fr_code(sigmoid(z), rne) for a rational z: 32767.5 ties to 32768 at 0, and sigmoid(z) = 1 − sigmoid(−z), which
is never a tie away from 0. -/
def frSigmoid (z : Q) : Nat :=
  if z.num = 0 then 32768
  else if z.num < 0 then frSigNeg 1 (qneg z)
  else 65535 - frSigNeg 1 z

end Sys2Proof.Machine
end

