-- ==== Sys2Proof/Config.lean ====
section
/-! DEFINITION. What an implementation fixes and what the spec leaves open: constants with no body, so that nothing
can be proved about their values (log entries 5 and 7). -/

namespace Sys2Proof.Config

/-- The version of the decode table loaded at reset, DECVER bits 31:0 (R188). -/
opaque decodeTable : BitVec 32

/-- The module serial number IDENT returns (R348). -/
opaque serial : BitVec 64

/-- The fused rollback count (R367, R369). -/
opaque rollbackCount : BitVec 64

/-- Which of two allowed outcomes a choice the spec leaves open takes: the n-th such choice of a run. -/
opaque freeChoice : Nat → Bool

/-- The n-th value of a run that the spec does not state. -/
opaque freeWord : Nat → BitVec 64

/-- The version a firmware or decode-table image carries, and whether the image is a decode table (R368). -/
opaque imageVersion : List (BitVec 8) → BitVec 32
opaque imageIsDecodeTable : List (BitVec 8) → Bool

/-- Do both signatures of an image verify under the fused keys (R367), and its rollback number. -/
opaque signaturesVerify : List (BitVec 8) → Bool
opaque imageRollback : List (BitVec 8) → Nat

/-- SHA-384 as a number of 48 bytes (R369). -/
opaque sha384 : List (BitVec 8) → Nat

/-- The two attestation signatures over the report's body, 384 and 16,224 bytes as numbers (R369). -/
opaque signRsa : List (BitVec 8) → Nat
opaque signSlh : List (BitVec 8) → Nat

/-- The digest of the decode table that the module holds at reset (R369). -/
opaque tableHash : Nat

/-- The monitor samples in the format that the firmware fixes (R362). -/
opaque monitorBytes : List (BitVec 8) → List (Sensor × Int) → List (BitVec 8)

/-- The bytes of the on-die state in the state area, whose format the spec does not give: how many are in use (R452). -/
opaque stateLen : BitVec 64

/-- Spare rows of one HBM stack at first (R447, R453; the spec gives no count). -/
opaque spareRows : Nat

end Sys2Proof.Config
end

