-- ==== Sys2Proof/Machine/State.lean ====
section
/-! DEFINITION. The state of a module as plain data, and the module right after reset. INVENTORY.md lists each piece
with the rule that names it. -/

namespace Sys2Proof.Machine

/-! ### Registers -/

/-- A bound register (R73). -/
structure Bound where
  addr : Word
  base : Word
  len : Word
  perm : BitVec 16
  deriving DecidableEq, Repr

/-- A vector register of up to 8 KiB and its high-water mark in 64-byte groups (R29, R31). -/
structure VReg where
  bits : BitVec 65536
  hw : Nat
  deriving DecidableEq, Repr

/-- A mask register and its high-water mark (R239, R31). -/
structure MReg where
  bits : BitVec 32768
  hw : Nat
  deriving DecidableEq, Repr

/-- A predicate register: fr16 codes, high-water mark and provenance (R242). -/
structure PReg where
  bits : BitVec 524288
  hw : Nat
  prov : BitVec 16
  deriving DecidableEq, Repr

/-- An entry of an algebra table (R143). -/
structure AlgEntry where
  k : Nat
  p : Nat
  q : Nat
  c : BitVec 32
  deriving DecidableEq, Repr

/-- A loaded, compacted algebra table (R144). -/
structure AlgTable where
  dim : Nat
  conj : BitVec 16
  atid : BitVec 32
  ents : List AlgEntry
  deriving DecidableEq, Repr

/-- A mask-stack entry: the bits and their count (R241). -/
structure MaskEntry where
  n : Nat
  bits : BitVec 32768
  deriving DecidableEq, Repr

/-- A reservation of LR: the 64-byte block of its address, the access size, and the block's locations (R215). -/
structure Reservation where
  block : Nat
  size : Nat
  locs : List Nat
  deriving DecidableEq, Repr

/-- A weight plane with its latched format and block length code (R262). -/
structure Plane where
  bits : BitVec 131072
  fmt : Option ETy
  blk : Nat
  deriving DecidableEq, Repr

/-- The latched type of an accumulator tile (R259). -/
inductive AccTy where
  | none | f32 | i32
  deriving DecidableEq, Repr

/-- An accumulator tile: 64 × 64 cells of 32 bits, cell (r, c) at bit 32·(64r + c) (R8, R259). -/
structure Tile where
  bits : BitVec 131072
  ty : AccTy
  deriving DecidableEq, Repr

/-! ### Faults of a strand: the record of R395 -/

/-- The part of a fault record that its event gives (R395). -/
structure Flt where
  cls : Nat
  detail : Nat
  faddr : Word
  info1 : Word
  info2 : Word
  deriving DecidableEq, Repr

/-- A whole record as it is handed over or sent (R395). -/
structure Rec where
  flt : Flt
  flags : Nat
  nodeid : Word
  linidx : BitVec 32
  ctx : Nat
  time : Word
  seq : Word
  deriving DecidableEq, Repr

/-! ### Engine work -/

/-- A gang: launch number, node index, gang index (R25). -/
structure GangId where
  launch : Nat
  node : Nat
  gang : Nat
  deriving DecidableEq, Repr

/-- What an engine keeps of the strand or node that issued a transfer. `sid` is none for a node with no strand; `seq` is
the instruction's place in the strand's program order (R13). -/
structure Issuer where
  sid : Option Nat
  ctx : Nat
  core : Nat
  gang : GangId
  iaddr : Word
  linidx : BitVec 32
  ten : BitVec 7
  seq : Nat
  deriving DecidableEq, Repr

/-- One direction of a transfer in the interlock table: the lowest and the highest 64-byte block it covers, virtual
addresses of the context below scratchpad locations (R112). `free` marks the entry of a window set, which
conflicts with nothing (R292); `done` an entry whose accesses have been performed. -/
structure Entry where
  sid : Nat
  op : Nat
  write : Bool
  lo : Nat
  hi : Nat
  free : Bool
  done : Bool
  deriving DecidableEq, Repr

/-- A copy on a channel (R279 to R282): its nest as issued, the index of the next run to read, the runs read and not
yet written, and WP. -/
structure Copy where
  op : Nat
  ch : Nat
  iss : Issuer
  src : Int
  dst : Int
  run : Nat
  levels : List (Nat × Int × Int)
  total : Nat
  srcView : Bound
  dstView : Bound
  next : Nat
  pend : List (Int × List Byte)
  wp : Nat
  bytesMode : Bool
  srev : Option Nat
  srSent : Nat
  srDone : Bool
  dvis : Option Nat
  handle : Option Nat
  deriving DecidableEq, Repr

/-- A matrix instruction committed to the queue, with the values its operands held at commit (R257). `img` is the
tile of a walker run under OUTK 2, `ready` whether that run has delivered (R325, R328); `own` is false for a broadcast
copy (R269), `seq` is its place in the strand's program order; `held` is true once the governor has held it (R271). -/
structure MEntry where
  instr : Instr
  iaddr : Word
  va : Nat
  vb : Nat
  row : Nat
  vl : Nat
  blk : Nat
  scale : Nat
  addr : Int
  pitch : Nat
  bnd : Bound
  fstat : BitVec 32
  table : Option AlgTable
  desc : List Byte
  op : Nat
  ready : Bool
  img : Option (BitVec 131072)
  own : Bool
  seq : Nat
  held : Bool
  deriving DecidableEq, Repr

/-- A fabric operation in flight (R297 to R302), with the descriptors it read at issue and the bounds of its local
buffer and of its index list. `sentAt` is when a timed put was transmitted, or a collective applied; `mine` what this
module has contributed to a collective and `evs` the flags that it will raise (R300), `ord` the ordinal of a fabric read
within its strand or node (R376). -/
structure FabOp where
  op : Nat
  iss : Issuer
  xdesc : List Byte
  tdesc : List Byte
  locBound : Bound
  idxBound : Bound
  ty : ETy
  rnd : Rnd
  sat : Bool
  barrier : Option Nat
  issued : Word
  sentAt : Option Word
  resent : Bool
  heldOver : Bool
  mine : Option (List (Nat × Nat × List Nat))
  evs : BitVec 7
  ord : Nat
  deriving DecidableEq, Repr

/-- A request to the tree engine (R305), with the operands read at issue. -/
structure TreeReq where
  instr : Instr
  sid : Nat
  op : Nat
  desc : Nat
  bnd : Bound
  b : Word
  c : Word
  deriving DecidableEq, Repr

/-- A reclamation (R315): the chains still to visit, each its next node and how many nodes it still has, and whether it
stopped (R427). -/
structure Reclaim where
  iss : Issuer
  desc : Nat
  bnd : Bound
  todo : List (Nat × Nat)
  stopped : Bool
  deriving DecidableEq, Repr

/-- A run of the format walker (R324 to R328): its run block and words, and the bounds it was issued with. -/
structure WRun where
  ticket : Nat
  op : Nat
  iss : Issuer
  nin : Nat
  outk : Nat
  otype : ETy
  obnd : Bound
  out : Nat
  outlen : Nat
  inbnds : List Bound
  inaddrs : List Nat
  inlens : List Nat
  prog : List (BitVec 32)
  w1 : Word
  barrier : Option Nat
  deriving DecidableEq, Repr

/-- The state of the run that the walker performs (R326): `img` is the tile flushed under OUTK 2, `fail` a cause that
ended the run, with the address to report (R429). -/
structure WState where
  run : WRun
  w : Vector Word 16
  pc : Int
  tile : BitVec 131072
  row : Nat
  col : Nat
  flushes : Nat
  img : Option (BitVec 131072)
  fail : Option (Nat × Word)
  deriving DecidableEq, Repr

/-- A run-ahead buffer group (R236, R238), with the locations its strip was loaded from. -/
structure Group where
  src : Int
  len : Nat
  assigned : Bool
  loaded : Bool
  stale : Bool
  locs : List Nat
  deriving DecidableEq, Repr

/-- A run-ahead stream (R236 to R238): the next strip's address, elements not yet taken, SL, type, bound, next buffer
group and the groups. -/
structure Stream where
  next : Int
  remain : Nat
  stride : Nat
  slen : Nat
  ty : ETy
  bound : Bound
  bno : BRegNo
  nextBuf : Nat
  groups : List Group
  deriving DecidableEq, Repr

/-- An open set of accumulation windows (R292). -/
structure Windows where
  storage : Nat
  wbase : Nat
  n : Nat
  w : Nat
  ty : ETy
  deriving DecidableEq, Repr

/-! ### The strand -/

/-- Is a strand in a place of its core, saved, or gone (R25, R46). -/
inductive Live where
  | empty | resident | saved | ended
  deriving DecidableEq, Repr

/-- What the device keeps while a strand is in handler mode (R400, R401): the original record, the register an SVC's
reply goes to, the events of an interrupted instruction (R444), the grid binding (R269), where in the program order the
handler begins (R13), and what of the strand the save area does not hold. -/
structure Handler where
  rcd : Rec
  svcReg : XReg
  evSoFar : BitVec 7
  evFirst : Nat
  obj : Nat
  bufFirst : Nat
  codeb : BRegNo
  stream : Option Stream
  bind : Option (Nat × Nat)
  fidxSeq : Vector Nat 6
  seq : Nat
  deriving DecidableEq, Repr

/-- A failure or trap pending against a strand (R410, R445), with the transfer that raised it and TIME at detection
(R395). -/
structure Pending where
  flt : Flt
  op : Nat
  time : Word
  deriving DecidableEq, Repr

/-- A strand: its architectural state (R19), its place in the hierarchy (R27), and what the device keeps of it. -/
structure Strand where
  id : Nat
  live : Live
  gang : GangId
  ctx : Nat
  core : Nat
  place : Nat
  obj : Nat
  pc : Word
  prev : Word
  x : Vector Word 32
  f : Vector Word 32
  v : Vector VReg 32
  m : Vector MReg 8
  p : Vector PReg 8
  b : Vector Bound 16
  alg : Vector (Option AlgTable) 4
  rstack : List Word
  rdepth : Nat
  spillRs : Nat
  mstack : List MaskEntry
  mdepth : Nat
  spillMs : Nat
  rbase : Nat
  mbase : Nat
  vtype : Word
  vl : Nat
  mvl : Nat
  esr : Nat
  resume : Option (BitVec 128)
  tau : BitVec 32
  fstat : BitVec 32
  fidx : Vector (Word × Word) 6
  stripPrev : Word
  rngKey : Word
  rngCtr : Word
  vcount : Nat
  bufFirst : Nat
  bufGroups : Nat
  share : Nat
  codeb : BRegNo
  lix : List Nat
  lext : List Nat
  llin : Nat
  -- matrix state (R33 to R36, R269, R270); the types and formats tracked at commit (R403)
  inMatrix : Bool
  active : Plane
  shadow : Plane
  acc : Vector Tile 4
  commitAcc : Vector AccTy 4
  commitActive : Option ETy
  commitShadow : Option ETy
  mqueue : List MEntry
  bind : Option (Nat × Nat)
  -- instructions issued so far, and which of them each FIDX pair names (R13, R133)
  seq : Nat
  fidxSeq : Vector Nat 6
  -- what the save area does not hold: event latch, reservation, stream, windows, cached copy blocks (R283), words
  -- fetched since the last IFENCE (R194), newest copy and WP of each channel (R284), is a tree request outstanding (R305)
  latch : Bool
  resv : Option Reservation
  stream : Option Stream
  windows : Option Windows
  cache : List (Nat × List Byte)
  icache : List (Nat × Nat)
  newest : Vector (Option Nat) 4
  wps : Vector Nat 4
  pending : List Pending
  blocked : Option Instr
  hold : Option Instr
  awaiting : Bool
  yieldFor : List Nat
  yieldLeft : Nat
  stopAt : Option Nat
  evSoFar : BitVec 7
  evFirst : Nat
  handler : Option Handler
  areas : Areas
  blockedFor : Nat
  ordTime : Nat
  ordWait : Nat
  ordRead : Nat
  deriving DecidableEq, Repr

/-! ### Cores and clusters -/

/-- A core's own state: its budget B in a window of 256 cycles, that window's number and the matrix starts in it (R271), B
from a later window on, with that window's number (R359), TIME since which B is GFLOOR (R363), GOVST, the place that
issued last (R12), its copies in issue order (R282) and its interlock table (R112). -/
structure Core where
  budget : Nat
  window : Nat
  used : Nat
  next : Option (Nat × Nat)
  floorAt : Option Nat
  govst : Word
  last : Nat
  copies : List Copy
  entries : List Entry
  deriving DecidableEq, Repr

/-- An entry of the tag table with the owner that programs cannot read (R94, R95). -/
structure Tag where
  set : Nat
  way : Nat
  key : Word
  e : Word
  launch : Nat
  node : Nat
  deriving DecidableEq, Repr

/-- A handle of the buffer table (R277): STATE 0 to 3, its region, its gang, and the strands that wait for it. -/
structure Buf where
  h : Nat
  st : Nat
  len : Nat
  off : Nat
  gang : GangId
  waiters : List Nat
  deriving DecidableEq, Repr

/-- A shared-scratchpad allocation (R286). -/
structure Alloc where
  off : Nat
  len : Nat
  z : Nat
  gang : GangId
  deriving DecidableEq, Repr

/-- A cluster's own state: tag table, buffer table, allocations, format walker and tree engine (R8). -/
structure Cluster where
  tags : List Tag
  bufs : List Buf
  allocs : List Alloc
  tickets : Nat
  runs : List WRun
  wst : Option WState
  reqs : List TreeReq
  recls : List Reclaim
  deriving DecidableEq, Repr

/-! ### Contexts, queues, launches -/

/-- A cached table entry (R85): the table level, the index of the range of addresses it covers, where it lies and its
two words. -/
structure TlbE where
  level : Nat
  key : Nat
  pa : Nat
  w0 : Nat
  w1 : Nat
  deriving DecidableEq, Repr

/-- A binding entry with its symbol resolved (R338, R339). -/
structure Bind where
  mint : Option BRegNo
  perm : BitVec 16
  base : Word
  len : Word
  deriving DecidableEq, Repr

/-- A loaded code object (R333 to R340): its image, where its sections lie, its counts, its binding table and the
addresses of its strong text symbols. -/
structure Obj where
  image : List Byte
  textVa : Nat
  textLen : Nat
  dataVa : Nat
  dataLen : Nat
  vregs : Nat
  bufg : Nat
  bufv : Nat
  binds : List Bind
  entries : List Nat
  deriving DecidableEq, Repr

/-- A context (R348): creating host, T0, partitions allowed, state pool with the areas in use, code objects, pinned
pages (R87), code region (R336), cached table entries, fault handler (R400). -/
structure Ctx where
  n : Nat
  host : Nat
  t0 : Nat
  partMask : Nat
  poolBase : Nat
  poolLen : Nat
  objs : List Obj
  pins : List (Nat × Nat)
  codeLo : Nat
  codeHi : Nat
  tlb : List TlbE
  handler : Option Nat
  deriving DecidableEq, Repr

/-- A partition's reservation (R48). -/
structure Part where
  kernel : Nat
  walker : Nat
  copy : Nat
  exchange : Nat
  pool : Nat
  deriving DecidableEq, Repr

/-- A completion record still to be written (R51). -/
structure Cpl where
  tag : Word
  no : Nat
  status : Nat
  ndem : Nat
  efd : Nat
  fin : Word
  sub : Nat
  marker : Bool
  deriving DecidableEq, Repr

/-- A command queue (R49, R67, R323, R348, R350). `ending` is the destruction mode with SUBTAIL as read at the first
request; `reading` counts launches read that do not have their records. -/
structure Queue where
  n : Nat
  ctx : Nat
  host : Nat
  byCtx : Bool
  addr : Nat
  part : Nat
  cls : Nat
  cplHost : Nat
  qstate : Nat
  ending : Option (Nat × Nat)
  faulted : Bool
  reading : Nat
  cpls : List Cpl
  written : List (Nat × Nat)
  deriving DecidableEq, Repr

/-- A node record (R53) with its predecessor list. -/
structure NodeRec where
  kind : Nat
  gmin : Nat
  gmax : Nat
  matrix : Bool
  maxw : Nat
  budget : Nat
  target : Word
  args : Word
  seed : Word
  levels : List (Nat × Nat × Nat)
  preds : List Nat
  deriving DecidableEq, Repr

/-- Where a node stands: before its predecessors complete, ready outside the pool, in the pool, dispatched, complete,
or never to complete (R61, R64, R402). -/
inductive NSt where
  | waiting | ready | pooled | running | done | dead
  deriving DecidableEq, Repr

/-- A node of an accepted launch: its state, its charge (R55), demotion (R65), gangs dispatched so far, strands that
have executed EXIT, and the engine operation of a copy, walker or exchange node. -/
structure Node where
  r : NodeRec
  st : NSt
  charge : Nat
  demoted : Bool
  gangs : List Nat
  exited : Nat
  op : Option Nat
  unit : Nat
  ended : Bool
  deriving DecidableEq, Repr

/-- A launch accepted and not complete (R52, R60): its record's address, its queue's index, its header fields, t0 of
its admission test, whether its demand counts (R405), and how it ends. -/
structure Launch where
  no : Nat
  q : Nat
  sub : Nat
  ctx : Nat
  part : Nat
  cls : Nat
  addr : Nat
  deadline : Nat
  tag : Word
  poolres : Nat
  t0 : Nat
  missed : Bool
  failed : Bool
  aborted : Bool
  nodes : List Node
  deriving DecidableEq, Repr

/-! ### Host side and platform -/

/-- A window (R344) or, with `phys`, a range of physical memory (R348 PHYSWIN). -/
structure Window where
  n : Nat
  ctx : Nat
  host : Nat
  base : Nat
  len : Nat
  perm : Nat
  group : Nat
  phys : Bool
  deriving DecidableEq, Repr

/-- A fabric group (R352): rank of this module, H as declared, and the members' endpoint addresses in rank order. -/
structure FGroup where
  n : Nat
  rank : Nat
  h : Word
  members : List Nat
  deriving DecidableEq, Repr

/-- What leaves the module, in order. -/
inductive Out where
  | reply (dst : Nat) (lane : Bool) (tag : Word) (status : Nat) (v0 v1 : Word)
  | record (host : Nat) (r : Rec)
  | health (host : Nat) (event : List Byte)
  | hostWrite (host : Nat) (lane : Bool) (addr : Nat) (data : List Byte)
  | ack (src : Nat) (data : List Byte)
  | refuse (src : Nat)
  | put (group rank win : Nat) (off : Nat) (data : List Byte) (mark : Option Word)
  | contribution (group seq : Nat) (c : Contribution)
  | collFlags (group seq rank : Nat) (flags : BitVec 7)
  deriving DecidableEq, Repr

/-- Boot (R367, R450): the module waits for the boot ROM, is up, has stopped, or has powered down. `maintenance` is
R448's state after a unit is lost with no spare. -/
inductive Boot where
  | waiting | up | stopped | maintenance | down
  deriving DecidableEq, Repr

/-- A checkpoint in progress (R371): start TIME, resume afterwards, CKFLAGS. -/
structure CkRun where
  start : Word
  resume : Bool
  flags : Nat
  deriving DecidableEq, Repr

/-- A replay in progress (R455): the host to answer with its tag, the stop LSEQ, and the next record's place and LSEQ. -/
structure Replay where
  host : Nat
  lane : Bool
  tag : Word
  stop : Nat
  pos : Nat
  lseq : Nat
  deriving DecidableEq, Repr

/-- A unit that is to be replaced (R447), or has failed (R448), and whose spare is not in its place yet: its kind, UNIT
and number there (`Sensor`), whether it has failed, the measured quantity, and when event 0x08 last told that no spare
remains. -/
structure Retire where
  kind : Nat
  unit : Nat
  part : Nat
  failed : Bool
  qty : Nat
  told : Option Nat
  deriving DecidableEq, Repr

/-- What the module read from the host's memory for a CTXLOAD or FWLOAD that Logline recorded (R374; log entry 104). -/
structure Brought where
  items : List LoadItem
  syms : List HostSym
  tables : List Nat
  image : List Byte
  deriving DecidableEq, Repr

/-- The on-die state of a checkpoint image, TIME's discipline in it (R370). -/
structure Image where
  strands : List Strand
  cores : List (Nat × Core)
  clusters : List (Nat × Cluster)
  scratch : List Host.Cell
  ctxs : List Ctx
  parts : List (Nat × Part)
  queues : List Queue
  wins : List Window
  groups : List FGroup
  launches : List Launch
  fabs : List FabOp
  nextLaunch : Nat
  nextSid : Nat
  nextOp : Nat
  rate : Nat
  ebound : BitVec 32
  bc : Bool
  lock : Bool
  ptpDomain : Nat
  ptpPorts : Nat
  ptpPeer : Bool
  ckAsked : List (Nat × Bool)
  holds : List Nat
  deriving DecidableEq, Repr

/-- What happens next: the model's one deterministic step takes the head of a list of these (log entry 9). A core
issues one word, with an element index at which an interruptible instruction is to stop (R41); a walker performs one
word; an event of the opcode table occurs; a command message whose opcode is reserved arrives (R348); cycles pass; a byte
becomes uncorrectable; a byte's writes fail or work again; the next Logline record is applied in a replay. -/
inductive Turn where
  | core (c : Nat) (stop : Option Nat)
  | walker (k : Nat)
  | event (e : Late)
  | command (opc : BitVec 16) (c : Cmd)
  | tick (n : Nat)
  | readError (loc : Nat)
  | writeError (loc : Nat) (fails : Bool)
  | logRecord
  deriving DecidableEq, Repr

/-- The whole module. `me` is the strand and `wfront` the cluster of the walker whose turn it is. -/
structure State where
  me : Strand
  wfront : Nat
  strands : List Strand
  cores : List (Nat × Core)
  clusters : List (Nat × Cluster)
  mem : List Host.Cell
  bad : List Nat
  wbad : List Nat
  ctxs : List Ctx
  parts : List (Nat × Part)
  queues : List Queue
  launches : List Launch
  fabs : List FabOp
  wins : List Window
  groups : List FGroup
  hosts : List (Nat × Bool)
  nextLaunch : Nat
  nextSid : Nat
  nextOp : Nat
  -- time (R354 to R356): nanoseconds, their fraction and the rate in units of 10^-10 ns per cycle
  cycle : Nat
  time : Word
  timeFrac : Nat
  rate : Nat
  ebound : BitVec 32
  bc : Bool
  lock : Bool
  ptpDomain : Nat
  ptpPorts : Nat
  ptpPeer : Bool
  -- platform
  boot : Boot
  gfloor : Nat
  decTable : BitVec 32
  decImage : Option (List Byte)
  firmware : List Byte
  nextFirmware : Option (List Byte)
  fseq : Nat
  hseq : Nat
  samples : List (Sensor × Int)
  spent : List (Nat × Nat)
  retiring : List Retire
  noSpare : Bool
  ckArea : Option (Nat × Nat)
  ckAsked : List (Nat × Bool)
  held : Bool
  heldFrom : Option Word
  trigger : Option Nat
  ckRun : Option CkRun
  ckSeq : Nat
  ckEnd : Word
  holds : List Nat
  dirtyArmed : Bool
  image : Option Image
  logArea : Option (Nat × Nat)
  logPos : Nat
  lseq : Nat
  logOn : Bool
  logMarker : Nat
  -- DECVER of the records from an LSEQ on, newest first (R188); writes of each location since the marker, or since a
  -- replay began; by LSEQ, the counts at which recorded writes and atomics were performed (R375, R455), and what recorded
  -- loads read from the host (R374)
  logDec : List (Nat × Word)
  coh : List (Nat × Nat)
  places : List (Nat × List (Nat × Nat))
  loads : List (Nat × Brought)
  replay : Option Replay
  frozen : Bool
  out : List Out
  agenda : List Turn
  fresh : Nat
  deriving DecidableEq, Repr

/-- The model's own stops. -/
inductive Fault where
  /-- Raised by `step` when the module has powered down after a checkpoint (R450). Safe: nothing runs. -/
  | poweredDown
  deriving DecidableEq, Repr

/-- Instructions without a meaning. -/
inductive Refusal where
  /-- Raised by an arm of `exec` whose instruction has no meaning yet. Safe: nothing is claimed of it. -/
  | notModelled (mnemonic : String)
  deriving DecidableEq, Repr

/-! ### Memory -/

/-- What a location that nothing has written reads as: no reset contents are given (log entry 2). -/
def blankByte : Byte := 0#8

/-- The canonical form of memory: addresses strictly rising, no entry equal to what an unlisted location reads as. -/
abbrev Memory.wf (m : List Host.Cell) : Prop :=
  m.Pairwise (fun a b => a.1 < b.1) ∧ ∀ c ∈ m, c.2 ≠ blankByte

/-! ### Reset -/

def Bound.zero : Bound := ⟨0#64, 0#64, 0#64, 0#16⟩
def VReg.zero : VReg := ⟨0#65536, 0⟩
def MReg.zero : MReg := ⟨0#32768, 0⟩
def PReg.zero : PReg := ⟨0#524288, 0, 0#16⟩
def Plane.zero : Plane := ⟨0#131072, none, 0⟩
def Tile.zero : Tile := ⟨0#131072, .none⟩

/-- A place that holds no strand: every register at the value R20 gives a strand at its start. -/
def Strand.blank : Strand where
  id := 0
  live := .empty
  gang := ⟨0, 0, 0⟩
  ctx := 0
  core := 0
  place := 0
  obj := 0
  pc := 0#64
  prev := 0#64
  x := Vector.replicate 32 0#64
  f := Vector.replicate 32 0#64
  v := Vector.replicate 32 VReg.zero
  m := Vector.replicate 8 MReg.zero
  p := Vector.replicate 8 PReg.zero
  b := Vector.replicate 16 Bound.zero
  alg := Vector.replicate 4 none
  rstack := []
  rdepth := 0
  spillRs := 0
  mstack := []
  mdepth := 0
  spillMs := 0
  rbase := 0
  mbase := 0
  vtype := 0#64
  vl := 0
  mvl := 0
  esr := 0
  resume := none
  tau := 0#32
  fstat := 0#32
  fidx := Vector.replicate 6 (0#64, 0#64)
  stripPrev := 0#64
  rngKey := 0#64
  rngCtr := 0#64
  vcount := 32
  bufFirst := 0
  bufGroups := 0
  share := 0
  codeb := 0
  lix := []
  lext := []
  llin := 0
  inMatrix := false
  active := Plane.zero
  shadow := Plane.zero
  acc := Vector.replicate 4 Tile.zero
  commitAcc := Vector.replicate 4 .none
  commitActive := none
  commitShadow := none
  mqueue := []
  bind := none
  seq := 0
  fidxSeq := Vector.replicate 6 0
  latch := true
  resv := none
  stream := none
  windows := none
  cache := []
  icache := []
  newest := Vector.replicate 4 none
  wps := Vector.replicate 4 0
  pending := []
  blocked := none
  hold := none
  awaiting := false
  yieldFor := []
  yieldLeft := 0
  stopAt := none
  evSoFar := 0#7
  evFirst := 0
  handler := none
  areas := ⟨0, 0, 0, 0⟩
  blockedFor := 0
  ordTime := 0
  ordWait := 0
  ordRead := 0

/-- A core after reset: B is 256 (R360); GOVST and the place that issued last have no stated value (log entry 1). -/
def Core.reset : Core := ⟨256, 0, 0, none, none, 0#64, 3, [], []⟩

/-- A cluster after reset (R94, R277: every field 0). -/
def Cluster.reset : Cluster := ⟨[], [], [], 0, [], none, [], []⟩

def Part.reset : Part := ⟨0, 0, 0, 0, 0⟩

/-- The module right after reset: the boot ROM has not yet run (R367, log entry 3), nothing is loaded. -/
def State.reset : State where
  me := Strand.blank
  wfront := 0
  strands := []
  cores := []
  clusters := []
  mem := []
  bad := []
  wbad := []
  ctxs := []
  parts := []
  queues := []
  launches := []
  fabs := []
  wins := []
  groups := []
  hosts := []
  nextLaunch := 1
  nextSid := 1
  nextOp := 1
  cycle := 0
  time := 0#64
  timeFrac := 0
  rate := 8000000000
  ebound := 0xFFFFFFFF#32
  bc := false
  lock := false
  ptpDomain := 0
  ptpPorts := 0
  ptpPeer := false
  boot := .waiting
  gfloor := 64
  decTable := Config.decodeTable
  decImage := none
  firmware := []
  nextFirmware := none
  fseq := 0
  hseq := 0
  samples := []
  spent := []
  retiring := []
  noSpare := false
  ckArea := none
  ckAsked := []
  held := false
  heldFrom := none
  trigger := none
  ckRun := none
  ckSeq := 0
  ckEnd := 0#64
  holds := []
  dirtyArmed := false
  image := none
  logArea := none
  logPos := 0
  lseq := 0
  logOn := false
  logMarker := 0
  logDec := []
  coh := []
  places := []
  loads := []
  replay := none
  frozen := false
  out := []
  agenda := []
  fresh := 0

end Sys2Proof.Machine
end

