-- ==== Sys2Proof/Machine/Flags.lean ====
section
/-! DEFINITION. FSTAT and the FIDX registers: how events are raised (R132, R133), the dynamic rounding mode (R126), the
draws of R129, and which trap an instruction's events call for (R444). -/

namespace Sys2Proof.Machine

/-- Events by element index. -/
abbrev Evs := List (Nat × Ev)

/-- The union of the events (R132). -/
def evUnion (evs : Evs) : Ev := evs.foldl (fun a e => a ||| e.2) 0#7

/-- The lowest index that raised an event of a set. -/
def evIndexOf (evs : Evs) (k : Ev) : Option Nat := ((evs.filter (fun e => e.2 &&& k ≠ 0#7)).map (·.1)).min?

/-- The FSTAT flag bit of each class with an index pair, in the order of the FIDX registers (R132, R134). -/
def evBit : EvClass → Ev
  | .v => evV | .z => evZ | .o => evO | .u => evU | .i => evI | .s => evS

def evClasses : List EvClass := [.v, .z, .o, .u, .i, .s]

/-- FIDX of one class, and the instruction it names: set while its flag is 0, and by an instruction that completes late
but comes earlier in program order (R13, R133). -/
def fidxStep (fstat : BitVec 32) (iaddr : Word) (seq : Nat) (evs : Evs) (fx : Vector (Word × Word) 6 × Vector Nat 6)
    (c : EvClass) : Vector (Word × Word) 6 × Vector Nat 6 :=
  match evIndexOf evs (evBit c) with
  | some i =>
    if (fstat.setWidth 7) &&& evBit c = 0#7 ∨ seq < fx.2[evIndex c] then
      (fx.1.set (evIndex c) (iaddr, BitVec.ofNat 64 i), fx.2.set (evIndex c) seq)
    else fx
  | none => fx

/-- Raise events of the instruction at a place of the program order: OR the flags in, and record where each class was
first raised (R132, R133). -/
def Strand.raiseAt (st : Strand) (iaddr : Word) (seq : Nat) (evs : Evs) : Strand :=
  let fx := evClasses.foldl (fidxStep st.fstat iaddr seq evs) (st.fidx, st.fidxSeq)
  { st with fstat := st.fstat ||| (evUnion evs).setWidth 32, fidx := fx.1, fidxSeq := fx.2 }

/-- Raise events of the current instruction. -/
def Strand.raise (st : Strand) (evs : Evs) : Strand := st.raiseAt st.pc st.seq evs

/-- Fields of FSTAT (R132). -/
def Strand.ten (st : Strand) : Ev := (st.fstat.extractLsb' 16 7)
def Strand.rmode (st : Strand) : Nat := (st.fstat.extractLsb' 8 3).toNat
def Strand.pstrict (st : Strand) : Bool := st.fstat.getLsbD 24

/-- RND resolved through dyn under an FSTAT (R126). -/
def rndUnder (fstat : BitVec 32) (r : Rnd) : Rnd :=
  match r with
  | .dyn => (rndOf (fstat.extractLsb' 8 3).toNat).getD .rne
  | r => r

def Strand.rnd (st : Strand) (r : Rnd) : Rnd := rndUnder st.fstat r

/-- Does a dyn resolve to rst (R126, R439 DETAIL 23). -/
def Strand.dynRst (st : Strand) (r : Rnd) : Bool := r == .dyn && st.rmode == 5

/-- Does an instruction with this rounding draw (R129). -/
def Strand.draws (st : Strand) (r : Rnd) : Bool := st.rnd r == .rst

/-- The draw of the j-th rounding of element i (R129). -/
def Strand.draw (st : Strand) (i j : Nat) : Draw := drawOf st.rngKey.toNat (st.rngCtr.toNat + i) j

/-- RNGCTR after an instruction that draws for `n` elements (R129). -/
def Strand.advance (st : Strand) (r : Rnd) (n : Nat) : Strand :=
  if st.draws r then { st with rngCtr := st.rngCtr + BitVec.ofNat 64 n } else st

/-- The trap that a set of events calls for under trap enables: class 0x90 with DETAIL the enabled events, FINFO1 the
lowest index that raised one (0 for D), FINFO2 every event (R444). -/
def trapOf (ten : Ev) (iaddr : Word) (first : Nat) (e : Ev) : Option Flt :=
  if e &&& ten = 0#7 then none
  else some ⟨0x90, (e &&& ten).toNat, iaddr, BitVec.ofNat 64 first, e.setWidth 64⟩

/-- Lowest index of an enabled event; D has no index (R444). -/
def firstEnabled (ten : Ev) (evs : Evs) : Option Nat := evIndexOf evs (ten &&& 63#7)

end Sys2Proof.Machine
end

