-- ==== Sys2Proof/Machine/Memory.lean ====
section
/-! DEFINITION. Memory: the list of bytes and its two operations, the address map (R70 to R72, R83), bounds (R75,
R76), the page tables (R80 to R85), split words (R90), and an access as the list of the bytes it touches. -/

namespace Sys2Proof.Machine

/-! ### Bytes -/

/-- Little-endian bytes as a number (R3). -/
def ofLE : List Byte → Nat
  | [] => 0
  | b :: bs => b.toNat + 256 * ofLE bs

/-- The low `n` bytes of a number, lowest first. -/
def toLE : Nat → Nat → List Byte
  | 0, _ => []
  | n + 1, v => BitVec.ofNat 8 v :: toLE n (v / 256)

/-- A field of a little-endian record: `n` bytes at an offset. -/
def field (bs : List Byte) (off n : Nat) : Nat := ofLE ((bs.drop off).take n)

/-- A field read as a signed value. -/
def sfield (bs : List Byte) (off n : Nat) : Int := signedOf (8 * n) (field bs off n)

/-- Is every byte of a part of a record zero. -/
def zeroIn (bs : List Byte) (off n : Nat) : Bool := field bs off n = 0

/-! ### The list of cells -/

/-- What a location reads as. -/
def Memory.get (m : List Host.Cell) (a : Nat) : Byte :=
  match m.find? (fun c => c.1 == a) with
  | some c => c.2
  | none => blankByte

/-- Write one location, keeping the canonical form. -/
def Memory.put (m : List Host.Cell) (a : Nat) (v : Byte) : List Host.Cell :=
  m.filter (fun c => decide (c.1 < a)) ++ (if v = blankByte then [] else [(a, v)])
    ++ m.filter (fun c => decide (a < c.1))

/-- Write bytes at locations, in order: the last write to a location stays. -/
def Memory.puts (m : List Host.Cell) : List Nat → List Byte → List Host.Cell
  | a :: as, v :: vs => Memory.puts (Memory.put m a v) as vs
  | _, _ => m

/-- Keep the cells of the locations a test admits. -/
def Memory.keep (m : List Host.Cell) (p : Nat → Bool) : List Host.Cell := m.filter (fun c => p c.1)

/-! ### Places (R70, R71, R83, R100) -/

/-- Local scratch of core `c` and the shared scratchpad of cluster `k` stand above every physical address. -/
def scratchLoc (c off : Nat) : Nat := 2 ^ 60 + c * 2 ^ 18 + off
def padLoc (k off : Nat) : Nat := 2 ^ 61 + k * 2 ^ 23 + off

def hbmEnd : Nat := 0x9000000000
def lpBase : Nat := 0x10000000000
def lpEnd : Nat := 0x1F000000000
def safeBase : Nat := 0x1F000000000
def safeEnd : Nat := 0x28000000000

def isHbm (a : Nat) : Bool := a < hbmEnd
def isLp (a : Nat) : Bool := lpBase ≤ a && a < lpEnd
def isSafe (a : Nat) : Bool := safeBase ≤ a && a < safeEnd
def isScratch (a : Nat) : Bool := 2 ^ 60 ≤ a && a < 2 ^ 61
def isPad (a : Nat) : Bool := 2 ^ 61 ≤ a

/-- Does `[a, a+n)` lie in the LPDDR6 range available to programs, or in HBM. -/
def inLp (a n : Nat) : Bool := lpBase ≤ a && a + n ≤ lpEnd
def inHbm (a n : Nat) : Bool := a + n ≤ hbmEnd

/-- Do two ranges share a byte. -/
def overlap (a n b m : Nat) : Bool := 0 < n && 0 < m && a < b + m && b < a + n

def clusterOf (core : Nat) : Nat := core / 8
def dieOf (core : Nat) : Nat := core / 128

/-- The apertures of R71. -/
inductive Aperture where
  | user | scratch | own | cluster
  deriving DecidableEq, Repr

/-- The aperture of a generic address; `none` when the value is not an address (R71). -/
def apertureOf (a : Nat) : Option Aperture :=
  if a / 2 ^ 56 = 0 then some .user
  else if a / 2 ^ 56 = 0xF0 then (if bitsOf a 55 18 = 0 then some .scratch else none)
  else if a / 2 ^ 56 = 0xF1 then (if bitsOf a 55 23 = 0 then some .own else none)
  else if a / 2 ^ 56 = 0xF2 then
    (if bitsOf a 47 23 = 0 && bitsOf a 55 48 < 16 then some .cluster else none)
  else none

/-- The scratchpad location of an address outside the user aperture, for a party on `core` (R71, R72). -/
def padOf (core a : Nat) : Option Nat :=
  match apertureOf a with
  | some .scratch => some (scratchLoc core (bitsOf a 17 0))
  | some .own => some (padLoc (clusterOf core) (bitsOf a 22 0))
  | some .cluster => some (padLoc (dieOf core * 16 + bitsOf a 55 48) (bitsOf a 22 0))
  | _ => none

/-! ### State: raw memory -/

def State.bytes (s : State) (locs : List Nat) : List Byte := locs.map (Memory.get s.mem)

/-- Does a write to these locations touch LPDDR6 program memory other than the state area and the Logline region
(R373, R452). -/
def dirties (s : State) (locs : List Nat) : Bool :=
  let out (r : Option (Nat × Nat)) (a : Nat) : Bool :=
    match r with
    | some (b, n) => !(b ≤ a && a < b + n)
    | none => true
  locs.any (fun a => isLp a && out s.ckArea a && out s.logArea a)

/-- The reservation survives a write to these locations (R215). -/
def keepResv (locs : List Nat) (r : Option Reservation) : Option Reservation :=
  match r with
  | some r => if locs.any (fun a => r.locs.contains a) then none else some r
  | none => none

def Strand.seeWrite (locs : List Nat) (st : Strand) : Strand := { st with resv := keepResv locs st.resv }

/-- A transfer that a strand issued has read these locations: that strand's reservation on them ends (R215). -/
def State.touch (s : State) (sid : Option Nat) (locs : List Nat) : State :=
  let see (st : Strand) : Strand := if sid = some st.id then st.seeWrite locs else st
  if sid.isNone then s else { s with me := see s.me, strands := s.strands.map see }

/-- How often a location has been written, and one write more. -/
def writesOf (c : List (Nat × Nat)) (l : Nat) : Nat :=
  match c.find? (fun e => e.1 == l) with
  | some e => e.2
  | none => 0

def writeMore (c : List (Nat × Nat)) (l : Nat) : List (Nat × Nat) := (l, writesOf c l + 1) :: c.filter (fun e => e.1 != l)

/-- The writes of each location after these, while Logline records or replays (R375, R455). -/
def State.writesAfter (s : State) (locs : List Nat) : List (Nat × Nat) :=
  if s.logOn || s.replay.isSome then locs.foldl writeMore s.coh else s.coh

/-- The image after a write to these locations: one in the bytes of the state area that hold the on-die state destroys it
(R370; log entry 103). -/
def State.imageAfter (s : State) (locs : List Nat) : Option Image :=
  match s.ckArea with
  | some (a, n) =>
    if s.image.isSome && locs.any (fun l => a + 64 ≤ l && l < a + n && Nat.blt l (a + Config.stateLen.toNat)) then none
    else s.image
  | none => s.image

/-- Write bytes at locations: reservations on them end, an uncorrectable byte becomes readable (R414), and the first
write in LPDDR6 after a resumed checkpoint sets LDIRTY, bit 0 of CKFLAGS (R373). -/
def State.poke (s : State) (locs : List Nat) (bs : List Byte) : State :=
  let mem := Memory.puts s.mem locs bs
  let set : Bool := s.dirtyArmed && dirties s locs
  let mem := match s.ckArea with
    | some (b, _) => if set then Memory.put mem (b + 5) (Memory.get mem (b + 5) ||| 1#8) else mem
    | none => mem
  { s with
    mem := mem
    bad := if s.bad.isEmpty then [] else s.bad.filter (fun a => !locs.contains a)
    dirtyArmed := s.dirtyArmed && !set
    coh := s.writesAfter locs
    image := s.imageAfter locs
    me := Strand.seeWrite locs s.me
    strands := s.strands.map (Strand.seeWrite locs) }

/-- The locations of `n` bytes from `a` upward. -/
def span (a n : Nat) : List Nat := (List.range n).map (a + ·)

/-- Physical reads and writes of the device itself: save areas, spills, tables, records. -/
def State.readP (s : State) (a n : Nat) : List Byte := s.bytes (span a n)
def State.writeP (s : State) (a : Nat) (bs : List Byte) : State := s.poke (span a bs.length) bs
def State.readable (s : State) (a n : Nat) : Bool := s.bad.isEmpty || (span a n).all (fun l => !s.bad.contains l)
def State.writable (s : State) (a n : Nat) : Bool := s.wbad.isEmpty || (span a n).all (fun l => !s.wbad.contains l)

/-! ### Bounds (R74 to R76) -/

/-- PERM bit numbers of R74. -/
def useLD : Nat := 0
def useST : Nat := 1
def useEX : Nat := 2
def useAT : Nat := 3
def useER : Nat := 4
def useEW : Nat := 5
def useFA : Nat := 6
def useTR : Nat := 7
def usePR : Nat := 8

/-- VIEW of a bound: 0 joined, 1 upper half, 2 lower half. -/
def Bound.view (b : Bound) : Nat := bitsOf b.perm.toNat 11 10

/-- The generic address of the byte that an effective address names: through a view, a byte of the half (R76). -/
def Bound.addrOf (b : Bound) (e : Int) : Nat :=
  if b.view = 0 then e.toNat
  else
    let o := (e - b.base.toNat).toNat
    b.base.toNat + 4 * (o / 2) + (if b.view = 1 then 2 else 0) + o % 2

/-- The end of the addresses that follow an address of an aperture without a gap (R71). -/
def apertureEnd (a : Nat) : Nat :=
  if a / 2 ^ 56 = 0 then 2 ^ 56 else if a / 2 ^ 56 = 0xF0 then (a / 2 ^ 18 + 1) * 2 ^ 18 else (a / 2 ^ 23 + 1) * 2 ^ 23

/-- The lowest byte address from `l` upward that a bound names: through a view, a byte of its half (R76). -/
def Bound.firstFrom (b : Bound) (l : Nat) : Nat :=
  let h := if b.view = 1 then 2 else 0
  let r := l - b.base.toNat
  if b.view = 0 then l
  else if r % 4 ≤ h then b.base.toNat + 4 * (r / 4) + h
  else if r % 4 = h + 1 then l
  else b.base.toNat + 4 * (r / 4 + 1) + h

/-- The first byte of a range that is not an address, or lies in another aperture than the range's first byte. -/
def firstStray (b : Bound) (e : Int) (n : Nat) : Option Nat :=
  let a := b.addrOf e
  match apertureOf a with
  | none => some a
  | some _ => if b.addrOf (e + n - 1) < apertureEnd a then none else some (b.firstFrom (apertureEnd a))

/-- R75: is an access of `n` bytes at `e` refused, with the DETAIL and FADDR of class 0x40 (R411). -/
def Bound.refuses (b : Bound) (use : Nat) (e : Int) (n : Nat) : Option (Nat × Nat) :=
  if n = 0 then none
  else if e < b.base.toNat then some (0, (e % (2 ^ 64 : Int)).toNat)
  else if (b.base.toNat + b.len.toNat : Int) < e + n then
    some (1, (max e (b.base.toNat + b.len.toNat : Int) % (2 ^ 64 : Int)).toNat)
  else if b.perm.getLsbD use = false then some (2, (e % (2 ^ 64 : Int)).toNat)
  else if b.view ≠ 0 && use ≠ useLD && use ≠ useST && use ≠ useER then some (3, (e % (2 ^ 64 : Int)).toNat)
  else (firstStray b e n).map (fun a => (4, a % 2 ^ 64))

/-! ### Page tables (R80 to R85) -/

/-- What a leaf must grant: nothing beyond being valid, W, or X (R84). -/
inductive Need where
  | read | write | fetch
  deriving DecidableEq, Repr

/-- A translated page: first address, size, physical address, LPDDR6 half of a split page, ORD, DEV, W and X, and its
entry's level, key and place. -/
structure Page where
  va : Nat
  size : Nat
  pa : Nat
  pa2 : Option Nat
  ord : Nat
  dev : Bool
  w : Bool
  x : Bool
  level : Nat
  key : Nat
  ent : Nat
  word0 : Nat
  deriving DecidableEq, Repr

/-- Shift and index width of the tables T0 to T4 and T4S (R80). -/
def levelShift : Nat → Nat
  | 0 => 48 | 1 => 39 | 2 => 30 | 3 => 21 | 4 => 12 | _ => 16

def levelMask : Nat → Nat
  | 0 => 256 | 5 => 32 | _ => 512

/-- Does a page overlap the state area, the Logline region or a state pool (R83). -/
def hitsReserved (s : State) (a n : Nat) : Bool :=
  let hit (r : Option (Nat × Nat)) : Bool :=
    match r with
    | some (b, k) => overlap a n b k
    | none => false
  hit s.ckArea || hit s.logArea || s.ctxs.any (fun c => overlap a n c.poolBase c.poolLen)

/-- The leaf an entry makes at a level, or the DETAIL of class 0x41 (R81 to R83, R415). -/
def leafOf (s : State) (level va key ent w0 w1 : Nat) : Except Nat Page :=
  let size := 2 ^ levelShift level
  let tier := bitsOf w0 62 61
  let addr := bitsOf w0 55 12 * 2 ^ 12
  let mk (pa2 : Option Nat) : Page :=
    ⟨va / size * size, size, addr, pa2, bitsOf w0 60 59, bitsOf w0 58 58 = 1, bitsOf w0 57 57 = 1,
      bitsOf w0 56 56 = 1, level, key, ent, w0⟩
  if level < 2 || tier = 3 || bitsOf w0 60 59 = 3 || bitsOf w0 63 63 = 1 || bitsOf w0 11 6 ≠ 0 || bitsOf w0 1 0 ≠ 0
  then .error 1
  else if tier = 2 then
    let half := size / 2
    let a2 := bitsOf w1 55 12 * 2 ^ 12
    if w1 = 0 || level = 4 || bitsOf w0 58 58 = 1 || !inLp a2 half || a2 % half ≠ 0 then .error 3
    else if bitsOf w1 63 56 ≠ 0 || bitsOf w1 11 0 ≠ 0 || addr % half ≠ 0 || !inHbm addr half
      || hitsReserved s addr half || hitsReserved s a2 half then .error 1
    else .ok (mk (some a2))
  else if w1 ≠ 0 || addr % size ≠ 0 || hitsReserved s addr size
    || !(if tier = 0 then inHbm addr size else inLp addr size) then .error 1
  else .ok (mk none)

/-- The next table an entry names, or the DETAIL of class 0x41 (R80, R83). -/
def tableOf (level w0 w1 : Nat) : Except Nat (Nat × Nat) :=
  let addr := bitsOf w0 55 12 * 2 ^ 12
  let kind := bitsOf w0 3 2
  let next := if kind = 3 then 5 else level + 1
  if 3 < level || w0 ≠ addr + kind * 4 || w1 ≠ 0 || (kind = 3 && level ≠ 3) || !(inHbm addr 1 || inLp addr 1)
    || (next ≠ 5 && addr % 2 ^ 13 ≠ 0) then .error 1
  else .ok (next, addr)

def State.ctx? (s : State) (n : Nat) : Option Ctx := s.ctxs.find? (fun c => c.n == n)

def State.setCtx (s : State) (c : Ctx) : State :=
  { s with ctxs := s.ctxs.map (fun d => if d.n = c.n then c else d) }

/-- Read an entry: the cached one where the device holds it, else memory; valid entries are cached (R85). The device holds
those that it has used, so that a change to another takes effect at once (log entry 114). -/
def readEntry (s : State) (c : Ctx) (level key pa : Nat) : Except Nat (Nat × Nat × Ctx) :=
  match c.tlb.find? (fun t => t.level == level && t.key == key) with
  | some t => .ok (t.w0, t.w1, c)
  | none =>
    if s.readable pa 16 then
      let bs := s.readP pa 16
      let w0 := field bs 0 8
      let w1 := field bs 8 8
      let c := if bitsOf w0 3 2 = 0 then c else { c with tlb := ⟨level, key, pa, w0, w1⟩ :: c.tlb }
      .ok (w0, w1, c)
    else .error 4

/-- The walk (R80): from a table at a level; the error carries DETAIL and level. `fuel` counts the levels left. -/
def walk (s : State) (va : Nat) : Nat → Ctx → Nat → Nat → Except (Nat × Nat) (Page × Ctx)
  | 0, _, level, _ => .error (1, level)
  | fuel + 1, c, level, table =>
    let key := va / 2 ^ levelShift level
    let ent := table + 16 * (key % levelMask level)
    match readEntry s c level key ent with
    | .error d => .error (d, level)
    | .ok (w0, w1, c) =>
      let kind := bitsOf w0 3 2
      if kind = 0 then .error (0, level)
      else if kind = 2 then
        match leafOf s level va key ent w0 w1 with
        | .error d => .error (d, level)
        | .ok p => .ok (p, c)
      else
        match tableOf level w0 w1 with
        | .error d => .error (d, level)
        | .ok (next, table) => walk s va fuel c next table

/-- Set A, and D for a write, in the entry of a page that has been used (R81, R85). -/
def markUsed (s : State) (c : Ctx) (p : Page) (need : Need) : State :=
  let bits := 32 + (if need = .write then 16 else 0)
  let w0 := p.word0 ||| bits
  if w0 = p.word0 then s.setCtx c
  else
    let c := { c with tlb := c.tlb.map (fun t => if t.level = p.level ∧ t.key = p.key then { t with w0 := w0 } else t) }
    let s := s.setCtx c
    s.poke [p.ent] [Memory.get s.mem p.ent ||| BitVec.ofNat 8 bits]

/-- The cached leaf of an address. -/
def Ctx.leaf? (c : Ctx) (va : Nat) : Option TlbE :=
  c.tlb.find? (fun t => bitsOf t.w0 3 2 == 2 && va / 2 ^ levelShift t.level == t.key)

/-- The page of an address: through the cached leaf, or by a walk (R80, R85). -/
def pageOf (s : State) (c : Ctx) (va : Nat) : Except (Nat × Nat) (Page × Ctx) :=
  match c.leaf? va with
  | none => walk s va 6 c 0 c.t0
  | some t =>
    match leafOf s t.level va t.key t.pa t.w0 t.w1 with
    | .error d => .error (d, t.level)
    | .ok p => .ok (p, c)

/-- Translate one user virtual address of a context (R80 to R87). A pinned page stays translated (R87). -/
def translate (s : State) (cx va : Nat) (need : Need) : Except (Nat × Nat) (Page × State) :=
  match s.ctx? cx with
  | none => .error (0, 0)
  | some c =>
    match pageOf s c va with
    | .error d => .error d
    | .ok (p, c) =>
      if (need = .write && !p.w) || (need = .fetch && !p.x) then .error (2, p.level)
      else .ok (p, markUsed s c p need)

/-- Where a byte of a page lies (R81, R90). -/
def Page.loc (p : Page) (va : Nat) : Nat :=
  let o := va - p.va
  match p.pa2 with
  | none => p.pa + o
  | some q => if o % 4 < 2 then q + o / 4 * 2 + o % 4 else p.pa + o / 4 * 2 + (o % 4 - 2)

/-! ### An access: the bytes it touches -/

/-- A byte of an access: its generic address, its location, and whether its page is split, device class, and
unordered. -/
structure Byt where
  addr : Nat
  loc : Nat
  split : Bool
  dev : Bool
  unord : Bool
  deriving DecidableEq, Repr

/-- A byte of a scratchpad. -/
def padByt (a loc : Nat) : Byt := ⟨a, loc, false, false, false⟩

/-- Who performs an access: its context, its core, the address of its instruction, and the strand, if any, whose
transfer it belongs to. -/
structure Who where
  ctx : Nat
  core : Nat
  iaddr : Word
  sid : Option Nat
  deriving DecidableEq, Repr

/-- The access word of R411. -/
def accessWord (elem bno use level : Nat) : Word :=
  BitVec.ofNat 64 (elem % 2 ^ 32 + bno * 2 ^ 32 + use * 2 ^ 40 + level * 2 ^ 45)

/-- Resolve generic addresses to bytes, in order; the error carries DETAIL, level and the failing address (0x41).
`half` is set through a view, whose page must be split (R76); of a scratchpad, which has no page, a view names the same
bytes of each word (log entry 32). A value that is no address (R71) has no translation. -/
def resolve (w : Who) (need : Need) (half : Bool) :
    List Nat → State → Option Page → List Byt → Except (Nat × Nat × Nat) (List Byt × State)
  | [], s, _, acc => .ok (acc.reverse, s)
  | a :: as, s, pg, acc =>
    match padOf w.core a with
    | some l => resolve w need half as s pg (padByt a l :: acc)
    | none =>
      if 2 ^ 56 ≤ a then .error (0, 0, a) else
      let hit : Option Page := match pg with
        | some p => if p.va ≤ a ∧ a < p.va + p.size then some p else none
        | none => none
      match (match hit with
        | some p => .ok (p, s)
        | none => translate s w.ctx a need : Except (Nat × Nat) (Page × State)) with
      | .error (d, l) => .error (d, l, a)
      | .ok (p, s) =>
        if half && p.pa2.isNone then .error (2, p.level, a)
        else resolve w need half as s (some p) (⟨a, p.loc a, p.pa2.isSome, p.dev, p.ord == 2⟩ :: acc)

/-- DETAIL of class 0x42 for a location (R411). -/
def badDetail (b : Byt) : Nat :=
  if isPad b.loc then 4 else if isScratch b.loc then 5
  else if b.split then (if isHbm b.loc then 2 else 3)
  else if isHbm b.loc then 0 else 1

/-- What an access needs of its leaf, by its use (R84). -/
def needOf (use : Nat) : Need :=
  if use = useST || use = useAT || use = useEW || use = usePR then .write
  else if use = useEX then .fetch else .read

/-- The generic addresses of `n` bytes from `e` through a bound. -/
def Bound.addrs (b : Bound) (e : Int) (n : Nat) : List Nat :=
  (List.range n).map (fun i => b.addrOf (e + (i : Nat)))

/-- One access of `n` bytes at `e` for a use: checked against the bound (class 0x40) and translated (class 0x41). -/
def access (s : State) (w : Who) (b : Bound) (bno use : Nat) (e : Int) (n elem : Nat) :
    Except Flt (List Byt × State) :=
  match b.refuses use e n with
  | some (d, a) => .error ⟨0x40, d, BitVec.ofNat 64 a, accessWord elem bno use 0, w.iaddr⟩
  | none =>
    match resolve w (needOf use) (b.view ≠ 0) (b.addrs e n) s none [] with
    | .ok r => .ok r
    | .error (d, l, a) => .error ⟨0x41, d, BitVec.ofNat 64 a, accessWord elem bno use l, w.iaddr⟩

/-- The bytes of an access, or the first that cannot be corrected (class 0x42, R414). -/
def readByts (s : State) (w : Who) (bno use elem : Nat) (bs : List Byt) : Except Flt (List Byte) :=
  match (if s.bad.isEmpty then none else bs.find? (fun b => s.bad.contains b.loc)) with
  | some b => .error ⟨0x42, badDetail b, BitVec.ofNat 64 b.addr, accessWord elem bno use 0, w.iaddr⟩
  | none => .ok (bs.map (fun b => Memory.get s.mem b.loc))

def State.pokeByts (s : State) (bs : List Byt) (vs : List Byte) : State := s.poke (bs.map (·.loc)) vs

/-! ### Accesses of the device itself to a context's space: queues, launch records, windows (no bound) -/

/-- A range of generic addresses of a context, without a bound; the error is DETAIL and address of class 0x41. No strand
issues such an access: apertures 0xF0 and 0xF1 stand for core 0 and cluster 0 (log entry 142). -/
def devAccess (s : State) (cx a n : Nat) (need : Need) : Except (Nat × Nat) (List Byt × State) :=
  match resolve ⟨cx, 0, 0#64, none⟩ need false (span a n) s none [] with
  | .ok r => .ok r
  | .error (d, _, a) => .error (d, a)

/-- Read as the device: DETAIL is 0 to 4 for class 0x41 and 8 to 13 for class 0x42, as the causes of R412. -/
def devRead (s : State) (cx a n : Nat) : Except (Nat × Nat) (List Byte × State) :=
  match devAccess s cx a n .read with
  | .error e => .error e
  | .ok (bs, s) =>
    match bs.find? (fun b => s.bad.contains b.loc) with
    | some b => .error (8 + badDetail b, b.addr)
    | none => .ok (bs.map (fun b => Memory.get s.mem b.loc), s)

/-- Write as the device; cause 16 when the memory device reports the write as failed (R412). -/
def devWrite (s : State) (cx a : Nat) (vs : List Byte) : Except (Nat × Nat) State :=
  match devAccess s cx a vs.length .write with
  | .error e => .error e
  | .ok (bs, s) =>
    match bs.find? (fun b => s.wbad.contains b.loc) with
    | some b => .error (16, b.addr)
    | none => .ok (s.pokeByts bs vs)

end Sys2Proof.Machine
end

