-- ==== Sys2Proof/Machine/Operands.lean ====
section
/-! DEFINITION. Operands: reading and writing each register file, the elements of a vector register (R220, R125), masks
(R239), predicates (R242), tiles and planes (R259, R262), and the operand checks shared by the vector instructions
(R437 to R439). -/

namespace Sys2Proof.Machine

/-! ### Scalar registers -/

/-- x0 reads as zero (R75, R189). -/
def Strand.getX (st : Strand) (r : XReg) : Word := if r = 0 then 0#64 else st.x[r]

/-- A write to x0 is discarded (R189). -/
def Strand.setX (st : Strand) (r : XReg) (v : Word) : Strand :=
  if r = 0 then st else { st with x := st.x.set r v }

def Strand.getF (st : Strand) (r : FReg) : Word := st.f[r]
def Strand.setF (st : Strand) (r : FReg) (v : Word) : Strand := { st with f := st.f.set r v }

def Strand.getB (st : Strand) (r : BRegNo) : Bound := st.b[r]
def Strand.setB (st : Strand) (r : BRegNo) (v : Bound) : Strand := { st with b := st.b.set r v }

/-- The exact value of a scalar float operand: the low bits of its register (R202). -/
def Strand.fval (st : Strand) (t : ETy) (r : FReg) : Val := decodeVal t ((st.getF r).toNat % 2 ^ sbits t)

/-! ### Images: elements packed from bit 0 -/

/-- Element `i` of width `w` (R220). -/
def elem (w img i : Nat) : Nat := (img >>> (i * w)) % 2 ^ w

/-- Pack codes of width `w` from bit 0. -/
def pack (w : Nat) : List Nat → Nat
  | [] => 0
  | c :: cs => c % 2 ^ w + 2 ^ w * pack w cs

def ceilDiv (a b : Nat) : Nat := (a + b - 1) / b
def ceil64 (n : Nat) : Nat := (n + 63) / 64 * 64

/-- Where the scale bytes of `n` elements start: the first 64-byte boundary after the codes (R125). -/
def scaleAt (t : ETy) (n : Nat) : Nat := ceil64 (ceilDiv (n * sbits t) 8)

/-- The scale byte of block `j` in an image of `n` elements. -/
def scaleOf (t : ETy) (n img j : Nat) : Nat := elem 8 img (scaleAt t n + j)

/-- Element `i` of an image of `n` elements, decoded (R120 to R125). -/
def imgVal (t : ETy) (l n img i : Nat) : Val × Ev :=
  decodeEv t (elem (sbits t) img i) (if isBlock t then scaleOf t n img (i / l) else 0)

/-- An image of codes and, for block types, scale bytes (R125). -/
def image (t : ETy) (codes scales : List Nat) : Nat :=
  pack (sbits t) codes + (if isBlock t then pack 8 scales <<< (8 * scaleAt t codes.length) else 0)

/-! ### Vector registers -/

def VReg.nat (v : VReg) : Nat := v.bits.toNat

/-- The bits from bit `k` to the end of its byte. -/
def byteRest (k old : Nat) : Nat := ((old >>> k) % 2 ^ ((8 - k % 8) % 8)) <<< k

/-- A vector register after a completed write: tail bytes zero, HWV by R31 and R220. Bits of the last byte in use that
belong to no element below VL keep their values (log entry 111). -/
def VReg.full (old : VReg) (t : ETy) (l : Nat) (codes scales : List Nat) : VReg :=
  ⟨BitVec.ofNat 65536 (image t codes scales + byteRest (codes.length * sbits t) old.nat),
    ceilDiv (bytesOf t l codes.length) 64⟩

/-- A vector register whose first elements have been written by an interrupted instruction: the rest keep their
values, HWV is the larger of its old value and the groups written (R31, R41). -/
def VReg.part (old : VReg) (t : ETy) (codes : List Nat) : VReg :=
  let n := codes.length * sbits t
  ⟨BitVec.ofNat 65536 (pack (sbits t) codes + (old.nat >>> n) <<< n), max old.hw (ceilDiv n 512)⟩

def Strand.getV (st : Strand) (r : VRegNo) : VReg := st.v[r]
def Strand.setV (st : Strand) (r : VRegNo) (v : VReg) : Strand := { st with v := st.v.set r v }

/-- VTYPE's block length (R221). -/
def Strand.blkCode (st : Strand) : Nat := bitsOf st.vtype.toNat 6 5
def Strand.blk (st : Strand) : Nat := blkLen st.blkCode
def Strand.vty (st : Strand) : ETy := (etyOf (bitsOf st.vtype.toNat 4 0)).getD .f32

/-- Element `i` of a vector operand, as a code and as a value. -/
def Strand.code (st : Strand) (t : ETy) (r : VRegNo) (i : Nat) : Nat := elem (sbits t) (st.getV r).nat i
def Strand.val (st : Strand) (t : ETy) (r : VRegNo) (i : Nat) : Val × Ev :=
  imgVal t st.blk st.vl (st.getV r).nat i

/-! ### Masks and predicates -/

/-- Bit `i` of a mask register; m0 is all ones below VL (R239). -/
def Strand.mbit (st : Strand) (m : MRegNo) (i : Nat) : Bool :=
  if m = 0 then i < st.vl else st.m[m].bits.getLsbD i

/-- Is element `i` active (R220). -/
def Strand.active? (st : Strand) (m : MRegNo) (i : Nat) : Bool := i < st.vl && st.mbit m i

def bitsToNat : List Bool → Nat
  | [] => 0
  | b :: bs => (if b then 1 else 0) + 2 * bitsToNat bs

/-- A completed write of a mask register: bits at and above VL are cleared, HWM is set (R239). A write to m0 is
discarded. -/
def Strand.setM (st : Strand) (d : MRegNo) (bits : List Bool) : Strand :=
  if d = 0 then st
  else { st with m := st.m.set d ⟨BitVec.ofNat 32768 (bitsToNat bits), ceilDiv st.vl 512⟩ }

/-- A mask register whose first bits have been written by an interrupted instruction (R31, R41). -/
def Strand.partM (st : Strand) (d : MRegNo) (bits : List Bool) : Strand :=
  if d = 0 then st
  else
    let old := st.m[d]
    { st with m := st.m.set d ⟨BitVec.ofNat 32768 (bitsToNat bits + (old.bits.toNat >>> bits.length) <<< bits.length),
        max old.hw (ceilDiv bits.length 512)⟩ }

/-- Code `i` of a predicate register; p0 reads 65535 below VL (R242). -/
def Strand.pcode (st : Strand) (p : PRegNo) (i : Nat) : Nat :=
  if p = 0 then (if i < st.vl then 65535 else 0) else elem 16 st.p[p].bits.toNat i

def Strand.prov (st : Strand) (p : PRegNo) : BitVec 16 := if p = 0 then 0#16 else st.p[p].prov

/-- A completed write of a predicate register (R242): codes above VL are 0, HWP is set, the provenance is written. -/
def Strand.setP (st : Strand) (d : PRegNo) (codes : List Nat) (prov : BitVec 16) : Strand :=
  if d = 0 then st
  else { st with p := st.p.set d ⟨BitVec.ofNat 524288 (pack 16 codes), ceilDiv (2 * st.vl) 64, prov⟩ }

/-- A predicate register whose first codes have been written by an interrupted instruction; its provenance waits for
completion (R251). -/
def Strand.partP (st : Strand) (d : PRegNo) (codes : List Nat) : Strand :=
  if d = 0 then st
  else
    let old := st.p[d]
    let n := codes.length * 16
    { st with p := st.p.set d ⟨BitVec.ofNat 524288 (pack 16 codes + (old.bits.toNat >>> n) <<< n),
        max old.hw (ceilDiv n 512), old.prov⟩ }

/-! ### Operand checks (R433: class 0x81 before 0x82) -/

/-- A fault at the strand's current instruction. -/
def Strand.flt (st : Strand) (cls det : Nat) (i1 i2 : Nat) : Flt :=
  ⟨cls, det, st.pc, BitVec.ofNat 64 i1, BitVec.ofNat 64 i2⟩

/-- The checks an instruction makes, in order: the first that fails is reported. -/
def firstFlt : List (Bool × Flt) → Option Flt
  | [] => none
  | (bad, f) :: cs => if bad then some f else firstFlt cs

/-- Class 0x81 for a v register; fields are given in the order of R433, the highest bit first. -/
def Strand.vregChk (st : Strand) (rs : List VRegNo) : List (Bool × Flt) :=
  rs.map (fun r => (decide (st.vcount ≤ r.val), st.flt 0x81 0 r.val st.vcount))

/-- Class 0x82 for an operand of type `t` over VL elements (R438). -/
def Strand.lenChk (st : Strand) (t : ETy) : List (Bool × Flt) :=
  [(decide (st.mvl < bytesOf t st.blk st.vl) && !(isBlock t && st.blk == 0), st.flt 0x82 0 st.vl st.mvl),
   (isBlock t && st.blk ≠ 0 && st.vl % st.blk ≠ 0, st.flt 0x82 1 st.vl st.blk),
   (isBlock t && st.blk = 0, st.flt 0x82 2 st.vl 0)]

/-- Class 0x84 DETAIL 23: dyn resolving to rst where rst is not admitted (R439). -/
def Strand.dynChk (st : Strand) (r : Rnd) : List (Bool × Flt) :=
  [(st.dynRst r, st.flt 0x84 23 st.fstat.toNat 0)]

end Sys2Proof.Machine
end

