-- ==== Sys2Proof/Machine/Save.lean ====
section
/-! DEFINITION. The context save area (R44, R45, R238, R270): a strand's state as bytes, and those bytes read back. -/

namespace Sys2Proof.Machine

def zeros (n : Nat) : List Byte := List.replicate n 0#8

/-- The first `n` bytes of a number given as bits. -/
def bytesAt (img n : Nat) : List Byte := toLE n img

/-- A bound register's 32 bytes (R44 BREG). -/
def boundBytes (b : Bound) : List Byte :=
  toLE 8 b.addr.toNat ++ toLE 8 b.base.toNat ++ toLE 8 b.len.toNat ++ toLE 2 b.perm.toNat ++ zeros 6

def boundOf (bs : List Byte) (off : Nat) : Bound :=
  ⟨BitVec.ofNat 64 (field bs off 8), BitVec.ofNat 64 (field bs (off + 8) 8), BitVec.ofNat 64 (field bs (off + 16) 8),
    BitVec.ofNat 16 (field bs (off + 24) 2)⟩

/-- A run-ahead group's 16 bytes (R238 GRP), its length in elements (log entry 143); a group with no strip is zero. -/
def groupBytes (g : Group) : List Byte :=
  if g.assigned then toLE 8 (g.src % (2 ^ 64 : Int)).toNat ++ toLE 4 g.len ++ toLE 4 1 else zeros 16

/-- SLQREC, 256 bytes (R238). -/
def slqBytes (st : Strand) : List Byte :=
  match st.stream with
  | none => zeros 256
  | some q =>
    toLE 8 (q.next % (2 ^ 64 : Int)).toNat ++ toLE 8 q.remain ++ toLE 8 q.stride ++ toLE 4 q.slen
      ++ toLE 1 (etyCode q.ty) ++ toLE 1 q.bno.val ++ toLE 1 q.nextBuf ++ toLE 1 q.groups.length
      ++ ((q.groups.flatMap groupBytes) ++ zeros 128).take 128 ++ zeros 96

/-- An algebra slot: its 64-byte header and its entries, padded to a multiple of 64 bytes (R45, R142, R143). -/
def algBytes (t : AlgTable) : List Byte :=
  let body := toLE 4 0x00040005 ++ toLE 1 t.dim ++ zeros 1 ++ toLE 2 t.ents.length ++ toLE 2 t.conj.toNat ++ zeros 2
    ++ toLE 4 t.atid.toNat ++ zeros 48
    ++ t.ents.flatMap (fun e => toLE 1 e.k ++ toLE 1 e.p ++ toLE 1 e.q ++ zeros 1 ++ toLE 4 e.c.toNat)
  body ++ zeros (ceil64 body.length - body.length)

def fmtByte (f : Option ETy) : Nat := match f with | some t => etyCode t | none => 255
def accByte : AccTy → Nat
  | .none => 0 | .f32 => 1 | .i32 => 2
def accOf (n : Nat) : AccTy := if n = 1 then .f32 else if n = 2 then .i32 else .none

/-- The matrix header (R270), then planes and tiles (R45). -/
def matrixBytes (st : Strand) : List Byte :=
  if st.inMatrix then
    toLE 1 (fmtByte st.active.fmt) ++ toLE 1 (fmtByte st.shadow.fmt) ++ toLE 1 (st.active.blk + 4 * st.shadow.blk)
      ++ toLE 1 (match st.bind with | some (p, _) => 128 + p | none => 0)
      ++ st.acc.toList.flatMap (fun t => toLE 1 (accByte t.ty))
      ++ toLE 8 (match st.bind with | some (_, k) => k | none => 0) ++ zeros 48
      ++ bytesAt st.active.bits.toNat 16384 ++ bytesAt st.shadow.bits.toNat 16384
      ++ st.acc.toList.flatMap (fun t => bytesAt t.bits.toNat 16384)
  else []

/-- The variable part (R45). -/
def varBytes (st : Strand) : List Byte :=
  (st.v.toList.take st.vcount).flatMap (fun v => bytesAt v.nat (64 * v.hw))
    ++ (st.m.toList.drop 1).flatMap (fun m => bytesAt m.bits.toNat (64 * m.hw))
    ++ (st.p.toList.drop 1).flatMap (fun p => bytesAt p.bits.toNat (64 * p.hw))
    ++ st.alg.toList.flatMap (fun a => match a with | some t => algBytes t | none => [])
    ++ matrixBytes st

/-- FLAGS of R44. -/
def saveFlags (st : Strand) : Nat :=
  (if st.inMatrix then 1 else 0) + (if st.resume.isSome then 2 else 0) + (if st.stream.isSome then 4 else 0)

def marks (hs : List Nat) : List Byte := hs.flatMap (toLE 2)

/-- The FIDX pairs as the save area holds them (R44). -/
def fidxBytes (v : Vector (Word × Word) 6) : List Byte := v.toList.flatMap (fun f => toLE 8 f.1.toNat ++ toLE 8 f.2.toNat)

/-- The save area of a strand, with a given PC (R44, R45). -/
def saveBytes (st : Strand) (pc : Word) : List Byte :=
  let var := varBytes st
  toLE 4 0x00040001 ++ toLE 4 (0x680 + var.length) ++ toLE 8 pc.toNat ++ toLE 8 st.spillRs ++ toLE 8 st.spillMs
    ++ toLE 4 st.esr ++ toLE 1 st.vcount ++ toLE 1 st.share ++ toLE 1 (saveFlags st) ++ toLE 1 st.bufGroups
    ++ toLE 2 st.rdepth ++ toLE 2 st.mdepth ++ toLE 4 st.fstat.toNat ++ toLE 8 st.vtype.toNat ++ toLE 8 st.vl
    ++ toLE 8 st.mvl ++ toLE 8 st.stripPrev.toNat ++ toLE 4 st.tau.toNat ++ zeros 4 ++ toLE 8 st.rngKey.toNat
    ++ toLE 8 st.rngCtr.toNat ++ toLE 16 ((st.resume.getD 0#128).toNat) ++ toLE 4 st.gang.node ++ toLE 4 st.llin
    ++ fidxBytes st.fidx
    ++ (st.x.toList.drop 1).flatMap (fun r => toLE 8 r.toNat) ++ st.f.toList.flatMap (fun r => toLE 8 r.toNat)
    ++ zeros 8 ++ st.b.toList.flatMap boundBytes
    ++ marks (st.v.toList.zipIdx.map (fun v => if v.2 < st.vcount then v.1.hw else 0))
    ++ marks (st.m.toList.map (·.hw)) ++ marks (st.p.toList.map (·.hw)) ++ marks (st.p.toList.map (·.prov.toNat))
    ++ marks (st.alg.toList.map (fun a => match a with | some t => t.ents.length | none => 0xFFFF))
    ++ zeros 8 ++ slqBytes st ++ zeros 32 ++ var

/-! ### Reading it back (R46) -/

/-- A table of `n` values read by index. -/
def vecOf {α : Type} (n : Nat) (g : Nat → α) : Vector α n := Vector.ofFn (fun i => g i.val)

/-- The FIDX pairs of a save area. -/
def fidxIn (bs : List Byte) : Vector (Word × Word) 6 :=
  vecOf 6 (fun i => (BitVec.ofNat 64 (field bs (0x80 + 16 * i) 8), BitVec.ofNat 64 (field bs (0x88 + 16 * i) 8)))

/-- Offsets of parts that follow each other, given their sizes. -/
def offsets : Nat → List Nat → List Nat
  | _, [] => []
  | o, n :: ns => o :: offsets (o + n) ns

/-- An algebra slot read back, with its entry count. -/
def algOf (bs : List Byte) (off n : Nat) : AlgTable :=
  ⟨field bs (off + 4) 1, BitVec.ofNat 16 (field bs (off + 8) 2), BitVec.ofNat 32 (field bs (off + 12) 4),
    (List.range n).map (fun i =>
      let o := off + 64 + 8 * i
      ⟨field bs o 1, field bs (o + 1) 1, field bs (o + 2) 1, BitVec.ofNat 32 (field bs (o + 4) 4)⟩)⟩

def groupOf (bs : List Byte) (off : Nat) : Group :=
  ⟨(field bs off 8 : Nat), field bs (off + 8) 4, field bs (off + 12) 4 = 1, false, true, []⟩

/-- The stream of SLQREC; every buffered group is stale (R43, R238). The type and bound checked at SLQ stay with the
device (R236). -/
def streamOf (bs : List Byte) (old : Option Stream) : Option Stream :=
  let o := 0x560
  old.map (fun q => { q with
    next := (field bs o 8 : Nat), remain := field bs (o + 8) 8, stride := field bs (o + 16) 8, slen := field bs (o + 24) 4,
    ty := (etyOf (field bs (o + 28) 1)).getD q.ty, nextBuf := field bs (o + 30) 1,
    groups := (List.range (field bs (o + 31) 1)).map (fun i => groupOf bs (o + 32 + 16 * i)) })

def fmtOfByte (n : Nat) : Option ETy := if n = 255 then none else etyOf n

/-- Restore a strand's registers from its save area (R46): every saved field, and zero wherever no high-water mark
covers a byte. What the device keeps beside the area is taken from `st`. -/
def loadBytes (st : Strand) (bs : List Byte) : Strand :=
  let vcount := field bs 0x24 1
  let flags := field bs 0x26 1
  let vh := (List.range vcount).map (fun i => 64 * field bs (0x4E0 + 2 * i) 2)
  let mh := (List.range 7).map (fun i => 64 * field bs (0x522 + 2 * i) 2)
  let ph := (List.range 7).map (fun i => 64 * field bs (0x532 + 2 * i) 2)
  let an := (List.range 4).map (fun i => field bs (0x550 + 2 * i) 2)
  let ah := an.map (fun n => if n = 0xFFFF then 0 else ceil64 (64 + 8 * n))
  let offs := offsets 0x680 (vh ++ mh ++ ph ++ ah)
  let part (i : Nat) (n : Nat) : Nat := field bs (offs.getD i 0) n
  let mo := 0x680 + (vh ++ mh ++ ph ++ ah).sum
  let mat : Bool := flags % 2 = 1
  let plane (i : Nat) : BitVec 131072 := BitVec.ofNat 131072 (field bs (mo + 64 + 16384 * i) 16384)
  let bind := field bs (mo + 3) 1
  { st with
    pc := BitVec.ofNat 64 (field bs 8 8)
    spillRs := field bs 0x10 8
    spillMs := field bs 0x18 8
    esr := field bs 0x20 4
    vcount := vcount
    bufGroups := field bs 0x27 1
    rdepth := field bs 0x28 2
    mdepth := field bs 0x2A 2
    fstat := BitVec.ofNat 32 (field bs 0x2C 4)
    vtype := BitVec.ofNat 64 (field bs 0x30 8)
    vl := field bs 0x38 8
    mvl := field bs 0x40 8
    stripPrev := BitVec.ofNat 64 (field bs 0x48 8)
    tau := BitVec.ofNat 32 (field bs 0x50 4)
    rngKey := BitVec.ofNat 64 (field bs 0x58 8)
    rngCtr := BitVec.ofNat 64 (field bs 0x60 8)
    resume := if flags / 2 % 2 = 1 then some (BitVec.ofNat 128 (field bs 0x68 16)) else none
    fidx := fidxIn bs
    x := vecOf 32 (fun i => if i = 0 then 0#64 else BitVec.ofNat 64 (field bs (0xE0 + 8 * (i - 1)) 8))
    f := vecOf 32 (fun i => BitVec.ofNat 64 (field bs (0x1D8 + 8 * i) 8))
    b := vecOf 16 (fun i => boundOf bs (0x2E0 + 32 * i))
    v := vecOf 32 (fun i => if i < vcount then ⟨BitVec.ofNat 65536 (part i (vh.getD i 0)), vh.getD i 0 / 64⟩ else VReg.zero)
    m := vecOf 8 (fun i => if i = 0 then MReg.zero
      else ⟨BitVec.ofNat 32768 (part (vcount + i - 1) (mh.getD (i - 1) 0)), mh.getD (i - 1) 0 / 64⟩)
    p := vecOf 8 (fun i => if i = 0 then PReg.zero
      else ⟨BitVec.ofNat 524288 (part (vcount + 7 + i - 1) (ph.getD (i - 1) 0)), ph.getD (i - 1) 0 / 64,
        BitVec.ofNat 16 (field bs (0x540 + 2 * i) 2)⟩)
    alg := vecOf 4 (fun i => if an.getD i 0xFFFF = 0xFFFF then none
      else some (algOf bs (offs.getD (vcount + 14 + i) 0) (an.getD i 0)))
    stream := if flags / 4 % 2 = 1 then streamOf bs st.stream else none
    inMatrix := mat
    active := if mat then ⟨plane 0, fmtOfByte (field bs mo 1), field bs (mo + 2) 1 % 4⟩ else Plane.zero
    shadow := if mat then ⟨plane 1, fmtOfByte (field bs (mo + 1) 1), field bs (mo + 2) 1 / 4 % 4⟩ else Plane.zero
    acc := if mat then vecOf 4 (fun i => ⟨plane (2 + i), accOf (field bs (mo + 4 + i) 1)⟩) else Vector.replicate 4 Tile.zero
    commitAcc := if mat then vecOf 4 (fun i => accOf (field bs (mo + 4 + i) 1)) else Vector.replicate 4 .none
    commitActive := if mat then fmtOfByte (field bs mo 1) else none
    commitShadow := if mat then fmtOfByte (field bs (mo + 1) 1) else none
    mqueue := []
    bind := if mat && 128 ≤ bind then some (bind % 8, field bs (mo + 8) 8) else none
    rstack := []
    mstack := [] }

/-- The most bytes a save area of a strand can take (R47): with the largest share its node allows. -/
def saveMax (gmax : Nat) (matrix : Bool) : Nat :=
  0x680 + 8192 * 2 ^ gmax + 7 * 4096 + 7 * 65536 + 4 * (64 + 8192) + (if matrix then 64 + 6 * 16384 else 0)

end Sys2Proof.Machine
end

