-- ==== Sys2Proof/Machine/Base.lean ====
section
/-! DEFINITION. Shared operations below the exception entry: selecting a strand, cores and clusters, the outbox, how a
launch and its nodes end (R64, R68, R402), pending failures (R410), the interlock table (R112), barrier objects (R273,
R274). -/

namespace Sys2Proof.Machine

/-! ### Tables by number -/

def tabGet {α : Type} (d : α) (t : List (Nat × α)) (k : Nat) : α :=
  match t.find? (fun e => e.1 == k) with
  | some e => e.2
  | none => d

def tabSet {α : Type} (t : List (Nat × α)) (k : Nat) (v : α) : List (Nat × α) :=
  (k, v) :: t.filter (fun e => e.1 != k)

def State.core (s : State) (c : Nat) : Core := tabGet Core.reset s.cores c
def State.setCore (s : State) (c : Nat) (v : Core) : State := { s with cores := tabSet s.cores c v }
def State.cluster (s : State) (k : Nat) : Cluster := tabGet Cluster.reset s.clusters k
def State.setCluster (s : State) (k : Nat) (v : Cluster) : State := { s with clusters := tabSet s.clusters k v }
def State.part (s : State) (p : Nat) : Part := tabGet Part.reset s.parts p
def State.queue? (s : State) (n : Nat) : Option Queue := s.queues.find? (fun q => q.n == n)
def State.setQueue (s : State) (q : Queue) : State :=
  { s with queues := s.queues.map (fun r => if r.n = q.n then q else r) }
def State.launch? (s : State) (no : Nat) : Option Launch := s.launches.find? (fun l => l.no == no)
def State.setLaunch (s : State) (l : Launch) : State :=
  { s with launches := s.launches.map (fun m => if m.no = l.no then l else m) }
def State.node? (s : State) (no node : Nat) : Option Node := (s.launch? no).bind (fun l => l.nodes[node]?)
def State.setNode (s : State) (no node : Nat) (n : Node) : State :=
  match s.launch? no with
  | some l => s.setLaunch { l with nodes := l.nodes.set node n }
  | none => s

/-- Has the module booted (R367); also where it answers little after a loss (R448). -/
def State.booted (s : State) : Bool := s.boot == .up || s.boot == .maintenance

/-- Is the module executing programs: booted, no checkpoint in progress or hold after one, not frozen after
a replay (R367, R371, R455). What a RESTORE or REPLAY brings back runs also after a unit is lost with no spare (R448,
R454). -/
def State.running (s : State) : Bool := s.booted && s.ckRun.isNone && !s.held && !s.frozen

/-! ### The strand in front -/

def State.setMe (s : State) (st : Strand) : State := { s with me := st }

/-- Does a place hold a strand that still exists. -/
def Strand.exists? (st : Strand) : Bool := st.live == .resident || st.live == .saved

/-- All strands that exist. -/
def State.all (s : State) : List Strand := (s.me :: s.strands).filter Strand.exists?

def State.strand? (s : State) (sid : Nat) : Option Strand := s.all.find? (fun t => t.id == sid)

/-- Bring a strand to the front: it is now `me`. -/
def State.select (s : State) (sid : Nat) : Option State :=
  if s.me.exists? && s.me.id == sid then some s
  else
    match s.strands.find? (fun t => t.exists? && t.id == sid) with
    | some t => some { s with me := t, strands := (s.me :: s.strands.filter (fun u => u.id != sid)).filter Strand.exists? }
    | none => none

/-- Change every strand. -/
def State.mapStrands (s : State) (g : Strand → Strand) : State :=
  { s with me := g s.me, strands := s.strands.map g }

/-- Change one strand, wherever it stands. -/
def State.modStrand (s : State) (sid : Nat) (g : Strand → Strand) : State :=
  s.mapStrands (fun t => if t.exists? && t.id == sid then g t else t)

def State.who (s : State) : Who := ⟨s.me.ctx, s.me.core, s.me.pc, none⟩

def State.issuer (s : State) : Issuer :=
  ⟨some s.me.id, s.me.ctx, s.me.core, s.me.gang, s.me.pc, BitVec.ofNat 32 s.me.llin, s.me.ten,
    s.me.seq⟩

/-- The grid binding of a strand, also while it is in handler mode (R269). -/
def Strand.boundAs (st : Strand) : Option (Nat × Nat) :=
  match st.handler with
  | some h => h.bind
  | none => st.bind

def Strand.cluster (st : Strand) : Nat := clusterOf st.core

/-- The node's identity of R27. -/
def nodeIdOf (g : GangId) : Word := BitVec.ofNat 64 (g.node + g.launch * 2 ^ 32)

/-! ### What leaves the module -/

/-- Does a frame stay inside (R455): during a replay only replies and records to the replaying host leave the ports; the
management lane is none of them (R365). -/
def State.mutes (s : State) (o : Out) : Bool :=
  match s.replay, o with
  | none, _ => false
  | some _, .hostWrite _ true _ _ => false
  | some r, .reply dst lane _ _ _ _ => !lane && dst != r.host
  | some r, .record host _ => host != r.host
  | some _, _ => true

def State.emit (s : State) (o : Out) : State := if s.mutes o then s else { s with out := s.out ++ [o] }

/-- Send a record to a host: FSEQ counts, bit 2 of FRFLAGS is set (R395, R402). -/
def State.sendRec (s : State) (host : Nat) (r : Rec) : State :=
  let o := .record host { r with flags := r.flags ||| 4, seq := BitVec.ofNat 64 (s.fseq + 1) }
  if s.mutes o then s else { s with fseq := s.fseq + 1 }.emit o

/-- The record of a strand's event (R395): FTIME is TIME at detection, FRFLAGS what the strand is when the record is made (log
entry 136). -/
def Strand.record (st : Strand) (time : Word) (f : Flt) : Rec :=
  ⟨f, (if st.handler.isSome then 1 else 0) + (if st.inMatrix then 2 else 0), nodeIdOf st.gang,
    BitVec.ofNat 32 st.llin, st.ctx, time, 0#64⟩

/-- A record of no strand (R395). -/
def plainRec (time : Word) (ctx : Nat) (nodeid : Word) (f : Flt) : Rec := ⟨f, 0, nodeid, 0#32, ctx, time, 0#64⟩

/-- The 32 bytes of a health event (R363). -/
def healthBytes (code unit : Nat) (time data : Word) (seq : Nat) : List Byte :=
  toLE 4 0x0004000D ++ toLE 2 code ++ toLE 2 unit ++ toLE 8 time.toNat ++ toLE 8 data.toNat ++ toLE 8 seq

/-- A health event to every host registered for them (R363). -/
def State.health (s : State) (code unit : Nat) (data : Word) : State :=
  if s.replay.isSome then s
  else { s with
    hseq := s.hseq + 1
    out := s.out ++ (s.hosts.filter (·.2)).map (fun h => .health h.1 (healthBytes code unit s.time data (s.hseq + 1))) }

def State.hostOfCtx (s : State) (n : Nat) : Nat := ((s.ctx? n).map (·.host)).getD 0
def State.hostOfQueue (s : State) (n : Nat) : Nat := ((s.queue? n).map (·.host)).getD 0

/-! ### How nodes and launches end -/

def sameNode (g h : GangId) : Bool := g.launch == h.launch && g.node == h.node

/-- Discard the strands of a node with their allocations, handles, waits, queued matrix transfers and window entries, and
the tags it owns (R68, R95, R294). -/
def State.discardNode (s : State) (g : GangId) : State :=
  let gone (t : Strand) : Bool := t.exists? && sameNode t.gang g
  let sids := (s.all.filter gone).map (·.id)
  let ops := (s.all.filter gone).flatMap (fun t => t.mqueue.map (·.op))
    ++ s.clusters.flatMap (fun k => (k.2.reqs.filter (fun r => sids.contains r.sid)).map (·.op))
  let s := { s with me := if gone s.me then Strand.blank else s.me, strands := s.strands.filter (fun t => !gone t) }
  let core (c : Core) : Core := { c with
    entries := c.entries.filter (fun e => !(sids.contains e.sid && (e.free || ops.contains e.op))) }
  let cluster (k : Cluster) : Cluster := { k with
    tags := k.tags.filter (fun t => !(t.launch == g.launch && t.node == g.node))
    bufs := (k.bufs.filter (fun b => !sameNode b.gang g)).map
      (fun b => { b with waiters := b.waiters.filter (fun w => !sids.contains w) })
    allocs := k.allocs.filter (fun a => !sameNode a.gang g)
    reqs := k.reqs.filter (fun r => !sids.contains r.sid) }
  { s with cores := s.cores.map (fun e => (e.1, core e.2)), clusters := s.clusters.map (fun e => (e.1, cluster e.2)) }

/-- STATUS of a launch's completion record (R51, R65, R402, R405): an abort prevails over a failure. -/
def Launch.status (l : Launch) : Nat :=
  if l.aborted then 4 else if l.failed then 5
  else if l.nodes.any (·.demoted) then 2 else if l.missed then 6 else 0

/-- Can the launch end: every node complete, or every dispatched node of a failed or aborted launch (R16, R402). -/
def Launch.over (l : Launch) : Bool :=
  if l.failed || l.aborted then l.nodes.all (fun n => n.st != .running)
  else l.nodes.all (fun n => n.st == .done)

/-- Are transfers of a launch's nodes still in flight (R64, R68). -/
def State.inFlight (s : State) (no : Nat) : Bool :=
  let mine (i : Issuer) : Bool := i.gang.launch == no
  s.cores.any (fun c => c.2.copies.any (fun p => mine p.iss)) || s.fabs.any (fun f => mine f.iss)
    || s.clusters.any (fun k => k.2.runs.any (fun r => mine r.iss)
      || ((k.2.wst.map (fun w => mine w.run.iss)).getD false) || k.2.recls.any (fun r => !r.stopped && mine r.iss))

/-- Complete a launch that is over: its completion record is due, its reservations are released (R16, R51). A launch that
has failed or been aborted waits for the transfers its nodes have left in flight (R64). -/
def State.settle (s : State) (no : Nat) : State :=
  match s.launch? no with
  | none => s
  | some l =>
    if l.over && !((l.failed || l.aborted) && s.inFlight no) then
      let c : Cpl := ⟨l.tag, l.no, l.status, min 0xFFFF (l.nodes.filter (·.demoted)).length, 0, s.time, l.sub, false⟩
      let s := { s with launches := s.launches.filter (fun m => m.no != no) }
      match s.queue? l.q with
      | some q => s.setQueue { q with cpls := q.cpls ++ [c] }
      | none => s
    else s

/-- Nodes that have not been dispatched never are (R402). -/
def dropUndispatched (ns : List Node) : List Node :=
  ns.map (fun n => if n.st == .running || n.st == .done then n else { n with st := .dead })

/-- The records of failures that are due in the node's other strands, `sid` excepted, at the point where it fails: with
no handler each is unhandled too, and counts as a fault at once with the first (R402; log entry 135). -/
def State.lastRecords (s : State) (g : GangId) (sid : Nat) : State :=
  (s.all.filter (fun t => sameNode t.gang g && t.id != sid && t.handler.isNone
      && ((s.ctx? t.ctx).bind (·.handler)).isNone)).foldl
    (fun u t => match t.pending with
      | p :: _ => u.sendRec (u.hostOfCtx t.ctx) (t.record p.time p.flt)
      | [] => u) s

/-- A node fails: its gangs stop and are discarded, the launch's other nodes that are not dispatched never are, and the
launch ends when those dispatched have completed (R402). -/
def State.endNode (s : State) (g : GangId) : State :=
  let s := s.discardNode g
  match s.launch? g.launch with
  | none => s
  | some l =>
    let ns := match l.nodes[g.node]? with
      | some n => l.nodes.set g.node { n with st := .dead }
      | none => l.nodes
    (s.setLaunch { l with nodes := dropUndispatched ns, failed := true }).settle g.launch

/-- A node fails by a fault of strand `sid`: failures due in its other strands are recorded too (R402). -/
def State.failNode (s : State) (g : GangId) (sid : Nat) : State := (s.lastRecords g sid).endNode g

/-- Nodes whose predecessors have all completed become ready (R61). -/
def readyNodes (ns : List Node) : List Node :=
  ns.map (fun n =>
    if n.st == .waiting && n.r.preds.all (fun p => (ns[p]?.map (fun m => m.st == .done)).getD false)
    then { n with st := .ready } else n)

def heldEntries (ns : List Node) : Nat := (ns.filter (fun n => n.st == .pooled || n.st == .running)).length

/-- Ready nodes enter the pool in index order while their launch holds fewer entries than POOLRES (R61). -/
def enterPool (res : Nat) : Nat → List Node → List Node
  | _, [] => []
  | held, n :: ns =>
    if n.st == .ready && held < res then { n with st := .pooled } :: enterPool res (held + 1) ns
    else n :: enterPool res held ns

def Launch.advance (l : Launch) : Launch :=
  let ns := readyNodes l.nodes
  { l with nodes := enterPool l.poolres (heldEntries ns) ns }

/-- A node completes (R64): its tags go, successors become ready, and the launch may complete. -/
def State.nodeDone (s : State) (g : GangId) : State :=
  let s := s.discardNode g
  match s.launch? g.launch with
  | none => s
  | some l =>
    match l.nodes[g.node]? with
    | none => s
    | some n =>
      let l := { l with nodes := l.nodes.set g.node { n with st := .done } }
      let l := if l.failed || l.aborted then { l with nodes := dropUndispatched l.nodes } else l.advance
      (s.setLaunch l).settle g.launch

/-! ### Failures of engine transfers -/

/-- A failure or trap becomes pending against the strand that issued the transfer, with TIME at detection (R395, R410,
R445). After EXIT it is unhandled (R402); of a strand that its node's end has discarded nothing is reported (R68). With
no strand it goes to the host of the launch's queue and the node fails (R430). -/
def State.pend (s : State) (i : Issuer) (f : Flt) (op : Nat) : State :=
  match i.sid with
  | some sid =>
    match s.strand? sid with
    | some _ => s.modStrand sid (fun t => { t with pending := t.pending ++ [⟨f, op, s.time⟩] })
    | none =>
      match s.node? i.gang.launch i.gang.node with
      | none => s
      | some n =>
        if n.st = .running then
          (s.sendRec (s.hostOfCtx i.ctx) ⟨f, 0, nodeIdOf i.gang, i.linidx, i.ctx, s.time, 0#64⟩).failNode i.gang sid
        else s.settle i.gang.launch
  | none =>
    match s.launch? i.gang.launch with
    | none => s
    | some l =>
      (s.sendRec (s.hostOfQueue l.q) (plainRec s.time i.ctx (nodeIdOf i.gang) { f with info1 := 0#64 })).failNode i.gang 0

/-! ### The interlock table (R112) -/

/-- What a byte is compared by (R72, R112): its virtual address, or its location in a scratchpad, which lies above. -/
def Byt.key (b : Byt) : Nat := if b.addr < 2 ^ 56 then b.addr else b.loc

def blockOf (b : Byt) : Nat := b.key / 64

/-- The entry of one direction of a transfer: one range of blocks from the lowest to the highest (log entry 137); none when
it touches no byte. -/
def entryOf (sid op : Nat) (write : Bool) (bs : List Byt) : Option Entry :=
  match bs with
  | [] => none
  | b :: rest =>
    let k := blockOf b
    some ⟨sid, op, write, rest.foldl (fun m c => min m (blockOf c)) k, rest.foldl (fun m c => max m (blockOf c)) k,
      false, false⟩

/-- Is a copy's destination nest dense and ascending (R280). -/
def denseNest (run : Nat) : Nat → List (Nat × Int × Int) → Bool
  | _, [] => true
  | w, (n, _, d) :: ls => (n ≤ 1 || d == (w : Int)) && denseNest run (w * n) ls

/-- The key of a generic address, for a party on a core. -/
def keyOf (core a : Nat) : Nat := (padOf core a).getD a

/-- The key of the first byte of a copy's destination that its write pointer has not passed. -/
def Copy.front (p : Copy) : Nat :=
  let a := p.dstView.addrOf p.dst
  keyOf p.iss.core a + (p.dstView.addrOf (p.dst + p.wp) - a)

/-- Has the write pointer of the copy that holds a write entry passed these keys (R112). -/
def passed (c : Core) (e : Entry) (ks : List Nat) : Bool :=
  match c.copies.find? (fun p => p.op == e.op) with
  | some p => denseNest p.run p.run p.levels && ks.all (fun k => decide (k < p.front))
  | none => false

/-- Must an access of the strand wait for its own transfers (R112). -/
def State.conflicts (s : State) (bs : List Byt) (write : Bool) : Bool :=
  let c := s.core s.me.core
  c.entries.any (fun e => e.sid == s.me.id && !e.free && (e.write || write)
    && bs.any (fun b => e.lo ≤ blockOf b && blockOf b ≤ e.hi)
    && !(e.write && passed c e (bs.map Byt.key)))

/-- Are `n` entries of the strand's home core free (R112). -/
def State.entryRoom (s : State) (n : Nat) : Bool := (s.core s.me.core).entries.length + n ≤ 32

def State.addEntries (s : State) (es : List Entry) : State :=
  let c := s.core s.me.core
  s.setCore s.me.core { c with entries := c.entries ++ es }

/-- The entries of a transfer retire. -/
def State.retireOp (s : State) (core op : Nat) : State :=
  let c := s.core core
  s.setCore core { c with entries := c.entries.filter (fun e => e.op != op) }

/-- The strand's transfers not yet performed, its reclamations apart. -/
def State.engineOut (s : State) : Bool :=
  let sid := some s.me.id
  (s.core s.me.core).copies.any (fun c => c.iss.sid == sid) || s.fabs.any (fun f => f.iss.sid == sid)
    || ((s.cluster s.me.cluster).runs.any (fun r => r.iss.sid == sid))
    || (match (s.cluster s.me.cluster).wst with | some w => w.run.iss.sid == sid | none => false)
    || s.me.mqueue.any (fun e => e.op != 0)

/-- The strand's transfers not yet performed, for a later release or FENCE (R111). -/
def State.transfersOut (s : State) : Bool :=
  s.engineOut || (s.cluster s.me.cluster).recls.any (fun r => !r.stopped && r.iss.sid == some s.me.id)

/-- Run-ahead groups loaded from a written location become stale (R115, R237). -/
def staleBy (locs : List Nat) (q : Stream) : Stream :=
  { q with groups := q.groups.map (fun g => if g.locs.any (fun a => locs.contains a) then { g with stale := true } else g) }

def Strand.staleAll (st : Strand) : Strand :=
  { st with stream := st.stream.map (fun q => { q with groups := q.groups.map (fun g => { g with stale := true }) }) }

/-- The bytes that a strand or its transfer writes make overlapping run-ahead groups stale. -/
def Strand.staleBytes (st : Strand) (bs : List Byt) : Strand :=
  match st.stream with
  | none => st
  | some q => { st with stream := some (staleBy (bs.map (·.loc)) q) }

/-- The same for the strand that issued a transfer. -/
def State.staleFor (s : State) (sid : Option Nat) (bs : List Byt) : State :=
  match sid with
  | some i => s.modStrand i (fun t => t.staleBytes bs)
  | none => s

/-! ### Barrier objects (R272 to R274) -/

/-- Does a range named by a generic address in an x register lie where R272 allows: the strand's own local scratch, or
a scratchpad allocation of a gang of its node. -/
def placeOk (s : State) (core : Nat) (g : GangId) (a n : Nat) : Bool :=
  match apertureOf a with
  | some .scratch => bitsOf a 17 0 + n ≤ 2 ^ 18
  | some .own => (s.cluster (clusterOf core)).allocs.any
      (fun l => sameNode l.gang g && l.off ≤ bitsOf a 22 0 && bitsOf a 22 0 + n ≤ l.off + l.len)
  | some .cluster => (s.cluster (dieOf core * 16 + bitsOf a 55 48)).allocs.any
      (fun l => sameNode l.gang g && l.off ≤ bitsOf a 22 0 && bitsOf a 22 0 + n ≤ l.off + l.len)
  | _ => false

def locOf (core a : Nat) : Nat := (padOf core a).getD 0

/-- The fields of a barrier object's 128 bits (R273). -/
structure Bar where
  rest : Nat
  scope : Nat
  phase : Nat
  acnt : Nat
  arrv : Nat
  pend : Nat
  deriving DecidableEq, Repr

def barOf (v : Nat) : Bar := ⟨bitsOf v 127 68, bitsOf v 67 65, bitsOf v 64 64, bitsOf v 63 48, bitsOf v 47 32, bitsOf v 31 0⟩

def Bar.nat (b : Bar) : Nat :=
  b.pend + 2 ^ 32 * b.arrv + 2 ^ 48 * b.acnt + 2 ^ 64 * b.phase + 2 ^ 65 * b.scope + 2 ^ 68 * b.rest

/-- check() of R274. -/
def Bar.check (b : Bar) : Bar :=
  if b.arrv = 0 ∧ b.pend = 0 then { b with phase := (b.phase + 1) % 2, arrv := b.acnt } else b

/-- One arrival; `none` when ARRV is 0 (R274). -/
def Bar.arrive (b : Bar) : Option Bar := if b.arrv = 0 then none else some { b with arrv := b.arrv - 1 }.check

/-- A byte signal; one above PEND sets it to 0 and is out of range (R274, R421). -/
def Bar.bytes (b : Bar) (n : Nat) : Bar × Bool := ({ b with pend := b.pend - n }.check, b.pend < n)

def State.barAt (s : State) (core a : Nat) : Bar := barOf (ofLE (s.readP (locOf core a) 16))
def State.setBar (s : State) (core a : Nat) (b : Bar) : State := s.writeP (locOf core a) (toLE 16 b.nat)

/-- The bytes of an object for the interlock table and for its read. -/
def objByts (core a : Nat) : List Byt := (List.range 16).map (fun i => padByt (a + i) (locOf core a + i))

/-- An engine writes an object: a write that the issuing strand's transfer makes (R115). -/
def State.engineBar (s : State) (i : Issuer) (a : Nat) (b : Bar) : State :=
  (s.setBar i.core a b).staleFor i.sid (objByts i.core a)

/-- Why an object cannot be signalled, if it cannot be read: cause 12 or 13 (R412, R414). -/
def State.barCause (s : State) (core a : Nat) : Option Nat :=
  if s.readable (locOf core a) 16 then none else some (8 + badDetail (padByt a (locOf core a)))

/-- An object that cannot be read: the transfer that signals it fails with cause 12 or 13 (R414), as class `rep.1` with
FINFO2 `rep.2`; otherwise `k` goes on. -/
def State.onBar (s : State) (i : Issuer) (a op : Nat) (rep : Nat × Word) (k : Bar → State) : State :=
  match s.barCause i.core a with
  | none => k (s.barAt i.core a)
  | some cause => s.pend i ⟨rep.1, cause, BitVec.ofNat 64 a, i.iaddr, rep.2⟩ op

/-- An engine's arrival (R274); with ARRV 0 it is discarded and class 0x55 is raised (R421). -/
def State.engineArrive (s : State) (i : Issuer) (a op : Nat) (rep : Nat × Word) : State :=
  s.onBar i a op rep fun o =>
    match o.arrive with
    | some b => s.engineBar i a b
    | none => s.pend i ⟨0x55, 1, BitVec.ofNat 64 a, i.iaddr, 1#64⟩ op

/-- An engine's byte signal (R274, R421). -/
def State.engineBytes (s : State) (i : Issuer) (a n op : Nat) (rep : Nat × Word) : State :=
  s.onBar i a op rep fun o =>
    let r := o.bytes n
    let s := s.engineBar i a r.1
    if r.2 then s.pend i ⟨0x55, 0, BitVec.ofNat 64 a, i.iaddr, BitVec.ofNat 64 n⟩ op else s

def State.signalTo (s : State) (i : Issuer) (bar : Option Nat) (op : Nat) (rep : Nat × Word) : State :=
  match bar with
  | some a => s.engineArrive i a op rep
  | none => s

/-! ### Buffer handles (R277, R278) -/

def Cluster.buf? (k : Cluster) (h : Nat) : Option Buf := k.bufs.find? (fun b => b.h == h)
def Cluster.setBuf (k : Cluster) (b : Buf) : Cluster := { k with bufs := b :: k.bufs.filter (fun c => c.h != b.h) }

def State.setBufState (s : State) (k h st : Nat) : State :=
  match (s.cluster k).buf? h with
  | some b => s.setCluster k ((s.cluster k).setBuf { b with st := st })
  | none => s

/-- The state word of BUFSTAT (R277). -/
def bufWord (b : Option Buf) : Word :=
  match b with
  | some b => BitVec.ofNat 64 (2 ^ 63 + b.st * 2 ^ 58 + b.len * 2 ^ 32 + b.off)
  | none => 0#64

/-! ### Minting (R339) -/

def Bind.minted (b : Bind) : Bound := ⟨b.base, b.base, b.len, b.perm⟩

/-- The bound registers of a strand that starts at `entry` in an object: MINT entries, the EX entry with ADDR the entry
point, zero elsewhere (R20, R339). -/
def mintAll (o : Obj) (entry : Word) : Vector Bound 16 :=
  vecOf 16 (fun i =>
    match o.binds.find? (fun b => b.mint.map (·.val) == some i) with
    | some b => if b.perm.getLsbD useEX then { b.minted with addr := entry } else b.minted
    | none => Bound.zero)

/-- The register CODEB names: that of the EX entry (R79, R339); b0 where that entry names none (log entry 117). -/
def codebOf (o : Obj) : BRegNo :=
  match o.binds.find? (fun b => b.perm.getLsbD useEX) with
  | some b => b.mint.getD 0
  | none => 0

/-- Bound register `i` of an exchange or walker node: entry `i` of the first code object (R304, R325, R339). -/
def nodeBound (s : State) (cx i : Nat) : Bound :=
  match (s.ctx? cx).bind (fun c => c.objs[0]?) with
  | some o => match o.binds[i]? with
    | some b => b.minted
    | none => Bound.zero
  | none => Bound.zero

end Sys2Proof.Machine
end

