-- ==== Sys2Proof/Machine/Tensor.lean ====
section
/-! DEFINITION. What engines share: reads and writes of a transfer already admitted (R78, R417), and tensor descriptors
(R96 to R98, R296). -/

namespace Sys2Proof.Machine

def Issuer.who (i : Issuer) : Who := ⟨i.ctx, i.core, i.iaddr, i.sid⟩

/-- A read of a transfer, already admitted: its bytes, or the cause of R412 with the failing address. It touches a
reservation of the strand that issued it (R215). -/
def engRead (s : State) (w : Who) (b : Bound) (e : Int) (n : Nat) : Except (Nat × Nat) (List Byte × State) :=
  match resolve w .read (b.view ≠ 0) (b.addrs e n) s none [] with
  | .error (d, _, a) => .error (d, a)
  | .ok (bs, s) =>
    match (if s.bad.isEmpty then none else bs.find? (fun b => s.bad.contains b.loc)) with
    | some b => .error (8 + badDetail b, b.addr)
    | none => .ok (bs.map (fun b => Memory.get s.mem b.loc), s.touch w.sid (bs.map (·.loc)))

/-- A write of a transfer, already admitted: the bytes before a failing one are performed (R417); the failure carries
the cause of R412 and the address. -/
def engWrite (s : State) (w : Who) (sid : Option Nat) (b : Bound) (e : Int) (vs : List Byte) :
    State × Option (Nat × Nat) :=
  match resolve w .write (b.view ≠ 0) (b.addrs e vs.length) s none [] with
  | .error (d, _, a) => (s, some (d, a))
  | .ok (bs, s) =>
    let ok := bs.takeWhile (fun b => !s.wbad.contains b.loc)
    let s := (s.pokeByts ok vs).staleFor sid ok
    match bs.drop ok.length with
    | [] => (s, none)
    | f :: _ => (s, some (16, f.addr))

/-- Writes of a transfer one after another, up to the first that fails. -/
def engWrites (w : Who) (sid : Option Nat) (b : Bound) : State → List (Int × List Byte) → State × Option (Nat × Nat)
  | s, [] => (s, none)
  | s, (e, vs) :: rest =>
    match engWrite s w sid b e vs with
    | (s, none) => engWrites w sid b s rest
    | r => r

/-- Reads of a transfer one after another. -/
def engReads (w : Who) (b : Bound) : State → List (Int × Nat) → Except (Nat × Nat) (List Byte × State)
  | s, [] => .ok ([], s)
  | s, (e, n) :: rest =>
    match engRead s w b e n with
    | .error x => .error x
    | .ok (bs, s) =>
      match engReads w b s rest with
      | .error x => .error x
      | .ok (cs, s) => .ok (bs ++ cs, s)

/-- The bytes that the pieces of a transfer touch, checked at issue against a bound (R78): the lowest refused byte is
reported. -/
def admission (w : Who) (b : Bound) (bno use : Nat) (pieces : List (Int × Nat)) : Option Flt :=
  let bad := pieces.filterMap (fun p => b.refuses use p.1 p.2)
  match bad with
  | [] => none
  | x :: xs =>
    let low := xs.foldl (fun (m : Nat × Nat) y => if y.2 < m.2 then y else m) x
    some ⟨0x40, low.1, BitVec.ofNat 64 low.2, accessWord 0 bno use 0, w.iaddr⟩

/-- The footprint of admitted pieces for the interlock table: only the end bytes of each piece are kept (R112). -/
def footprint (core : Nat) (b : Bound) (pieces : List (Int × Nat)) : List Byt :=
  (pieces.filter (fun p => 0 < p.2)).flatMap (fun p =>
    [b.addrOf p.1, b.addrOf (p.1 + p.2 - 1)].map (fun a => padByt a ((padOf core a).getD 0)))

/-! ### Tensor descriptors -/

/-- A tensor descriptor (R96). -/
structure Tensor where
  fmt : Nat
  etype : Nat
  rank : Nat
  ncomp : Nat
  flags : Nat
  blk : Nat
  addr : Nat
  paddr : Nat
  gshape : List Nat
  tile : List Nat
  super : List Nat
  nshard : List Nat
  ownFirst : Nat
  ownCount : Nat
  shPitch : Nat
  rsv : Bool
  deriving DecidableEq, Repr

def quad (bs : List Byte) (off n : Nat) : List Nat := (List.range 4).map (fun i => field bs (off + n * i) n)

/-- Read the 128 bytes of a descriptor; `rsv` says that a reserved byte is non-zero. -/
def tensorOf (bs : List Byte) : Tensor :=
  ⟨field bs 0 4, field bs 4 1, field bs 5 1, field bs 6 1, field bs 7 1, field bs 8 1, field bs 0x10 8, field bs 0x18 8,
    quad bs 0x20 4, quad bs 0x30 4, quad bs 0x40 4, quad bs 0x50 2, field bs 0x58 4, field bs 0x5C 4, field bs 0x60 8,
    !(zeroIn bs 9 7 && zeroIn bs 0x68 24)⟩

def Tensor.ty (t : Tensor) : ETy := (etyOf t.etype).getD .f32
def Tensor.valid (t : Tensor) : Bool := bitsOf t.flags 7 7 = 1
def Tensor.paired (t : Tensor) : Bool := t.flags % 2 = 1
def prod (l : List Nat) : Nat := l.foldl (· * ·) 1

/-- Bits of an element: NCOMP × sb (R98). -/
def Tensor.eb (t : Tensor) : Nat := t.ncomp * sbits t.ty

def Tensor.dims (t : Tensor) (l : List Nat) : List Nat := l.take t.rank

/-- Shard extents (R98). -/
def Tensor.ext (t : Tensor) : List Nat :=
  List.zipWith (fun g n => ceilDiv g n) (t.dims t.gshape) (t.dims t.nshard)

/-- Super-tiles per shard, by dimension (R98). -/
def Tensor.nu (t : Tensor) : List Nat :=
  List.zipWith (fun e ts => ceilDiv (ceilDiv e ts.1) ts.2) t.ext ((t.dims t.tile).zip (t.dims t.super))

/-- The tile stride: the tile size rounded up to a multiple of 64 (R98). -/
def Tensor.ts (t : Tensor) : Nat :=
  let n := prod (t.dims t.tile)
  ceil64 (ceilDiv (n * t.eb) 8 + (if isBlock t.ty then n / blkLen t.blk else 0))

def Tensor.shardSize (t : Tensor) : Nat := prod t.nu * prod (t.dims t.super) * t.ts
def Tensor.nl (t : Tensor) : Nat := prod (t.dims t.nshard)

/-- linear() of R98: the last dimension is fastest. -/
def linear (idx dims : List Nat) : Nat := (idx.zip dims).foldl (fun a p => a * p.2 + p.1) 0

/-- The shard of a global index, and the bit offset of its element within that shard (R98). -/
def Tensor.place (t : Tensor) (g : List Nat) : Nat × Nat :=
  let e := t.ext
  let tile := t.dims t.tile
  let sup := t.dims t.super
  let s := List.zipWith (· / ·) g e
  let l := List.zipWith (· % ·) g e
  let tt := List.zipWith (· / ·) l tile
  let el := List.zipWith (· % ·) l tile
  let u := List.zipWith (· / ·) tt sup
  let w := List.zipWith (· % ·) tt sup
  (linear s (t.dims t.nshard), (linear u t.nu * prod sup + linear w sup) * t.ts * 8 + linear el tile * t.eb)

/-- td_offset of R98 in bytes, for an element of whole bytes; `none` when this module does not hold the shard. -/
def Tensor.offset (t : Tensor) (g : List Nat) : Option Nat :=
  let p := t.place g
  if t.ownFirst ≤ p.1 ∧ p.1 < t.ownFirst + t.ownCount then some ((p.1 - t.ownFirst) * t.shPitch + p.2 / 8) else none

/-- The descriptor of the transposed copy: extents, tiles and super-tiles of the two dimensions exchanged (R91). -/
def Tensor.flip (t : Tensor) : Tensor :=
  let sw (l : List Nat) : List Nat := [l.getD 1 0, l.getD 0 0, 0, 0]
  { t with addr := t.paddr, gshape := sw t.gshape, tile := sw t.tile, super := sw t.super, nshard := [1, 1, 0, 0] }

/-- The eight conditions of R97, in their order. -/
def Tensor.conds (t : Tensor) : List Bool :=
  let low := t.dims
  let high (l : List Nat) : List Nat := l.drop t.rank
  [t.fmt = 0x00040004 && t.etype ≤ 22 && 1 ≤ t.ncomp && t.ncomp ≤ 16 && bitsOf t.flags 6 1 = 0 && !t.rsv,
   1 ≤ t.rank && t.rank ≤ 4,
   [t.gshape, t.tile, t.super, t.nshard].all (fun l => (low l).all (1 ≤ ·) && (high l).all (· = 0))
     && (List.zipWith (fun n g => decide (n ≤ g)) (low t.nshard) (low t.gshape)).all id,
   (List.zipWith (fun n g => decide ((n - 1) * ceilDiv g n < g)) (low t.nshard) (low t.gshape)).all id,
   t.nl ≤ 65536 && 1 ≤ t.ownCount && t.ownFirst + t.ownCount ≤ t.nl,
   if isBlock t.ty then blkLen t.blk ≠ 0 && t.blk ≤ 3 && t.tile.getD (t.rank - 1) 0 % blkLen t.blk = 0 else t.blk = 0,
   if t.paired then t.rank = 2 && low t.nshard = [1, 1] else t.paddr = 0,
   t.shardSize ≤ t.shPitch || t.ownCount = 1]

/-- Position, 1 to 8, of the first condition that fails, or 0 (R295). -/
def Tensor.firstFail (t : Tensor) : Nat :=
  match t.conds.findIdx? (· == false) with
  | some i => i + 1
  | none => 0

/-- first(m) of R296. -/
def firstShard (nl m mm : Nat) : Nat := m * nl / mm

/-- The rank that owns a shard in a group of `mm` (R296). -/
def rankOf (nl mm sh : Nat) : Nat :=
  ((List.range mm).find? (fun m => firstShard nl m mm ≤ sh && sh < firstShard nl (m + 1) mm)).getD 0

end Sys2Proof.Machine
end

