-- ==== Sys2Proof/Machine/MatrixRun.lean ====
section
/-! DEFINITION. The matrix array: what each queued instruction does to tiles, planes, vector registers and memory when
it executes (R256 to R268, R136, R140, R151, R419). -/

namespace Sys2Proof.Machine

/-- K(T) of R258. -/
def depthOf : ETy → Nat
  | .f32 => 64 | .bf16 | .f16 | .i16 => 128 | .e5m2 | .e4m3 | .e3m2 | .e2m3 | .i8 | .n8 => 256
  | .e2m1 | .i4 | .n4 => 512 | .b8 => 192 | .b4 => 384 | .t2 => 1024 | _ => 64

/-- The accumulator type of a format (R258). -/
def accTyOf (t : ETy) : AccTy := if isMatInt t then .i32 else .f32

/-- The type MWRROW gives a tile that has none (R259). -/
def rowTyOf (t : ETy) : AccTy := if isIntTy t then .i32 else .f32

def accEty : AccTy → ETy
  | .i32 => .i32
  | _ => .f32

/-- A tile's cells in row order, as codes; a tile of type none reads +0 (R259). -/
def Tile.codes (t : Tile) : List Nat :=
  if t.ty = .none then List.replicate 4096 0 else (List.range 4096).map (fun i => elem 32 t.bits.toNat i)

def Tile.ofCodes (ty : AccTy) (cs : List Nat) : Tile := ⟨BitVec.ofNat 131072 (pack 32 cs), ty⟩

/-- The integer that an exact value is; used for the i32 accumulator (R136). -/
def intOfVal : Val → Int
  | .fin q => q.num * 2 ^ q.exp.toNat / (q.den : Int)
  | _ => 0

/-- fused_dot into an accumulator cell (R136, R141): one rounding for f32; for i32, wrap, or clamp once under sat. -/
def fusedCell (ty : AccTy) (cell : Nat) (ps : List (Val × Val)) (ev : Ev) (rm : Rnd) (sat : Bool) : Nat × Ev :=
  match ty with
  | .i32 =>
    let r := deliverInt .i32 (intVal .i32 cell + (ps.map (fun p => intOfVal p.1 * intOfVal p.2)).sum) sat
    (r.1, r.2 ||| ev)
  | _ =>
    let r := deliver .f32 (fusedSum (decodeVal .f32 cell) ps) rm sat 0
    (r.1, r.2 ||| ev)

/-- An array operand: K(T) elements of an image, with the events of codes that have no value (R258, R441). -/
def operand (t : ETy) (l img : Nat) : Array (Val × Ev) :=
  ((List.range (depthOf t)).map (imgVal t l (depthOf t) img)).toArray

def atOp (a : Array (Val × Ev)) (i : Nat) : Val × Ev := a.getD i (.zero .pos, 0#7)

/-- The plane as P[κ][c]: column record c is a vector image of K(T) elements (R262). The bytes are read under the
instruction's T, also where a failed load has left the plane with another format (R419, log entry 12). -/
def planeCols (p : Plane) (t : ETy) : Array (Array (Val × Ev)) :=
  ((List.range 64).map (fun c => operand t (blkLen p.blk) ((p.bits.toNat >>> (2048 * c)) % 2 ^ 2048))).toArray

def atPlane (p : Array (Array (Val × Ev))) (k c : Nat) : Val × Ev := atOp (p.getD c #[]) k

def negVal (b : Bool) (v : Val) : Val := if b then vneg v else v

/-- One dot product into a cell: `n` pairs of operands. -/
def dotCell (ty : AccTy) (rm : Rnd) (sat : Bool) (cell n : Nat) (u v : Nat → Val × Ev) : Nat × Ev :=
  let ks := List.range n
  fusedCell ty cell (ks.map (fun k => ((u k).1, (v k).1)))
    (ks.foldl (fun e k => e ||| (u k).2 ||| (v k).2) 0#7) rm sat

/-- Update cells of a tile: `g i cell` gives the new code of cell `i` and its events, or none to leave it. -/
def updCells (cs : List Nat) (g : Nat → Nat → Option (Nat × Ev)) : List Nat × Evs :=
  let rs := cs.zipIdx.map (fun p => match g p.2 p.1 with
    | some r => (r.1, p.2, r.2)
    | none => (p.1, p.2, 0#7))
  (rs.map (·.1), (rs.filter (fun r => r.2.2 ≠ 0#7)).map (fun r => (r.2.1, r.2.2)))

/-- c·u of R151, exact; a NaN stays as it is so that R130 counts it once. -/
def scaleC (neg : Bool) (c : BitVec 32) (u : Val) : Val :=
  if isNan u then u else (exactMul (negVal neg (decodeVal .f32 c.toNat)) u).1

/-- A matrix algebra instruction (R151, R265): entries in table order, then every destination tuple. `X r κ p` and
`Y κ j q` give the operands' components, `rows` says which rows are updated. -/
def algebraCells (t : AlgTable) (neg cjg opp : Bool) (rm : Rnd) (sat : Bool) (depth : Nat) (rows : Nat → Bool)
    (x : Nat → Nat → Nat → Val × Ev) (y : Nat → Nat → Nat → Val × Ev) (cs : List Nat) : List Nat × Evs :=
  let n := t.dim
  let yc (k j q : Nat) : Val × Ev := (negVal (cjg && t.conj.getLsbD q) (y k j q).1, (y k j q).2)
  t.ents.foldl (fun acc e =>
    let r := updCells acc.1 (fun i cell =>
      let row := i / 64
      let col := i % 64
      let j := col / n
      if rows row && col < 64 / n * n && col % n = e.k then
        let u (k : Nat) : Val × Ev := if opp then yc k j e.p else x row k e.p
        let v (k : Nat) : Val × Ev := if opp then x row k e.q else yc k j e.q
        some (dotCell .f32 rm sat cell depth (fun k => (scaleC neg e.c (u k).1, (u k).2)) v)
      else none)
    (r.1, acc.2 ++ r.2)) (cs, [])

/-- Raise a queued instruction's events at its completion; an enabled one makes a trap pending (R257, R445). -/
def finishEntry (s : State) (e : MEntry) (evs : Evs) : State :=
  let s := s.setMe (s.me.raiseAt e.iaddr e.seq evs)
  let ten := e.fstat.extractLsb' 16 7
  match trapOf ten e.iaddr ((firstEnabled ten evs).getD 0) (evUnion evs) with
  | some f => s.pend { s.issuer with iaddr := e.iaddr, seq := e.seq } f e.op
  | none => s

def setTile (s : State) (d : AccNo) (t : Tile) : State := s.setMe { s.me with acc := s.me.acc.set d t }

/-- MOPA, MOPS (R263, R265). -/
def runOuter (s : State) (e : MEntry) (d : AccNo) (m : PMod) (neg : Bool) : State :=
  let t := m.ty
  let kk := depthOf t
  let k := kk / 64
  let a := operand t e.blk e.va
  let b := operand t e.blk e.vb
  let tile := s.me.acc[d]
  let ty := accTyOf t
  let rm := rndUnder e.fstat m.rnd
  let r := match e.table with
    | some tb =>
      algebraCells tb neg m.cjg m.opp rm m.sat 1 (fun r => r < min 64 (kk / tb.dim))
        (fun r _ p => atOp a (r * tb.dim + p)) (fun _ j q => atOp b (j * tb.dim + q)) tile.codes
    | none =>
      updCells tile.codes (fun i cell =>
        let u (q : Nat) : Val × Ev := (negVal neg (atOp a (i / 64 * k + q)).1, (atOp a (i / 64 * k + q)).2)
        some (dotCell ty rm m.sat cell k u (fun q => atOp b (i % 64 * k + q))))
  finishEntry (setTile s d (Tile.ofCodes ty r.1)) e r.2

/-- MSTRM (R264, R265). -/
def runStream (s : State) (e : MEntry) (d : AccNo) (m : PMod) : State :=
  let t := m.ty
  let kk := depthOf t
  let a := operand t e.blk e.va
  let p := planeCols s.me.active t
  let tile := s.me.acc[d]
  let ty := accTyOf t
  let rm := rndUnder e.fstat m.rnd
  let r := match e.table with
    | some tb =>
      let n := tb.dim
      algebraCells tb false m.cjg m.opp rm m.sat (if m.trn then 64 / n else kk / n) (fun r => r == e.row)
        (fun _ κ c => atOp a (κ * n + c))
        (fun κ j q => if m.trn then atPlane p j (κ * n + q) else atPlane p κ (j * n + q)) tile.codes
    | none =>
      updCells tile.codes (fun i cell =>
        if i / 64 = e.row then
          some (if m.trn then dotCell ty rm m.sat cell 64 (atOp a) (fun κ => atPlane p (i % 64) κ)
            else dotCell ty rm m.sat cell kk (atOp a) (fun κ => atPlane p κ (i % 64)))
        else none)
  finishEntry (setTile s d (Tile.ofCodes ty r.1)) e r.2

/-- The draws of a queued instruction that converts cells, with RNGKEY and RNGCTR as they stood at commit (R257), which `vb` holds. -/
def entryDraw (e : MEntry) (i : Nat) : Draw := drawOf (e.vb / 2 ^ 64) (e.vb % 2 ^ 64 + i) 0

/-- MRDROW (R266). -/
def runRdRow (s : State) (e : MEntry) (d : VRegNo) (a : AccNo) (m : FMod) : State :=
  if e.vl = 0 then s
  else
    let tile := s.me.acc[a]
    let rm := rndUnder e.fstat m.rnd
    let rs := (List.range e.vl).map (fun c =>
      if c < 64 then
        deliver m.ty (converted (decodeVal (accEty tile.ty) (tile.codes.getD (64 * e.row + c) 0), 0#7)) rm m.sat
          (entryDraw e c)
      else (0, 0#7))
    let evs := (rs.zipIdx.filter (fun r => r.1.2 ≠ 0#7)).map (fun r => (64 * e.row + r.2, r.1.2))
    finishEntry (s.setMe (s.me.setV d ((s.me.getV d).full m.ty 0 (rs.map (·.1)) []))) e evs

/-- MWRROW (R266). -/
def runWrRow (s : State) (e : MEntry) (d : AccNo) (m : FMod) : State :=
  if e.vl = 0 then s
  else
    let tile := s.me.acc[d]
    let ty := if tile.ty = .none then rowTyOf m.ty else tile.ty
    let rm := rndUnder e.fstat m.rnd
    let r := updCells tile.codes (fun i _ =>
      if i / 64 = e.row ∧ i % 64 < min e.vl 64 then
        some (deliver (accEty ty) (converted (imgVal m.ty e.blk e.vl e.va (i % 64))) rm m.sat (entryDraw e (i % 64)))
      else none)
    finishEntry (setTile s d (Tile.ofCodes ty r.1)) e r.2

/-- writeback of every cell of a tile (R140, R267): codes and events, in row order. -/
def writebacks (s : State) (e : MEntry) (b : AccNo) (m : FMod) : List Nat × Evs :=
  let tile := s.me.acc[b]
  let rm := rndUnder e.fstat m.rnd
  let sc := decodeVal .f64 e.scale
  updCells tile.codes (fun i cell =>
    some (deliver m.ty (exactMul (decodeVal (accEty tile.ty) cell) sc) rm m.sat (entryDraw e i)))

def setLatch (st : Strand) (d : AccNo) (a : AccTy) : Strand := { st with commitAcc := st.commitAcc.set d a }

/-- The types and formats the scalar unit tracks, after an instruction (R259, R403). -/
def Strand.track (st : Strand) (i : Instr) : Strand :=
  match i with
  | .mzero d => setLatch st d .none
  | .mopa d _ _ m => setLatch st d (accTyOf m.ty)
  | .mops d _ _ m => setLatch st d (accTyOf m.ty)
  | .mstrm d _ _ m => setLatch st d (accTyOf m.ty)
  | .mwrrow d _ _ m => if st.commitAcc[d] = .none then setLatch st d (rowTyOf m.ty) else st
  | .mldacc d _ _ t => setLatch st d (if t = .i32 then .i32 else .f32)
  | .mldw _ _ t _ => { st with commitShadow := some t }
  | .mswap => { st with commitActive := st.commitShadow, commitShadow := st.commitActive }
  | _ => st

/-- The same for a queued instruction: a walker run brings its plane (R325), and a row of no elements changes nothing. -/
def Strand.trackEntry (st : Strand) (e : MEntry) : Strand :=
  match e.instr with
  | .mwrrow .. => if e.vl = 0 then st else st.track e.instr
  | .wkrun .. => { st with commitShadow := etyOf e.blk }
  | i => st.track i

/-- After a failed load the tracked types follow the latched ones and what is still queued (R403, R419). -/
def Strand.retrack (st : Strand) : Strand :=
  st.mqueue.foldl (fun t e => t.trackEntry e)
    { st with commitAcc := st.acc.map (·.ty), commitActive := st.active.fmt, commitShadow := st.shadow.fmt }

/-- A matrix transfer that failed (R419): class 0x51 becomes pending, its entries retire. -/
def failEntry (s : State) (e : MEntry) (cause addr : Nat) (info2 : Word) : State :=
  let s := s.setMe s.me.retrack
  let i := { s.issuer with iaddr := e.iaddr }
  (s.retireOp s.me.core e.op).pend i ⟨0x51, cause, BitVec.ofNat 64 addr, e.iaddr, info2⟩ e.op

def entryWho (s : State) (e : MEntry) : Who := ⟨s.me.ctx, s.me.core, e.iaddr, some s.me.id⟩

/-- Rows of a weight block as pieces: 16 KiB at E (R262). -/
def runLdw (s : State) (e : MEntry) (t : ETy) (trn : Bool) : State :=
  match engRead s (entryWho s e) e.bnd e.addr 16384 with
  | .error (c, a) => failEntry s e c a 0#64
  | .ok (bs, s) =>
    let img := ofLE bs
    let w := sbits t
    let img := if trn then
        -- row κ holds P[κ][0..63]; column record c holds P[0..K−1][c]
        pack 2048 ((List.range 64).map (fun c =>
          pack w ((List.range (depthOf t)).map (fun κ => elem w img (κ * 64 + c)))))
      else img
    let l := if isBlock t then e.blk else 0
    let s := s.setMe { s.me with shadow := ⟨BitVec.ofNat 131072 img, some t, l⟩ }
    s.retireOp s.me.core e.op

/-- MLDACC (R267). -/
def runLdAcc (s : State) (e : MEntry) (d : AccNo) (t : ETy) : State :=
  match engRead s (entryWho s e) e.bnd e.addr 16384 with
  | .error (c, a) => failEntry s e c a 0#64
  | .ok (bs, s) =>
    (setTile s d ⟨BitVec.ofNat 131072 (ofLE bs), if t = .i32 then .i32 else .f32⟩).retireOp s.me.core e.op

/-- MSTACC (R267). -/
def runStAcc (s : State) (e : MEntry) (b : AccNo) (m : FMod) : State :=
  let r := writebacks s e b m
  let n := bytesOf m.ty 0 64
  let rows := (List.range 64).map (fun i =>
    (e.addr + (i * e.pitch : Nat), toLE n (pack (sbits m.ty) ((r.1.drop (64 * i)).take 64))))
  match engWrites (entryWho s e) (some s.me.id) e.bnd s rows with
  | (s, none) => (finishEntry s e r.2).retireOp s.me.core e.op
  | (s, some (c, a)) => failEntry s e c a 0#64

/-- The elements of a STPAIR tile that lie in GSHAPE, with their values: plain and transposed places (R268). -/
def pairWrites (t : Tensor) (ti tj : Nat) (codes : List Nat) : List (Int × List Byte) × List (Int × List Byte) :=
  let w := sbytes t.ty
  let cells := (codes.zipIdx.map (fun c => (64 * ti + c.2 / 64, 64 * tj + c.2 % 64, c.1))).filter
    (fun c => c.1 < t.gshape.getD 0 0 ∧ c.2.1 < t.gshape.getD 1 0)
  (cells.map (fun c => ((t.addr + (t.offset [c.1, c.2.1]).getD 0 : Nat), toLE w c.2.2)),
   cells.map (fun c => ((t.paddr + (t.flip.offset [c.2.1, c.1]).getD 0 : Nat), toLE w c.2.2)))

/-- Translate every byte of a list of writes before any is performed (R419). -/
def translateAll (w : Who) (b : Bound) : State → List (Int × List Byte) → Except (Nat × Nat) State
  | s, [] => .ok s
  | s, (e, vs) :: rest =>
    match resolve w .write false (b.addrs e vs.length) s none [] with
    | .error (d, _, a) => .error (d, a)
    | .ok (_, s) => translateAll w b s rest

/-- STPAIR (R268, R419): both copies as one event, after every page of both has been translated. Copies that do not lie as
R91 has them are written where they lie (log entry 145). -/
def runPair (s : State) (e : MEntry) (b : AccNo) (m : FMod) : State :=
  let t := tensorOf e.desc
  let ti := e.row % 2 ^ 32
  let tj := e.row / 2 ^ 32
  let info : Nat := ti + tj % 2 ^ 31 * 2 ^ 32
  let r := writebacks s e b m
  let ws := pairWrites t ti tj r.1
  let w := entryWho s e
  match translateAll w e.bnd s ws.1 with
  | .error (c, a) => failEntry s e c a (BitVec.ofNat 64 info)
  | .ok s1 =>
    match translateAll w e.bnd s1 ws.2 with
    | .error (c, a) => failEntry s e c a (BitVec.ofNat 64 (info + 2 ^ 63))
    | .ok s1 =>
      match engWrites w (some s.me.id) e.bnd s1 ws.1 with
      | (s2, some (c, a)) => failEntry s2 e c a (BitVec.ofNat 64 info)
      | (s2, none) =>
        match engWrites w (some s.me.id) e.bnd s2 ws.2 with
        | (s3, some (c, a)) => failEntry s3 e c a (BitVec.ofNat 64 (info + 2 ^ 63))
        | (s3, none) => (finishEntry s3 e r.2).retireOp s.me.core e.op

/-- Execute one queued instruction of the strand in front. -/
def runEntry (s : State) (e : MEntry) : State :=
  match e.instr with
  | .mzero d => setTile s d Tile.zero
  | .mopa d _ _ m => runOuter s e d m false
  | .mops d _ _ m => runOuter s e d m true
  | .mldw _ _ t trn => runLdw s e t trn
  | .mswap => s.setMe { s.me with active := s.me.shadow, shadow := s.me.active }
  | .mstrm d _ _ m => runStream s e d m
  | .mrdrow d a _ m => runRdRow s e d a m
  | .mwrrow d _ _ m => runWrRow s e d m
  | .mldacc d _ _ t => runLdAcc s e d t
  | .mstacc _ _ b _ _ m => runStAcc s e b m
  | .stpair _ _ b _ _ m => runPair s e b m
  | .wkrun .. =>
    match e.img with
    | some b => s.setMe { s.me with shadow := ⟨b, (etyOf e.blk), 0⟩ }
    | none => s
  | _ => s

/-- Does an instruction count against the governor's budget (R271). -/
def governed (e : MEntry) : Bool :=
  match e.instr with
  | .mopa .. | .mops .. | .mstrm .. => true
  | _ => false

/-- A core's governor in a window of 256 cycles: another window than the one noted has no starts yet, and its budget is
the one set for it before it began (R271, R359). -/
def Core.inWindow (k : Core) (w : Nat) : Core :=
  if k.window = w then k
  else
    match k.next with
    | some (v, b) => if v ≤ w then { k with window := w, used := 0, budget := b, next := none }
      else { k with window := w, used := 0 }
    | none => { k with window := w, used := 0 }

/-- A core's governor in the current window. -/
def State.gov (s : State) (c : Nat) : Core := (s.core c).inWindow (s.cycle / 256)

/-- TIME at which the next window begins, at the rate in force. -/
def State.nextWindowAt (s : State) : Nat := s.time.toNat + (256 - s.cycle % 256) * s.rate / 10000000000

/-- The budget that a core has from the next window on. -/
def Core.nextBudget (k : Core) : Nat :=
  match k.next with
  | some (_, b) => b
  | none => k.budget

/-- B from the next window on, with the floor then in force; TIME since which B is the floor follows (R359, R363). -/
def State.setBudget (s : State) (floor : Nat) (k : Core) (b : Nat) : Core :=
  let k := k.inWindow (s.cycle / 256)
  { k with
    next := some (s.cycle / 256 + 1, b)
    floorAt := if b ≠ floor then none else if k.nextBudget = b ∧ k.floorAt.isSome then k.floorAt else some s.nextWindowAt }

/-- The array executes the head of the queue, if it can: a walker run must have delivered, and a counted instruction that
finds the window's budget spent waits, which GOVST counts once (R271). The second part says whether it has executed. -/
def State.runHead (s : State) : State × Bool :=
  match s.me.mqueue with
  | [] => (s, false)
  | e :: rest =>
    let c := s.gov s.me.core
    if e.ready = false then (s, false)
    else if governed e = false then (runEntry (s.setMe { s.me with mqueue := rest }) e, true)
    else if c.used < c.budget then
      (runEntry ((s.setCore s.me.core { c with used := c.used + 1 }).setMe { s.me with mqueue := rest }) e, true)
    else if e.held then (s, false)
    else ((s.setCore s.me.core { c with govst := c.govst + 1#64 }).setMe
      { s.me with mqueue := { e with held := true } :: rest }, false)

/-- Execute every queued instruction that can execute, in order (R35, R36). A walker run that has not delivered, and a
spent budget, hold the rest. -/
def drainQueue : Nat → State → State
  | 0, s => s
  | n + 1, s =>
    let r := s.runHead
    if r.2 then drainQueue n r.1 else r.1

def State.drain (s : State) : State := drainQueue (s.me.mqueue.length) s

end Sys2Proof.Machine
end

