-- ==== Sys2Proof/Machine/Ops.lean ====
section
/-! DEFINITION. The named operations of a strand: completing an instruction, jumping, the stacks (R210, R241), accesses
(R75, R104, R112), taking an exception and returning from it (R397 to R402), pre-emption and resumption (R40 to R46),
and the interruptible element loop (R41, R42). -/

namespace Sys2Proof.Machine

/-- Where an instruction stops short of its effect: at a fault with its saved PC, at a stall (it issues again when what
it waits for has room), or in a blocking wait (R38). -/
inductive Stop where
  | flt (f : Flt) (pc : Word) (s : State)
  | hold (s : State)
  | block (s : State)
  deriving DecidableEq, Repr

abbrev Run (α : Type) := Except Stop α
abbrev Res := Host.Outcome State Fault Refusal

/-! ### Completion -/

/-- The strand goes on at the next word; `w` is the instruction's length in words. -/
def Strand.retire (st : Strand) (w : Nat) : Strand :=
  { st with
    pc := st.pc + BitVec.ofNat 64 (8 * w)
    prev := st.pc + BitVec.ofNat 64 (8 * (w - 1))
    seq := st.seq + 1
    hold := none
    blocked := none
    blockedFor := 0 }

/-- The strand goes on at a target (R398). -/
def Strand.jump (st : Strand) (t : Word) : Strand :=
  { st with pc := t, prev := st.pc, seq := st.seq + 1, hold := none, blocked := none, blockedFor := 0 }

/-- An instruction with no effect but on its own registers is done. -/
def State.retire (s : State) (w : Nat) : State := s.setMe (s.me.retire w)
def State.jump (s : State) (t : Word) : State := s.setMe (s.me.jump t)

/-- Write an x register and go on (R189). -/
def State.writeX (s : State) (d : XReg) (v : Word) : State := s.setMe ((s.me.setX d v).retire 1)

/-- Stop at a fault, with the state as it was before the instruction (R397). -/
def State.fail {α : Type} (s : State) (f : Flt) : Run α := .error (.flt f s.me.pc s)

def State.orFail {α : Type} (s : State) (r : Except Flt α) : Run α :=
  match r with
  | .ok a => .ok a
  | .error f => s.fail f

/-- The checks of an instruction, in order (R433). -/
def State.check (s : State) (cs : List (Bool × Flt)) : Run Unit :=
  match firstFlt cs with
  | some f => s.fail f
  | none => .ok ()

/-- Stop at a fault of the current instruction when a condition holds. -/
def State.guard (s : State) (bad : Bool) (cls det i1 i2 : Nat) : Run Unit :=
  if bad then s.fail (s.me.flt cls det i1 i2) else .ok ()

/-- Complete with events (R132, R133); an enabled one is a trap, taken at the next word (R444). -/
def State.complete (s : State) (evs : Evs) : Run State :=
  let t := s.setMe ((s.me.raise evs).retire 1)
  match trapOf s.me.ten s.me.pc ((firstEnabled s.me.ten evs).getD 0) (evUnion evs) with
  | some f => .error (.flt f t.me.pc t)
  | none => .ok t

/-- Events of an interruptible instruction so far, with the lowest index of an enabled one (R444). -/
def Strand.gather (st : Strand) (evs : Evs) : Strand :=
  { st with
    evSoFar := st.evSoFar ||| evUnion evs
    evFirst := if st.evSoFar &&& st.ten &&& 63#7 ≠ 0#7 then st.evFirst else (firstEnabled st.ten evs).getD 0 }

/-- An interruptible instruction completes: ESR is 0, its trap covers all its elements (R42, R444). -/
def State.completeV (s : State) (evs : Evs) : Run State :=
  let st := s.me.gather evs
  let done := { (st.raise evs).retire 1 with
    esr := 0, resume := none, stopAt := none, evSoFar := 0#7, evFirst := 0 }
  let t := s.setMe done
  match trapOf st.ten st.pc st.evFirst st.evSoFar with
  | some f => .error (.flt f t.me.pc t)
  | none => .ok t

/-- An interruptible instruction is interrupted with elements below `esr` complete (R41). -/
def State.interrupt (s : State) (evs : Evs) (esr : Nat) (carry : Option (BitVec 128)) : State :=
  let st := s.me.gather evs
  s.setMe { st.raise evs with esr := esr, resume := carry, stopAt := none }

/-- Where this turn of an interruptible instruction over `n` elements in groups of `g` ends (R40, R41). -/
def Strand.upto (st : Strand) (g n : Nat) : Nat :=
  match st.stopAt with
  | some k => if st.esr < k / g * g && k / g * g < n then k / g * g else n
  | none => n

/-- Elements of a type in one 64-byte group. -/
def groupLen (w : Nat) : Nat := 512 / w

/-! ### Stacks (R210, R241, R399) -/

def maskWords (n : Nat) : Nat := ceilDiv n 64

/-- A spilled mask entry: its bits, lowest word first, then its count (R241). -/
def maskBytes (e : MaskEntry) : List Byte := toLE (8 * maskWords e.n) e.bits.toNat ++ toLE 8 e.n

/-- A failed spill or reload: class 0x08 with the memory class (R399). -/
def Strand.spillFlt (st : Strand) (det addr : Nat) : Flt := st.flt 0x08 det addr 0x42

/-- The depth at which a push is refused: the limit of R210 or R241, and in handler mode one less, since a handler push
that would bring the sum of both depths to the limit is refused (R400). -/
def Strand.pushLimit (st : Strand) (n : Nat) : Nat := if st.handler.isSome then n - 1 else n

/-- Push a return address (R210). -/
def State.pushRs (s : State) (v : Word) : Run State :=
  if s.me.pushLimit 4096 ≤ s.me.rbase + s.me.rdepth then s.fail (s.me.flt 0x07 0 (s.me.rbase + s.me.rdepth) 0)
  else if s.me.rstack.length < 16 then
    .ok (s.setMe { s.me with rstack := v :: s.me.rstack, rdepth := s.me.rdepth + 1 })
  else if s.writable s.me.spillRs 8 = false then s.fail (s.me.spillFlt 0 s.me.spillRs)
  else
    let t := s.writeP s.me.spillRs (toLE 8 ((s.me.rstack.getLast?.getD 0#64).toNat))
    .ok (t.setMe { t.me with
      rstack := v :: t.me.rstack.dropLast, rdepth := t.me.rdepth + 1, spillRs := t.me.spillRs + 8 })

/-- Reload the return entry below SPILLRS behind the held ones; the error is its address. -/
def State.reloadRs (s : State) : Except Nat State :=
  let a := s.me.spillRs - 8
  if s.readable a 8 then
    .ok (s.setMe { s.me with rstack := s.me.rstack ++ [BitVec.ofNat 64 (ofLE (s.readP a 8))], spillRs := a })
  else .error a

/-- Pop a return address (R210): when no entry stays held, the next is reloaded first. -/
def State.popRs (s : State) : Run (Word × State) :=
  if s.me.rdepth = 0 then s.fail (s.me.flt 0x07 1 0 0)
  else
    match (if s.me.rstack.isEmpty then s.reloadRs else .ok s) with
    | .error a => s.fail (s.me.spillFlt 1 a)
    | .ok t =>
      match (if t.me.rstack.length = 1 ∧ 1 < t.me.rdepth then t.reloadRs else .ok t) with
      | .error a => s.fail (s.me.spillFlt 1 a)
      | .ok u => .ok (u.me.rstack.headD 0#64,
          u.setMe { u.me with rstack := u.me.rstack.tail, rdepth := u.me.rdepth - 1 })

/-- Push a mask entry (R241). -/
def State.pushMs (s : State) (e : MaskEntry) : Run State :=
  if s.me.pushLimit 1024 ≤ s.me.mbase + s.me.mdepth then s.fail (s.me.flt 0x07 2 (s.me.mbase + s.me.mdepth) 0)
  else if s.me.mstack.length < 8 then
    .ok (s.setMe { s.me with mstack := e :: s.me.mstack, mdepth := s.me.mdepth + 1 })
  else
    let bs := maskBytes (s.me.mstack.getLast?.getD ⟨0, 0#32768⟩)
    if s.writable s.me.spillMs bs.length = false then s.fail (s.me.spillFlt 2 s.me.spillMs)
    else
      let t := s.writeP s.me.spillMs bs
      .ok (t.setMe { t.me with
        mstack := e :: t.me.mstack.dropLast, mdepth := t.me.mdepth + 1, spillMs := t.me.spillMs + bs.length })

/-- Reload the mask entry below SPILLMS, its count first (R241); the error is the address that failed. -/
def State.reloadMs (s : State) : Except Nat State :=
  let a := s.me.spillMs - 8
  if s.readable a 8 then
    let n := ofLE (s.readP a 8)
    let b := a - 8 * maskWords n
    if s.readable b (8 * maskWords n) then
      .ok (s.setMe { s.me with
        mstack := s.me.mstack ++ [⟨n, BitVec.ofNat 32768 (ofLE (s.readP b (8 * maskWords n)))⟩], spillMs := b })
    else .error b
  else .error a

/-- Pop a mask entry (R241). -/
def State.popMs (s : State) : Run (MaskEntry × State) :=
  if s.me.mdepth = 0 then s.fail (s.me.flt 0x07 3 0 0)
  else
    match (if s.me.mstack.isEmpty then s.reloadMs else .ok s) with
    | .error a => s.fail (s.me.spillFlt 3 a)
    | .ok t =>
      match (if t.me.mstack.length = 1 ∧ 1 < t.me.mdepth then t.reloadMs else .ok t) with
      | .error a => s.fail (s.me.spillFlt 3 a)
      | .ok u => .ok (u.me.mstack.headD ⟨0, 0#32768⟩,
          u.setMe { u.me with mstack := u.me.mstack.tail, mdepth := u.me.mdepth - 1 })

/-- Spill every held entry of both stacks (R43). -/
def State.spillAll (s : State) : State :=
  let rs := s.me.rstack.reverse.flatMap (fun w => toLE 8 w.toNat)
  let ms := s.me.mstack.reverse.flatMap maskBytes
  let t := (s.writeP s.me.spillRs rs).writeP s.me.spillMs ms
  t.setMe { t.me with
    rstack := [], spillRs := t.me.spillRs + rs.length, mstack := [], spillMs := t.me.spillMs + ms.length }

def reloadMany (f : State → Except Nat State) : Nat → State → Except Nat State
  | 0, s => .ok s
  | n + 1, s =>
    match f s with
    | .ok t => reloadMany f n t
    | .error a => .error a

/-- The reload at a resumption: up to 16 and 8 entries (R43); a failed stack holds no entry (R399). The error is
DETAIL and address of class 0x08. -/
def State.reloadStacks (s : State) : State × Option (Nat × Nat) :=
  match reloadMany State.reloadRs (min 16 s.me.rdepth) s with
  | .error a => (s, some (1, a))
  | .ok t =>
    match reloadMany State.reloadMs (min 8 t.me.mdepth) t with
    | .error a => (t, some (3, a))
    | .ok u => (u, none)

/-! ### Saving a strand (R43 to R46) -/

/-- Where a strand's state is saved: the second area in handler mode (R400). -/
def Strand.saveArea (st : Strand) : Nat := if st.handler.isSome then st.areas.save2 else st.areas.save

/-- Spill the stacks and write the save area, with a given PC (R43 to R45). -/
def State.saveMe (s : State) (pc : Word) : State :=
  let t := s.spillAll
  t.writeP t.me.saveArea (saveBytes t.me pc)

/-- Raise events of an instruction in the FSTAT and FIDX that lie in a save area (R44, R132, R133): the strand, whose
places of its FIDX pairs in the program order are `seqs`, has these registers there. The answer has the new places. -/
def State.raiseSaved (s : State) (t : Strand) (a : Nat) (seqs : Vector Nat 6) (iaddr : Word) (seq : Nat) (evs : Evs) :
    Vector Nat 6 × State :=
  let bs := s.readP a 0xE0
  let u := { t with fstat := BitVec.ofNat 32 (field bs 0x2C 4), fidx := fidxIn bs, fidxSeq := seqs }.raiseAt iaddr seq evs
  (u.fidxSeq, (s.writeP (a + 0x2C) (toLE 4 u.fstat.toNat)).writeP (a + 0x80) (fidxBytes u.fidx))

/-- Raise events of an instruction issued earlier, wherever the strand has its FSTAT and FIDX: a pre-empted strand's lie in
its save area, and those of the program that a handler has interrupted in the first (R14, R44, R400). -/
def State.raiseOn (s : State) (t : Strand) (iaddr : Word) (seq : Nat) (evs : Evs) : State :=
  match t.handler.filter (fun h => decide (seq < h.seq)) with
  | some h =>
    let r := s.raiseSaved t t.areas.save h.fidxSeq iaddr seq evs
    r.2.modStrand t.id (fun u => { u with handler := some { h with fidxSeq := r.1 } })
  | none =>
    if t.live = .saved then
      let r := s.raiseSaved t t.saveArea t.fidxSeq iaddr seq evs
      r.2.modStrand t.id (fun u => { u with fidxSeq := r.1 })
    else s.modStrand t.id (fun u => u.raiseAt iaddr seq evs)

/-- The bytes of a save area. -/
def State.savedBytes (s : State) (a : Nat) : List Byte := s.readP a (field (s.readP (a + 4) 4) 0 4)

/-- The registers of a strand that starts at `entry` in a code object (R20): `arg` in x1. -/
def Strand.fresh (st : Strand) (o : Obj) (obj : Nat) (entry key : Word) (x : Vector Word 32) : Strand :=
  { st with
    obj := obj
    pc := entry
    prev := 0#64
    x := x
    f := Vector.replicate 32 0#64
    v := Vector.replicate 32 VReg.zero
    m := Vector.replicate 8 MReg.zero
    p := Vector.replicate 8 PReg.zero
    b := mintAll o entry
    alg := Vector.replicate 4 none
    rstack := []
    rdepth := 0
    mstack := []
    mdepth := 0
    vtype := 0#64
    vl := 0
    mvl := 0
    esr := 0
    resume := none
    tau := 0#32
    fstat := 0#32
    fidx := Vector.replicate 6 (0#64, 0#64)
    fidxSeq := Vector.replicate 6 0
    stripPrev := 0#64
    rngKey := key
    rngCtr := 0#64
    vcount := o.vregs
    bufFirst := o.bufv
    bufGroups := o.bufg
    codeb := codebOf o
    inMatrix := false
    active := Plane.zero
    shadow := Plane.zero
    acc := Vector.replicate 4 Tile.zero
    commitAcc := Vector.replicate 4 .none
    commitActive := none
    commitShadow := none
    mqueue := []
    bind := none
    resv := none
    stream := none
    hold := none
    blocked := none
    blockedFor := 0
    stopAt := none
    evSoFar := 0#7
    evFirst := 0 }

/-- The seed of the strand's node (R20). -/
def State.seedOf (s : State) (g : GangId) : Word := ((s.node? g.launch g.node).map (·.r.seed)).getD 0#64

def State.keyOf (s : State) (st : Strand) : Word := s.seedOf st.gang ^^^ BitVec.ofNat 64 st.llin

/-! ### Taking an exception -/

/-- The handler of the strand's context: entry point, and its code object with its place (R400). -/
def State.handlerOf (s : State) : Option (Word × Nat × Obj) :=
  match s.ctx? s.me.ctx with
  | none => none
  | some c =>
    match c.handler with
    | none => none
    | some a =>
      match c.objs.findIdx? (fun o => o.textVa ≤ a && a < o.textVa + o.textLen) with
      | some i => (c.objs[i]?).map (fun o => (BitVec.ofNat 64 a, i, o))
      | none => none

/-- Record bytes 0x00 to 0x07 (R395). -/
def Rec.word0 (r : Rec) : Word :=
  BitVec.ofNat 64 (0x0004000F + r.flt.cls * 2 ^ 32 + r.flt.detail * 2 ^ 48 + r.flags * 2 ^ 56)

/-- The x registers a handler starts with (R400). -/
def handlerX (r : Rec) (esr : Nat) : Vector Word 32 :=
  ((((Vector.replicate 32 0#64).set 1 r.word0).set 2 r.flt.faddr).set 3 r.flt.info1).set 4 r.flt.info2
    |>.set 5 (BitVec.ofNat 64 esr)

/-- Enter the handler (R400): the state is saved, then the strand starts in the handler's code object. -/
def State.enterHandler (s : State) (r : Rec) (pc : Word) (reply : XReg) (entry : Word) (k : Nat) (o : Obj) : State :=
  let t := s.saveMe pc
  let st := t.me
  let h : Handler := ⟨r, reply, st.evSoFar, st.evFirst, st.obj, st.bufFirst, st.codeb, st.stream, st.bind, st.fidxSeq,
    st.seq⟩
  t.setMe { st.fresh o k entry (t.keyOf st) (handlerX r st.esr) with
    handler := some h, rbase := st.rdepth, mbase := st.mdepth }

/-- An unhandled fault (R402): the record goes to the host that created the context and the node fails. -/
def State.unhandled (s : State) (r : Rec) : State := (s.sendRec (s.hostOfCtx s.me.ctx) r).failNode s.me.gang s.me.id

/-- TAKING AN EXCEPTION detected at a TIME (R395, R400, R402): with a handler, and outside handler mode, the strand enters
it with PC saved as `pc`; otherwise the fault is unhandled. In matrix state the queue drains first; while a walker run
has not delivered (R325) or the governor holds the queue (R271), the fault waits as the first pending one. -/
def State.takeAt (s : State) (time : Word) (f : Flt) (pc : Word) (reply : XReg) : State :=
  let r := s.me.record time f
  match s.me.handler, s.handlerOf with
  | none, some (entry, k, o) =>
    let t := s.drain
    if t.me.mqueue.isEmpty then t.enterHandler r pc reply entry k o
    else t.setMe { t.me with pc := pc, pending := ⟨f, 0, time⟩ :: t.me.pending }
  | _, _ => s.unhandled r

/-- An exception that is detected now. -/
def State.takeFault (s : State) (f : Flt) (pc : Word) (reply : XReg) : State := s.takeAt s.time f pc reply

/-- The outcome of a meaning. -/
def finish (i : Instr) (r : Run State) : Res :=
  match r with
  | .ok t => .next t
  | .error (.flt f pc s) => .next (s.takeFault f pc 0)
  | .error (.hold s) => .next (s.setMe { s.me with hold := some i })
  | .error (.block s) => .next (s.setMe { s.me with blocked := some i })

/-! ### Returning from an exception -/

/-- The strand as its save area and the handler's note give it back (R46, R401). -/
def Strand.restored (st : Strand) (h : Handler) (bs : List Byte) : Strand :=
  { loadBytes { st with stream := h.stream } bs with
    handler := none, obj := h.obj, fidxSeq := h.fidxSeq, bufFirst := h.bufFirst, codeb := h.codeb, rbase := 0, mbase := 0,
    evSoFar := h.evSoFar, evFirst := h.evFirst, hold := none, blocked := none, blockedFor := 0, stopAt := none,
    resv := none, prev := st.pc }

/-- RETURN FROM A HANDLER (R401): restore the saved state, write an SVC's reply, continue at the saved PC or at a given
address, reload the stacks; a failed reload is class 0x08 at the word to be issued (R399). -/
def State.returnFrom (s : State) (h : Handler) (reply : Word) (target : Option Word) : State :=
  let st := s.me.restored h (s.savedBytes s.me.areas.save)
  let st := if h.rcd.flt.cls = 1 then st.setX h.svcReg reply else st
  let st := match target with
    | some t => { st with pc := t, esr := 0, resume := none, evSoFar := 0#7, evFirst := 0 }
    | none => st
  match (s.setMe st).reloadStacks with
  | (t, none) => t
  | (t, some (d, a)) => t.takeFault (t.me.spillFlt d a) t.me.pc 0

/-- Take the strand's first pending failure or trap, unless it is in handler mode (R410); its record holds TIME at
detection (R395). -/
def State.takePending (s : State) : Option State :=
  match s.me.handler, s.me.pending with
  | none, p :: rest => some ((s.setMe { s.me with pending := rest }).takeAt p.time p.flt s.me.pc 0)
  | _, _ => none

/-- Is a pending failure due: the strand's next turn takes it (R410). -/
def Strand.mustTake (st : Strand) : Bool := st.pending ≠ [] && st.handler.isNone

/-! ### Accesses of the strand -/

def acquires : MOrd → Bool
  | .acq | .ar => true
  | _ => false

def releases : MOrd → Bool
  | .rel | .ar => true
  | _ => false

/-- A release waits until the strand's earlier transfers have been performed (R111). -/
def State.release (s : State) (o : MOrd) : Run Unit :=
  if releases o && s.transfersOut then .error (.hold s) else .ok ()

/-- An acquire marks every run-ahead group stale (R115). -/
def State.acquire (s : State) (o : MOrd) : State := if acquires o then s.setMe s.me.staleAll else s

/-- The ordering code of accesses to a bound as it takes effect: plain where every byte lies on an unordered page (R109).
`us` gives address and size of each access; one that is refused, and no access at all (R116), leaves the code. -/
def State.effOrd (s : State) (b : BRegNo) (use : Nat) (us : List (Int × Nat)) (o : MOrd) : MOrd :=
  let unord (u : Int × Nat) : Bool :=
    match access s s.who (s.me.getB b) b.val use u.1 u.2 0 with
    | .ok (bs, _) => bs.all (·.unord)
    | .error _ => false
  if o = .plain then .plain else if us ≠ [] && us.all unord then .plain else o

/-- The code of an access as it takes effect; a release waits for the strand's transfers (R104, R109, R111). -/
def State.order (s : State) (b : BRegNo) (use : Nat) (us : List (Int × Nat)) (o : MOrd) : Run MOrd :=
  (s.release (s.effOrd b use us o)).map (fun _ => s.effOrd b use us o)

/-- Read `n` bytes at `e` through a bound register, as element `i` of the instruction. -/
def State.loadE (s : State) (b : BRegNo) (use : Nat) (e : Int) (n i : Nat) : Run (List Byte × State) :=
  match s.orFail (access s s.who (s.me.getB b) b.val use e n i) with
  | .error x => .error x
  | .ok (bs, t) =>
    if s.conflicts bs false then .error (.hold s)
    else
      match s.orFail (readByts s s.who b.val use i bs) with
      | .error x => .error x
      | .ok v => .ok (v, t)

/-- Write bytes at `e` through a bound register, as element `i` of the instruction. -/
def State.storeE (s : State) (b : BRegNo) (use : Nat) (e : Int) (vs : List Byte) (i : Nat) : Run State :=
  match s.orFail (access s s.who (s.me.getB b) b.val use e vs.length i) with
  | .error x => .error x
  | .ok (bs, t) =>
    if s.conflicts bs true then .error (.hold s)
    else
      let u := t.pokeByts bs vs
      .ok (u.setMe (u.me.staleBytes bs))

/-- x[index] as a signed value (R75). -/
def Strand.sx (st : Strand) (r : XReg) : Int := (st.getX r).toInt

/-- E := ADDR + x[K] × 2^scale + offset (R75). -/
def Strand.ea (st : Strand) (b : BRegNo) (k : XReg) (scale : BitVec 3) (off : BitVec 18) : Int :=
  ((st.getB b).addr.toNat : Int) + st.sx k * 2 ^ scale.toNat + off.toInt

/-- E for the forms that give no index. -/
def Strand.eb (st : Strand) (b : BRegNo) (off : Int) : Int := ((st.getB b).addr.toNat : Int) + off

/-- Bytes of a loaded element as a register's value: signed types are sign-extended (R213). -/
def extend (t : ETy) (bs : List Byte) : Word :=
  if isSigned t then BitVec.ofInt 64 (signedOf (sbits t) (ofLE bs)) else BitVec.ofNat 64 (ofLE bs)

/-! ### The interruptible element loop (R41, R42, R220) -/

/-- Results of elements `lo` to `hi − 1`: code and events of an active element; `none` of an inactive one. -/
def Strand.elems (st : Strand) (m : MRegNo) (lo hi : Nat) (f : Nat → Nat × Ev) : List (Nat × Option (Nat × Ev)) :=
  (List.range' lo (hi - lo)).map (fun i => (i, if st.active? m i then some (f i) else none))

/-- The events of a list of results, by index. -/
def elemEvs (rs : List (Nat × Option (Nat × Ev))) : Evs :=
  rs.filterMap (fun r => match r.2 with
    | some (_, e) => if e = 0#7 then none else some (r.1, e)
    | none => none)

/-- The codes 0 to `hi − 1` of a destination: below ESR as they stand, then the results; an inactive element keeps its
code under .keep and is zero otherwise (R220). -/
def Strand.codes (st : Strand) (t : ETy) (d : VRegNo) (keep : Bool) (rs : List (Nat × Option (Nat × Ev))) : List Nat :=
  (List.range st.esr).map (st.code t d)
    ++ rs.map (fun r => match r.2 with
      | some (c, _) => c
      | none => if keep then st.code t d r.1 else 0)

/-- An element-wise vector instruction: VL = 0 writes nothing; otherwise the elements of this turn are computed and
written, and the instruction completes or is interrupted at a group boundary (R41, R220). `g` is the number of elements
of its group; RNGCTR advances by VL at completion (R129). -/
def State.elementwise (s : State) (d : VRegNo) (t : ETy) (g : Nat) (m : MRegNo) (keep : Bool) (rnd : Rnd)
    (f : Nat → Nat × Ev) : Run State :=
  let st := s.me
  if st.vl = 0 then s.completeV []
  else
    let hi := st.upto g st.vl
    let rs := st.elems m st.esr hi f
    let cs := st.codes t d keep rs
    if hi = st.vl then
      (s.setMe ((st.setV d ((st.getV d).full t st.blk cs [])).advance rnd st.vl)).completeV (elemEvs rs)
    else .ok ((s.setMe (st.setV d ((st.getV d).part t cs))).interrupt (elemEvs rs) hi none)

/-- The same with a mask register as destination: `f` gives bit 0 or 1. Bits of inactive elements are kept or clear;
RNGCTR advances by `draws` at completion. -/
def State.maskwise (s : State) (d : MRegNo) (g : Nat) (m : MRegNo) (keep : Bool) (draws : Nat)
    (f : Nat → Nat × Ev) : Run State :=
  let st := s.me
  if st.vl = 0 then s.completeV []
  else
    let hi := st.upto g st.vl
    let rs := st.elems m st.esr hi f
    let bits := (List.range st.esr).map (st.mbit d)
      ++ rs.map (fun r => match r.2 with
        | some (c, _) => c == 1
        | none => keep && st.mbit d r.1)
    if hi = st.vl then
      let t := st.setM d bits
      (s.setMe { t with rngCtr := t.rngCtr + BitVec.ofNat 64 draws }).completeV (elemEvs rs)
    else .ok ((s.setMe (st.partM d bits)).interrupt (elemEvs rs) hi none)

/-- The same with a predicate register as destination (R242); the provenance is written at completion (R251). -/
def State.predwise (s : State) (d : PRegNo) (g : Nat) (m : MRegNo) (keep : Bool) (rnd : Rnd) (prov : BitVec 16)
    (extra : Evs) (f : Nat → Nat × Ev) : Run State :=
  let st := s.me
  if st.vl = 0 then s.completeV []
  else
    let hi := st.upto g st.vl
    let rs := st.elems m st.esr hi f
    let cs := (List.range st.esr).map (st.pcode d)
      ++ rs.map (fun r => match r.2 with
        | some (c, _) => c
        | none => if keep then st.pcode d r.1 else 0)
    if hi = st.vl then (s.setMe ((st.setP d cs prov).advance rnd st.vl)).completeV (elemEvs rs ++ extra)
    else .ok ((s.setMe (st.partP d cs)).interrupt (elemEvs rs) hi none)

end Sys2Proof.Machine
end

