-- ==== Sys2Proof/Machine/Arith.lean ====
section
/-! DEFINITION. The values that scalar and vector instructions share (R203 to R207, R224, R225, R130): square roots,
exponentials and logarithms, minimum and maximum, class bits, and integer operations by type. -/

namespace Sys2Proof.Machine

/-- An event list of one index. -/
def evAt (i : Nat) (e : Ev) : Evs := if e = 0#7 then [] else [(i, e)]

/-- The canonical NaN of a type (R120, R130). -/
def nanCode (t : ETy) : Nat := ((fmtOf t).bind (·.nan)).getD 0

/-- A NaN operand's result (R130). -/
def nanOf (v : Val) : Real' × Ev := (.val (.nan false), evIf (isSnan v) evV)

def invalid : Real' × Ev := (.val (.nan false), evV)

/-- √a (R203, R224): √(−0) is −0. -/
def sqrtOf (v : Val) : Real' × Ev :=
  match v with
  | .nan _ => nanOf v
  | .inf true => invalid
  | .inf false => (.val (.inf false), 0#7)
  | .zero z => (.val (.zero z), 0#7)
  | .fin q => if q.num < 0 then invalid else (.mag false (.sqrt q.num.natAbs q.exp q.den), 0#7)

/-- 1/√a (R225). -/
def rsqOf (v : Val) : Real' × Ev :=
  match v with
  | .nan _ => nanOf v
  | .inf true => invalid
  | .inf false => (.val (.zero .pos), 0#7)
  | .zero z => (.val (.inf (z == .neg)), evZ)
  | .fin q => if q.num < 0 then invalid else (.mag false (.rsqrt q.num.natAbs q.exp q.den), 0#7)

/-- 2^a (R225): exact for an integer a. -/
def exp2Of (v : Val) : Real' × Ev :=
  match v with
  | .nan _ => nanOf v
  | .inf true => (.val (.zero .pos), 0#7)
  | .inf false => (.val (.inf false), 0#7)
  | .zero _ => (.val (ofInt 1), 0#7)
  | .fin q =>
    match expParts q with
    | (c, 0, _) => (.val (.fin ⟨1, c, 1⟩), 0#7)
    | _ => (.mag false (.exp2 q), 0#7)

/-- log2 a (R225): exact for a power of two. -/
def log2Of (v : Val) : Real' × Ev :=
  match v with
  | .nan _ => nanOf v
  | .inf true => invalid
  | .inf false => (.val (.inf false), 0#7)
  | .zero _ => (.val (.inf true), evZ)
  | .fin q =>
    if q.num < 0 then invalid
    else
      let n := q.num.natAbs
      if n = 2 ^ Nat.log2 n then (.val (ofInt (topBit n q.exp)), 0#7)
      else (.mag (topBit n q.exp < 0) (.alog2 n q.exp), 0#7)

/-- Is `a` the one to take for a minimum: −0 is less than +0 (R130). -/
def lessNum (a b : Val) : Bool := vlt a b || (veq a b && isNeg a)

/-- minimumNumber or maximumNumber of two codes (R130, R204). -/
def minMax (t : ETy) (isMax : Bool) (ca cb : Nat) : Nat × Ev :=
  let a := decodeVal t ca
  let b := decodeVal t cb
  let e := evIf (isSnan a || isSnan b) evV
  if isNan a then (if isNan b then nanCode t else cb, e)
  else if isNan b then (ca, e)
  else (if lessNum a b != isMax then ca else cb, e)

/-- The class bits of R206. -/
def classBits (t : ETy) (code : Nat) : Nat :=
  match fmtOf t with
  | none => 0
  | some f =>
    let mag := code % fmtSign f
    let neg : Bool := code / fmtSign f % 2 = 1
    let pick (n p : Nat) : Nat := if neg then 2 ^ n else 2 ^ p
    if f.inf = some mag then pick 0 7
    else if f.maxCode < mag then (if nanSignals t f mag then 2 ^ 8 else 2 ^ 9)
    else if mag = 0 then pick 3 4
    else if mag < 2 ^ f.fbits then pick 2 5
    else pick 1 6

/-- A signed integer result as a register's 64 bits. -/
def intWord (t : ETy) (code : Nat) : Word :=
  if isSigned t then BitVec.ofInt 64 (signedOf (sbits t) (code % 2 ^ sbits t)) else BitVec.ofNat 64 (code % 2 ^ sbits t)

/-! ### Integer operations by type (R224, R225) -/

/-- DIV and DIVU per element: all ones for a zero divisor (R199); −2^(w−1) by −1 wraps, or clamps under sat. -/
def intDiv (t : ETy) (a b : Int) (sat : Bool) : Nat × Ev :=
  if b = 0 then (2 ^ sbits t - 1, 0#7) else deliverInt t (a.tdiv b) sat

/-- REM and REMU per element (R199). -/
def intRem (t : ETy) (a b : Int) : Nat × Ev :=
  if b = 0 then (intCode (sbits t) a, 0#7) else (intCode (sbits t) (a.tmod b), 0#7)

end Sys2Proof.Machine
end

