-- ==== Sys2Proof/Machine/VecArith.lean ====
section
/-! DEFINITION. Vector arithmetic, major 0x09 (R224, R225, R232). The element functions are shared with the pair halves
of R181. -/

namespace Sys2Proof.Machine

/-- Instructions that touch vector registers wait for a queued MRDROW, whose write comes first (R257). -/
def State.syncV (s : State) : Run Unit :=
  if s.me.mqueue.any (fun e => match e.instr with | .mrdrow .. => true | _ => false) then .error (.hold s) else .ok ()

/-- The operand checks of a vector instruction (R433): registers, lengths of the types it uses, and what else. -/
def State.vchk (s : State) (rs : List VRegNo) (ts : List ETy) (more : List (Bool × Flt)) : Run Unit := do
  s.check (s.me.vregChk rs ++ ts.flatMap s.me.lenChk ++ more)
  s.syncV

/-- The group length over which an instruction is interrupted, or all of VL where R232 lets nothing stop it. -/
def Strand.grp (st : Strand) (w : Nat) (whole : Bool) : Nat := if whole then max 1 st.vl else groupLen w

/-- An instruction of major 0x09 on codes: `f` gives the code and events of an element from its index. -/
def State.varith (s : State) (d : VRegNo) (rs : List VRegNo) (m : VMod) (f : Nat → Nat × Ev) : Run State := do
  s.vchk rs [m.ty] []
  s.elementwise d m.ty (groupLen (sbits m.ty)) m.mask m.keep m.rnd f

/-! ### Elements -/

/-- A float result by exact arithmetic, or an integer result (R224). -/
def arithF (fl : Val → Val → Val × Ev) (it : ETy → Int → Int → Bool → Nat × Ev) (t : ETy) (rm : Rnd) (sat : Bool)
    (dr : Draw) (a b : Nat) : Nat × Ev :=
  if isF t then deliver t (fl (decodeVal t a) (decodeVal t b)) rm sat dr else it t (intVal t a) (intVal t b) sat

def elemAdd := arithF exactAdd (fun t a b sat => deliverInt t (a + b) sat)
def elemSub := arithF (fun a b => exactAdd a (vneg b)) (fun t a b sat => deliverInt t (a - b) sat)
def elemMul := arithF exactMul (fun t a b sat => deliverInt t (a * b) sat)
def elemDiv := arithF exactDiv intDiv

/-- VMIN and VMAX. -/
def elemMin (isMax : Bool) (t : ETy) (a b : Nat) : Nat × Ev :=
  if isF t then minMax t isMax a b
  else (if (intVal t a < intVal t b) != isMax then a else b, 0#7)

/-- The same, delivered as R224 delivers a float result: under .sat an infinity becomes the largest finite value (R127). -/
def elemMinSat (isMax : Bool) (t : ETy) (sat : Bool) (a b : Nat) : Nat × Ev :=
  let c := elemMin isMax t a b
  if isF t && sat then
    let d := deliver t (decodeVal t c.1, 0#7) .rne true 0
    (d.1, c.2 ||| d.2)
  else c

/-- VMULH: the high half of the product. -/
def elemMulh (t : ETy) (a b : Nat) : Nat × Ev := (intCode (sbits t) (intVal t a * intVal t b / 2 ^ sbits t), 0#7)

/-- The shifts, by b mod w. -/
def elemShl (t : ETy) (a b : Nat) : Nat := a <<< (b % sbits t) % 2 ^ sbits t
def elemShr (t : ETy) (a b : Nat) : Nat := a >>> (b % sbits t)
def elemSra (t : ETy) (a b : Nat) : Nat := intCode (sbits t) (signedOf (sbits t) a / 2 ^ (b % sbits t))

/-- A fused multiply-add on values (R224): signs of the product and of the addend. -/
def elemFma (np nc : Bool) (t : ETy) (rm : Rnd) (sat : Bool) (dr : Draw) (a b c : Nat) : Nat × Ev :=
  let sg (n : Bool) (v : Val) : Val := if n then vneg v else v
  deliver t (fusedSum (sg nc (decodeVal t c)) [(sg np (decodeVal t a), decodeVal t b)]) rm sat dr

/-- VABS and VNEG: the sign bit of a float, an integer by value (R225). -/
def elemAbs (t : ETy) (sat : Bool) (a : Nat) : Nat × Ev :=
  if isF t then (a % 2 ^ (sbits t - 1), 0#7) else deliverInt t (intVal t a).natAbs sat
def elemNeg (t : ETy) (sat : Bool) (a : Nat) : Nat × Ev :=
  if isF t then (a ^^^ 2 ^ (sbits t - 1), 0#7) else deliverInt t (-intVal t a) sat

/-- A unary function rounded once (R225). -/
def elemFn (g : Val → Real' × Ev) (t : ETy) (rm : Rnd) (sat : Bool) (dr : Draw) (a : Nat) : Nat × Ev :=
  let r := g (decodeVal t a)
  let c := roundTo t r.1 rm sat dr
  (c.1, r.2 ||| c.2)

/-! ### Instructions -/

/-- VADD (R224) -/
def execVadd (d a b : VRegNo) (m : VMod) (s : State) : Res :=
  finish (.vadd d a b m) (
    let st := s.me
    s.varith d [d, a, b] m (fun i => elemAdd m.ty (st.rnd m.rnd) m.sat (st.draw i 0) (st.code m.ty a i) (st.code m.ty b i)))

/-- VSUB (R224) -/
def execVsub (d a b : VRegNo) (m : VMod) (s : State) : Res :=
  finish (.vsub d a b m) (
    let st := s.me
    s.varith d [d, a, b] m (fun i => elemSub m.ty (st.rnd m.rnd) m.sat (st.draw i 0) (st.code m.ty a i) (st.code m.ty b i)))

/-- VMUL (R224) -/
def execVmul (d a b : VRegNo) (m : VMod) (s : State) : Res :=
  finish (.vmul d a b m) (
    let st := s.me
    s.varith d [d, a, b] m (fun i => elemMul m.ty (st.rnd m.rnd) m.sat (st.draw i 0) (st.code m.ty a i) (st.code m.ty b i)))

/-- VDIV (R224) -/
def execVdiv (d a b : VRegNo) (m : VMod) (s : State) : Res :=
  finish (.vdiv d a b m) (
    let st := s.me
    s.varith d [d, a, b] m (fun i => elemDiv m.ty (st.rnd m.rnd) m.sat (st.draw i 0) (st.code m.ty a i) (st.code m.ty b i)))

/-- VMULH (R224) -/
def execVmulh (d a b : VRegNo) (m : VMod) (s : State) : Res :=
  finish (.vmulh d a b m) (
    let st := s.me
    s.varith d [d, a, b] m (fun i => elemMulh m.ty (st.code m.ty a i) (st.code m.ty b i)))

/-- VREM (R224) -/
def execVrem (d a b : VRegNo) (m : VMod) (s : State) : Res :=
  finish (.vrem d a b m) (
    let st := s.me
    s.varith d [d, a, b] m (fun i => intRem m.ty (intVal m.ty (st.code m.ty a i)) (intVal m.ty (st.code m.ty b i))))

/-- VMIN (R224) -/
def execVmin (d a b : VRegNo) (m : VMod) (s : State) : Res :=
  finish (.vmin d a b m) (
    let st := s.me
    s.varith d [d, a, b] m (fun i => elemMinSat false m.ty m.sat (st.code m.ty a i) (st.code m.ty b i)))

/-- VMAX (R224) -/
def execVmax (d a b : VRegNo) (m : VMod) (s : State) : Res :=
  finish (.vmax d a b m) (
    let st := s.me
    s.varith d [d, a, b] m (fun i => elemMinSat true m.ty m.sat (st.code m.ty a i) (st.code m.ty b i)))

/-- VAND (R224) -/
def execVand (d a b : VRegNo) (m : VMod) (s : State) : Res :=
  finish (.vand d a b m) (
    let st := s.me
    s.varith d [d, a, b] m (fun i => ((st.code m.ty a i) &&& (st.code m.ty b i), 0#7)))

/-- VOR (R224) -/
def execVor (d a b : VRegNo) (m : VMod) (s : State) : Res :=
  finish (.vor d a b m) (
    let st := s.me
    s.varith d [d, a, b] m (fun i => ((st.code m.ty a i) ||| (st.code m.ty b i), 0#7)))

/-- VXOR (R224) -/
def execVxor (d a b : VRegNo) (m : VMod) (s : State) : Res :=
  finish (.vxor d a b m) (
    let st := s.me
    s.varith d [d, a, b] m (fun i => ((st.code m.ty a i) ^^^ (st.code m.ty b i), 0#7)))

/-- VSHL (R224) -/
def execVshl (d a b : VRegNo) (m : VMod) (s : State) : Res :=
  finish (.vshl d a b m) (
    let st := s.me
    s.varith d [d, a, b] m (fun i => (elemShl m.ty (st.code m.ty a i) (st.code m.ty b i), 0#7)))

/-- VSHR (R224) -/
def execVshr (d a b : VRegNo) (m : VMod) (s : State) : Res :=
  finish (.vshr d a b m) (
    let st := s.me
    s.varith d [d, a, b] m (fun i => (elemShr m.ty (st.code m.ty a i) (st.code m.ty b i), 0#7)))

/-- VSRA (R224) -/
def execVsra (d a b : VRegNo) (m : VMod) (s : State) : Res :=
  finish (.vsra d a b m) (
    let st := s.me
    s.varith d [d, a, b] m (fun i => (elemSra m.ty (st.code m.ty a i) (st.code m.ty b i), 0#7)))

/-- VFMA (R224) -/
def execVfma (d a b c : VRegNo) (m : VMod) (s : State) : Res :=
  finish (.vfma d a b c m) (
    let st := s.me
    s.varith d [d, a, b, c] m (fun i => elemFma false false m.ty (st.rnd m.rnd) m.sat (st.draw i 0) (st.code m.ty a i) (st.code m.ty b i) (st.code m.ty c i)))

/-- VFMS (R224) -/
def execVfms (d a b c : VRegNo) (m : VMod) (s : State) : Res :=
  finish (.vfms d a b c m) (
    let st := s.me
    s.varith d [d, a, b, c] m (fun i => elemFma false true m.ty (st.rnd m.rnd) m.sat (st.draw i 0) (st.code m.ty a i) (st.code m.ty b i) (st.code m.ty c i)))

/-- VFNMA (R224) -/
def execVfnma (d a b c : VRegNo) (m : VMod) (s : State) : Res :=
  finish (.vfnma d a b c m) (
    let st := s.me
    s.varith d [d, a, b, c] m (fun i => elemFma true false m.ty (st.rnd m.rnd) m.sat (st.draw i 0) (st.code m.ty a i) (st.code m.ty b i) (st.code m.ty c i)))

/-- VSQRT (R225) -/
def execVsqrt (d a : VRegNo) (m : VMod) (s : State) : Res :=
  finish (.vsqrt d a m) (
    let st := s.me
    s.varith d [d, a] m (fun i => elemFn sqrtOf m.ty (st.rnd m.rnd) m.sat (st.draw i 0) (st.code m.ty a i)))

/-- VEXP2 (R225) -/
def execVexp2 (d a : VRegNo) (m : VMod) (s : State) : Res :=
  finish (.vexp2 d a m) (
    let st := s.me
    s.varith d [d, a] m (fun i => elemFn exp2Of m.ty (st.rnd m.rnd) m.sat (st.draw i 0) (st.code m.ty a i)))

/-- VLOG2 (R225) -/
def execVlog2 (d a : VRegNo) (m : VMod) (s : State) : Res :=
  finish (.vlog2 d a m) (
    let st := s.me
    s.varith d [d, a] m (fun i => elemFn log2Of m.ty (st.rnd m.rnd) m.sat (st.draw i 0) (st.code m.ty a i)))

/-- VRSQ (R225) -/
def execVrsq (d a : VRegNo) (m : VMod) (s : State) : Res :=
  finish (.vrsq d a m) (
    let st := s.me
    s.varith d [d, a] m (fun i => elemFn rsqOf m.ty (st.rnd m.rnd) m.sat (st.draw i 0) (st.code m.ty a i)))

/-- VABS (R225) -/
def execVabs (d a : VRegNo) (m : VMod) (s : State) : Res :=
  finish (.vabs d a m) (
    let st := s.me
    s.varith d [d, a] m (fun i => elemAbs m.ty m.sat (st.code m.ty a i)))

/-- VNEG (R225) -/
def execVneg (d a : VRegNo) (m : VMod) (s : State) : Res :=
  finish (.vneg d a m) (
    let st := s.me
    s.varith d [d, a] m (fun i => elemNeg m.ty m.sat (st.code m.ty a i)))

end Sys2Proof.Machine
end

