-- ==== Sys2Proof/Machine/Algebra.lean ====
section
/-! DEFINITION. Loadable algebras, major 0x0F (R142 to R154, R252 to R256, R440). -/

namespace Sys2Proof.Machine

/-! ### ATLD -/

/-- A fault of class 0x83 while a table at `e` is checked (R440). -/
def Strand.tabFlt (st : Strand) (det ent e : Nat) : Flt := st.flt 0x83 det ent e

/-- The header's fields in offset order (R142, R440). -/
def Strand.headChk (st : Strand) (bs : List Byte) (e : Nat) : List (Bool × Flt) :=
  let dim := field bs 4 1
  [(field bs 0 4 ≠ 0x00040005, st.tabFlt 0 0 e),
   (dim = 0 || 16 < dim, st.tabFlt 1 0 e),
   (!zeroIn bs 5 1, st.tabFlt 3 0 e),
   (4096 < field bs 6 2, st.tabFlt 2 0 e),
   (field bs 8 2 / 2 ^ dim ≠ 0, st.tabFlt 3 0 e),
   (!zeroIn bs 10 2 || !zeroIn bs 16 48, st.tabFlt 3 0 e)]

/-- Is a constant a NaN or an infinity. -/
def constBad (c : Nat) : Bool := bitsOf c 30 23 = 255

/-- Is a constant +0 or −0 (R144). -/
def constZero (c : Nat) : Bool := bitsOf c 30 0 = 0

/-- The entries in table order, dropping zero constants; `n` counts the entries kept (R143, R144, R440). -/
def Strand.entries (st : Strand) (dim e : Nat) (bs : List Byte) :
    Nat → Nat → Nat → Except Flt (List AlgEntry)
  | 0, _, _ => .ok []
  | fuel + 1, i, n =>
    let o := 8 * i
    let k := field bs o 1
    let p := field bs (o + 1) 1
    let q := field bs (o + 2) 1
    let c := field bs (o + 4) 4
    if dim ≤ k || dim ≤ p || dim ≤ q || !zeroIn bs (o + 3) 1 then .error (st.tabFlt 4 i e)
    else if constBad c then .error (st.tabFlt 5 i e)
    else if constZero c then st.entries dim e bs fuel (i + 1) n
    else if 1024 ≤ n then .error (st.tabFlt 6 i e)
    else (st.entries dim e bs fuel (i + 1) (n + 1)).map (⟨k, p, q, BitVec.ofNat 32 c⟩ :: ·)

/-- The table slot a matrix instruction names (R260). -/
def algOfInstr : Instr → Option AlgNo
  | .mopa _ _ _ m => m.alg
  | .mops _ _ _ m => m.alg
  | .mstrm _ _ _ m => m.alg
  | _ => none

/-- An effective address as a number, for a report. -/
def addr64 (e : Int) : Nat := (e % (2 ^ 64 : Int)).toNat

/-- ATLD (R253, R440): the slot waits for queued matrix instructions that name it (R145). -/
def execAtld (d : AlgNo) (b : BRegNo) (off : BitVec 9) (s : State) : Res :=
  finish (.atld d b off) do
    let e := s.me.eb b (64 * off.toInt)
    let a := addr64 e
    s.guard (e % 64 ≠ 0) 0x84 9 a 0
    let (h, s1) ← s.loadE b useLD e 64 0
    s.check (s.me.headChk h a)
    let (es, s2) ← s1.loadE b useLD (e + 64) (8 * field h 6 2) 0
    let ents ← s.orFail (s.me.entries (field h 4 1) a es (field h 6 2) 0 0)
    if s.me.mqueue.any (fun q => algOfInstr q.instr == some d) then .error (.hold s)
    else
      let t : AlgTable := ⟨field h 4 1, BitVec.ofNat 16 (field h 8 2), BitVec.ofNat 32 (field h 12 4), ents⟩
      .ok (s2.setMe ({ s2.me with alg := s2.me.alg.set d (some t) }.retire 1))

/-! ### ATINFO -/

/-- The item of R254. -/
def algItem (t : Option AlgTable) (item : Nat) : Word :=
  match t with
  | none => if item = 1 then 0xFFFFFFFFFFFFFFFF#64 else 0#64
  | some t =>
    if item = 0 then BitVec.ofNat 64 t.dim
    else if item = 1 then BitVec.ofNat 64 t.ents.length
    else if item = 2 then t.conj.setWidth 64
    else t.atid.setWidth 64

/-- ATINFO (R254). -/
def execAtinfo (d : XReg) (a : AlgNo) (item : BitVec 2) (s : State) : Res :=
  .next (s.writeX d (algItem s.me.alg[a] item.toNat))

/-! ### Products -/

/-- One entry of alg_tuple (R149): its component's new code, with the events of its rounding. `x` and `y` are the left
and right operands as the modifiers leave them, `j` the draw of its rounding. -/
def algStep (t : ETy) (rm : Rnd) (sat : Bool) (draw : Nat → Nat → Draw) (x y : Nat → Val)
    (acc : List (Nat × Nat × Ev)) (e : AlgEntry) : List (Nat × Nat × Ev) :=
  match acc[e.k]? with
  | none => acc
  | some (code, m, ev) =>
    let u := if isNan (x e.p) then x e.p else (exactMul (decodeVal .f32 e.c.toNat) (x e.p)).1
    let r := deliver t (fusedSum (decodeVal t code) [(u, y e.q)]) rm sat (draw e.k m)
    acc.set e.k (r.1, m + 1, ev ||| r.2)

/-- alg_tuple (R149, R150): codes and events of the components. -/
def algTuple (tb : AlgTable) (cjg opp : Bool) (t : ETy) (rm : Rnd) (sat : Bool) (draw : Nat → Nat → Draw)
    (y0 : List Nat) (a b : Nat → Nat) : List (Nat × Ev) :=
  let l (i : Nat) : Val := decodeVal t (a i)
  let r (i : Nat) : Val := if cjg && tb.conj.getLsbD i then vneg (decodeVal t (b i)) else decodeVal t (b i)
  (tb.ents.foldl (algStep t rm sat draw (if opp then r else l) (if opp then l else r))
    (y0.map (fun c => (c, 0, 0#7)))).map (fun e => (e.1, e.2.2))

/-- An instruction over tuples of dimension `n`: `f` gives the components of tuple j. It stops where a group and a
tuple both end (R147); the components behind the last tuple are written +0 (R146). -/
def State.tuplewise (s : State) (d : VRegNo) (t : ETy) (n : Nat) (m : MRegNo) (keep : Bool) (rnd : Rnd)
    (f : Nat → List (Nat × Ev)) : Run State :=
  let st := s.me
  if st.vl = 0 then s.completeV []
  else
    let hi := st.upto (Nat.lcm (groupLen (sbits t)) n) st.vl
    let nt := if hi = st.vl then st.vl / n else hi / n
    let lo := st.esr / n
    let rs := (List.range' lo (nt - lo)).flatMap (fun j =>
      let old := (List.range n).map (fun k => (st.code t d (j * n + k), 0#7))
      let cs := if st.active? m j then f j else if keep then old else List.replicate n (0, 0#7)
      cs.zipIdx.map (fun c => (j * n + c.2, c.1)))
    let evs : Evs := (rs.filter (fun r => r.2.2 ≠ 0#7)).map (fun r => (r.1, r.2.2))
    let cs := (List.range st.esr).map (st.code t d) ++ rs.map (·.2.1)
    if hi = st.vl then
      let cs := cs ++ List.replicate (st.vl - cs.length) 0
      (s.setMe ((st.setV d ((st.getV d).full t st.blk cs [])).advance rnd st.vl)).completeV evs
    else .ok ((s.setMe (st.setV d ((st.getV d).part t cs))).interrupt evs hi none)

/-- The table of a slot, or class 0x83 DETAIL 7 (R440). -/
def State.table (s : State) (c : AlgNo) : Run AlgTable :=
  match s.me.alg[c] with
  | some t => .ok t
  | none => s.fail (s.me.flt 0x83 7 0 c.val)

/-- AMUL and AMAC (R255). -/
def State.algMul (s : State) (acc : Bool) (d a b : VRegNo) (c : AlgNo) (m : VMod) (cjg opp : Bool) : Run State := do
  s.check (s.me.vregChk [d, a, b] ++ s.me.lenChk m.ty)
  let tb ← s.table c
  s.syncV
  let st := s.me
  let n := tb.dim
  s.tuplewise d m.ty n m.mask m.keep m.rnd (fun j =>
    algTuple tb cjg opp m.ty (st.rnd m.rnd) m.sat (fun k i => st.draw (j * n + k) i)
      ((List.range n).map (fun k => if acc then st.code m.ty d (j * n + k) else 0))
      (fun i => st.code m.ty a (j * n + i)) (fun i => st.code m.ty b (j * n + i)))

/-- AMUL (R255). -/
def execAmul (d a b : VRegNo) (c : AlgNo) (m : VMod) (cjg opp : Bool) (s : State) : Res :=
  finish (.amul d a b c m cjg opp) (s.algMul false d a b c m cjg opp)

/-- AMAC (R255). -/
def execAmac (d a b : VRegNo) (c : AlgNo) (m : VMod) (cjg opp : Bool) (s : State) : Res :=
  finish (.amac d a b c m cjg opp) (s.algMul true d a b c m cjg opp)

/-- ACONJ (R256): the sign bits of the selected components are inverted. -/
def execAconj (d a : VRegNo) (c : AlgNo) (ty : ETy) (mask : MRegNo) (keep : Bool) (s : State) : Res :=
  finish (.aconj d a c ty mask keep) do
    s.check (s.me.vregChk [d, a] ++ s.me.lenChk ty)
    let tb ← s.table c
    s.syncV
    let st := s.me
    s.tuplewise d ty tb.dim mask keep .rne (fun j =>
      (List.range tb.dim).map (fun i =>
        let x := st.code ty a (j * tb.dim + i)
        (if tb.conj.getLsbD i then x ^^^ 2 ^ (sbits ty - 1) else x, 0#7)))

end Sys2Proof.Machine
end

