-- ==== Sys2Proof/Machine/Integer.lean ====
section
/-! DEFINITION. Integer and immediate instructions, majors 0x01 and 0x02, and LID (R198 to R201). The value functions
are shared with the pair halves of R181. -/

namespace Sys2Proof.Machine

/-- 1 or 0. -/
def flag (b : Bool) : Word := if b then 1#64 else 0#64

/-- DIV: truncated toward zero; −1 for B = 0, and −2^63 / −1 wraps to −2^63 (R199). -/
def divS (a b : Word) : Word := if b = 0#64 then 0xFFFFFFFFFFFFFFFF#64 else BitVec.ofInt 64 (a.toInt.tdiv b.toInt)

/-- DIVU: all ones for B = 0 (R199). -/
def divU (a b : Word) : Word := if b = 0#64 then 0xFFFFFFFFFFFFFFFF#64 else BitVec.ofNat 64 (a.toNat / b.toNat)

/-- REM: the sign follows A; A for B = 0 (R199). -/
def remS (a b : Word) : Word := if b = 0#64 then a else BitVec.ofInt 64 (a.toInt.tmod b.toInt)

/-- REMU: A for B = 0 (R199). -/
def remU (a b : Word) : Word := if b = 0#64 then a else BitVec.ofNat 64 (a.toNat % b.toNat)

/-- The number of leading zero bits. -/
def clzOf (a : Word) : Nat := if a = 0#64 then 64 else 63 - Nat.log2 a.toNat

/-- The number of set bits. -/
def popcOf (a : Word) : Nat := ((List.range 64).filter (fun i => a.getLsbD i)).length

/-- An integer instruction of two sources: both are read before x[d] is written (R189). -/
def State.alu (s : State) (d a b : XReg) (f : Word → Word → Word) : Res :=
  .next (s.writeX d (f (s.me.getX a) (s.me.getX b)))

/-- An immediate instruction of one source. -/
def State.aluI (s : State) (d a : XReg) (f : Word → Word) : Res := .next (s.writeX d (f (s.me.getX a)))

/-! ### Values (R198, R200) -/

def valAdd (a b : Word) : Word := a + b
def valSub (a b : Word) : Word := a - b
def valMul (a b : Word) : Word := a * b
def valMulh (a b : Word) : Word := BitVec.ofInt 64 (a.toInt * b.toInt / 2 ^ 64)
def valMulhu (a b : Word) : Word := BitVec.ofNat 64 (a.toNat * b.toNat / 2 ^ 64)
def valDiv (a b : Word) : Word := divS a b
def valDivu (a b : Word) : Word := divU a b
def valRem (a b : Word) : Word := remS a b
def valRemu (a b : Word) : Word := remU a b
def valAnd (a b : Word) : Word := a &&& b
def valOr (a b : Word) : Word := a ||| b
def valXor (a b : Word) : Word := a ^^^ b
def valAndn (a b : Word) : Word := a &&& ~~~b
def valShl (a b : Word) : Word := a <<< (b.toNat % 64)
def valShr (a b : Word) : Word := a >>> (b.toNat % 64)
def valSra (a b : Word) : Word := a.sshiftRight (b.toNat % 64)
def valSlt (a b : Word) : Word := flag (a.toInt < b.toInt)
def valSltu (a b : Word) : Word := flag (a.toNat < b.toNat)
def valMin (a b : Word) : Word := if a.toInt < b.toInt then a else b
def valMax (a b : Word) : Word := if a.toInt < b.toInt then b else a

/-! ### Integer instructions (R198, R199) -/

/-- ADD. -/
def execAdd (d a b : XReg) (s : State) : Res := s.alu d a b valAdd

/-- SUB. -/
def execSub (d a b : XReg) (s : State) : Res := s.alu d a b valSub

/-- MUL. -/
def execMul (d a b : XReg) (s : State) : Res := s.alu d a b valMul

/-- MULH: the high half of the signed product. -/
def execMulh (d a b : XReg) (s : State) : Res := s.alu d a b valMulh

/-- MULHU: the high half of the unsigned product. -/
def execMulhu (d a b : XReg) (s : State) : Res := s.alu d a b valMulhu

/-- DIV (R199). -/
def execDiv (d a b : XReg) (s : State) : Res := s.alu d a b valDiv

/-- DIVU (R199). -/
def execDivu (d a b : XReg) (s : State) : Res := s.alu d a b valDivu

/-- REM (R199). -/
def execRem (d a b : XReg) (s : State) : Res := s.alu d a b valRem

/-- REMU (R199). -/
def execRemu (d a b : XReg) (s : State) : Res := s.alu d a b valRemu

/-- AND. -/
def execAnd (d a b : XReg) (s : State) : Res := s.alu d a b valAnd

/-- OR. -/
def execOr (d a b : XReg) (s : State) : Res := s.alu d a b valOr

/-- XOR. -/
def execXor (d a b : XReg) (s : State) : Res := s.alu d a b valXor

/-- ANDN. -/
def execAndn (d a b : XReg) (s : State) : Res := s.alu d a b valAndn

/-- SHL. -/
def execShl (d a b : XReg) (s : State) : Res := s.alu d a b valShl

/-- SHR. -/
def execShr (d a b : XReg) (s : State) : Res := s.alu d a b valShr

/-- SRA. -/
def execSra (d a b : XReg) (s : State) : Res := s.alu d a b valSra

/-- SLT. -/
def execSlt (d a b : XReg) (s : State) : Res := s.alu d a b valSlt

/-- SLTU. -/
def execSltu (d a b : XReg) (s : State) : Res := s.alu d a b valSltu

/-- MIN, signed. -/
def execMin (d a b : XReg) (s : State) : Res := s.alu d a b valMin

/-- MAX, signed. -/
def execMax (d a b : XReg) (s : State) : Res := s.alu d a b valMax

/-- CLZ. -/
def execClz (d a : XReg) (s : State) : Res := s.aluI d a (fun v => BitVec.ofNat 64 (clzOf v))

/-- POPC. -/
def execPopc (d a : XReg) (s : State) : Res := s.aluI d a (fun v => BitVec.ofNat 64 (popcOf v))

/-- SEL: A if x[c] is non-zero, else B. -/
def execSel (d a b c : XReg) (s : State) : Res :=
  s.alu d a b (fun x y => if s.me.getX c = 0#64 then y else x)

/-! ### Immediate instructions (R200); S is the sign-extended immediate -/

/-- ADDI. -/
def execAddi (d a : XReg) (i : BitVec 36) (s : State) : Res :=
  s.aluI d a (fun v => valAdd v (i.signExtend 64))

/-- ANDI. -/
def execAndi (d a : XReg) (i : BitVec 36) (s : State) : Res :=
  s.aluI d a (fun v => valAnd v (i.signExtend 64))

/-- ORI. -/
def execOri (d a : XReg) (i : BitVec 36) (s : State) : Res :=
  s.aluI d a (fun v => valOr v (i.signExtend 64))

/-- XORI. -/
def execXori (d a : XReg) (i : BitVec 36) (s : State) : Res :=
  s.aluI d a (fun v => valXor v (i.signExtend 64))

/-- SLTI. -/
def execSlti (d a : XReg) (i : BitVec 36) (s : State) : Res :=
  s.aluI d a (fun v => valSlt v (i.signExtend 64))

/-- SLTUI. -/
def execSltui (d a : XReg) (i : BitVec 36) (s : State) : Res :=
  s.aluI d a (fun v => valSltu v (i.signExtend 64))

/-- SHLI. -/
def execShli (d a : XReg) (n : BitVec 6) (s : State) : Res := s.aluI d a (fun a => a <<< n.toNat)

/-- SHRI. -/
def execShri (d a : XReg) (n : BitVec 6) (s : State) : Res := s.aluI d a (fun a => a >>> n.toNat)

/-- SRAI. -/
def execSrai (d a : XReg) (n : BitVec 6) (s : State) : Res := s.aluI d a (fun a => a.sshiftRight n.toNat)

/-- LI. -/
def execLi (d : XReg) (i : BitVec 36) (s : State) : Res := .next (s.writeX d (i.signExtend 64))

/-- ADDPC: the address of the ADDPC + S. -/
def execAddpc (d : XReg) (i : BitVec 36) (s : State) : Res := .next (s.writeX d (s.me.pc + i.signExtend 64))

/-- LID, a double word (R201). -/
def execLid (d : XReg) (v : Word) (s : State) : Res := .next (s.setMe ((s.me.setX d v).retire 2))

end Sys2Proof.Machine
end

