-- ==== Sys2Proof/Machine/Bounds.lean ====
section
/-! DEFINITION. Bound registers and generic addresses, major 0x07 (R217 to R219). -/

namespace Sys2Proof.Machine

/-- The code object the strand runs in. -/
def State.objOf (s : State) : Option Obj := (s.ctx? s.me.ctx).bind (fun c => c.objs[s.me.obj]?)

/-- Write a bound register and go on. -/
def State.writeB (s : State) (d : BRegNo) (b : Bound) : State := s.setMe ((s.me.setB d b).retire 1)

/-- BLD (R217); an absent entry is class 0x0A (R396). -/
def execBld (d : BRegNo) (entry : BitVec 16) (s : State) : Res :=
  finish (.bld d entry) (
    let binds := (s.objOf.map (·.binds)).getD []
    match binds[entry.toNat]? with
    | some b => .ok (s.writeB d b.minted)
    | none => s.fail (s.me.flt 0x0A 0 entry.toNat binds.length))

/-- BNARROW (R218); offsets beyond the range are class 0x84 DETAIL 4. -/
def execBnarrow (d a : BRegNo) (b c : XReg) (s : State) : Res :=
  finish (.bnarrow d a b c) do
    let r := s.me.getB a
    let o := s.me.getX b
    let l := s.me.getX c
    s.guard (r.len.toNat < o.toNat) 0x84 4 o.toNat 0
    s.guard (r.len.toNat - o.toNat < l.toNat) 0x84 4 l.toNat 0
    .ok (s.writeB d ⟨r.base + o, r.base + o, l, r.perm⟩)

/-- BSETA (R217). -/
def execBseta (d : BRegNo) (a : XReg) (s : State) : Res :=
  .next (s.writeB d { s.me.getB d with addr := s.me.getX a })

/-- BGETA (R217). -/
def execBgeta (d : XReg) (a : BRegNo) (s : State) : Res := .next (s.writeX d (s.me.getB a).addr)

/-- BPERM (R217). -/
def execBperm (d a : BRegNo) (mask : BitVec 9) (s : State) : Res :=
  let r := s.me.getB a
  .next (s.writeB d { r with perm := r.perm &&& ~~~(mask.setWidth 16) })

/-- The bits of an aperture's offset that must be zero are zero (R71). -/
def apZero (ap a : Nat) : Bool :=
  if ap = 0xF0 then bitsOf a 55 18 == 0
  else if ap = 0xF1 then bitsOf a 55 23 == 0
  else if ap = 0xF2 then bitsOf a 47 23 == 0
  else true

/-- ACVT's value (R219). -/
def acvtVal (ap : Nat) (toGeneric : Bool) (a : Nat) : Word :=
  if toGeneric then
    (if bitsOf a 63 56 = 0 ∧ apZero ap a ∧ (ap = 0xF2 → bitsOf a 55 48 < 16) then BitVec.ofNat 64 (ap * 2 ^ 56 + a) else 0xFFFFFFFFFFFFFFFF#64)
  else if bitsOf a 63 56 = ap ∧ apZero ap a then BitVec.ofNat 64 (bitsOf a 55 0) else 0xFFFFFFFFFFFFFFFF#64

/-- ACVT (R219). -/
def execAcvt (d a : XReg) (ap : BitVec 8) (dir : Bool) (s : State) : Res :=
  .next (s.writeX d (acvtVal ap.toNat dir (s.me.getX a).toNat))

/-- ATEST's value (R219). -/
def atestVal (ap a : Nat) : Bool :=
  match apertureOf a with
  | none => false
  | some _ => ap == 0xFF || bitsOf a 63 56 == ap

/-- ATEST (R219). -/
def execAtest (d a : XReg) (ap : BitVec 8) (s : State) : Res :=
  .next (s.writeX d (flag (atestVal ap.toNat (s.me.getX a).toNat)))

end Sys2Proof.Machine
end

