-- ==== Sys2Proof/Machine/Branch.lean ====
section
/-! DEFINITION. Branches, calls and strip loops, major 0x05 (R209 to R212). A target is checked when it is fetched
(R398). -/

namespace Sys2Proof.Machine

/-- The address a word offset names (R185, R209). -/
def Strand.target (st : Strand) (off : BitVec 36) : Word := st.pc + off.signExtend 64 * 8#64

/-- A conditional branch (R209). -/
def State.branch (s : State) (taken : Bool) (off : BitVec 36) : Res :=
  .next (if taken then s.jump (s.me.target off) else s.retire 1)

def execBeq (a b : XReg) (off : BitVec 36) (s : State) : Res := s.branch (s.me.getX a == s.me.getX b) off
def execBne (a b : XReg) (off : BitVec 36) (s : State) : Res := s.branch (s.me.getX a != s.me.getX b) off
def execBlt (a b : XReg) (off : BitVec 36) (s : State) : Res :=
  s.branch ((s.me.getX a).toInt < (s.me.getX b).toInt) off
def execBge (a b : XReg) (off : BitVec 36) (s : State) : Res :=
  s.branch ((s.me.getX b).toInt ≤ (s.me.getX a).toInt) off
def execBltu (a b : XReg) (off : BitVec 36) (s : State) : Res :=
  s.branch ((s.me.getX a).toNat < (s.me.getX b).toNat) off
def execBgeu (a b : XReg) (off : BitVec 36) (s : State) : Res :=
  s.branch ((s.me.getX b).toNat ≤ (s.me.getX a).toNat) off

/-- Push the return address and jump (R211). -/
def State.call (s : State) (target : Word) : Run State := (s.pushRs (s.me.pc + 8#64)).map (fun t => t.jump target)

/-- JAL (R211). -/
def execJal (off : BitVec 36) (s : State) : Res := finish (.jal off) (s.call (s.me.target off))

/-- JALR (R211). -/
def execJalr (a : XReg) (off : BitVec 36) (s : State) : Res :=
  finish (.jalr a off) (s.call (s.me.getX a + off.signExtend 64 * 8#64))

/-- RET (R211). -/
def execRet (s : State) : Res := finish .ret (s.popRs.map (fun r => r.2.jump r.1))

/-- BSTRIP (R212): no progress is class 0x06, one register for both fields class 0x84 DETAIL 2 (R439). -/
def execBstrip (a b : XReg) (off : BitVec 36) (s : State) : Res :=
  finish (.bstrip a b off) do
    let n := (s.me.getX a).toNat
    let k := min s.me.vl n
    s.guard (a = b) 0x84 2 a.val 0
    s.guard (k = 0) 0x06 0 n s.me.vl
    let st := { s.me with stripPrev := BitVec.ofNat 64 n }
    let st := (st.setX a (BitVec.ofNat 64 (n - k))).setX b (s.me.getX b + BitVec.ofNat 64 k)
    .ok (s.setMe (if n = k then st.retire 1 else st.jump (s.me.target off)))

end Sys2Proof.Machine
end

