-- ==== Sys2Proof/WellFormed.lean ====
section
/-! DEFINITION. Which instructions are well formed: the types, rounding codes and modifiers each row admits (R202 to
R208, R213, R222 to R233, R244, R252, R260, R288, R292, R298, R310, R317), the aperture codes of R219, and the limits of
a pair (R182). -/

namespace Sys2Proof

open Sys2Proof.Machine

/-- The types an FCVT route admits for source and target (R205). -/
def fcvtTypes (route : Nat) (src t : ETy) : Bool :=
  match route with
  | 0 => isF src && isF t
  | 1 => isAtomTy src && isF t
  | _ => isF src && isAtomTy t

/-- RND of an arithmetic form: 0 for integer types (R224). -/
def rndFor (t : ETy) (r : Rnd) : Bool := isF t || r == .rne

/-- The rounding codes 0 to 4 and 6 (R230, R257, R288). -/
def notRst (r : Rnd) : Bool := r != .rst

/-- The rounding codes 0 to 4 (R298). -/
def fixedRnd (r : Rnd) : Bool := r != .rst && r != .dyn

/-- Forms whose integer types allow .sat, or whose types are all floating. -/
def vmodSat (m : VMod) (okTy : ETy → Bool) : Bool := okTy m.ty && rndFor m.ty m.rnd

/-- Forms whose integer types do not allow .sat. -/
def vmodF (m : VMod) (okTy : ETy → Bool) : Bool := okTy m.ty && rndFor m.ty m.rnd && (isF m.ty || !m.sat)

/-- Integer forms: no rounding, no saturation. -/
def vmodI (m : VMod) : Bool := isI m.ty && m.rnd == .rne && !m.sat

/-- VABS and VNEG: a float form rounds nothing and does not saturate (R225). -/
def vmodSign (m : VMod) : Bool := isFI m.ty && m.rnd == .rne && (isI m.ty || !m.sat)

/-- Aperture codes of R219; 0xFF is a code of ATEST only. -/
def apCode (ap : Nat) : Bool := ap == 0 || ap == 0xF0 || ap == 0xF1 || ap == 0xF2

/-- Type and rounding of a matrix product, and its algebra modifiers (R257, R258, R263, R265). -/
def pmodOk (m : PMod) : Bool :=
  isMatTy m.ty && notRst m.rnd && (!isMatInt m.ty || m.rnd == .rne)
    && (match m.alg with
      | some _ => isPairTy m.ty
      | none => !m.opp && !m.cjg)

/-- The type of a WM word that carries one. -/
def byteWM (m : WM) : Bool := isByteTy m.ty

/-! ### Pairs (R182) -/

/-- The destination of a half in slot B; none for x0. -/
def HalfB.dest : HalfB → Nat
  | .add d .. | .sub d .. | .and d .. | .or d .. | .xor d .. | .shl d .. | .shr d .. | .slt d ..
  | .addi d .. | .shli d .. | .shri d .. | .li d .. => d.val

/-- Do the x destinations of slot A meet that of slot B. -/
def sameDest (as : List Nat) (b : HalfB) : Bool := b.dest != 0 && as.contains b.dest

/-- Two vector registers read: their numbers are equal or differ in parity. -/
def parityOk (a b : VRegNo) : Bool := a == b || a.val % 2 != b.val % 2

/-- Is an instruction well formed. -/
def Instr.wf : Instr → Bool
  | .fadd _ _ _ m | .fsub _ _ _ m | .fmul _ _ _ m | .fdiv _ _ _ m | .fsqrt _ _ m | .fma _ _ _ _ m => isF m.ty
  | .fmin _ _ _ t | .fmax _ _ _ t | .fclass _ _ t | .fcmp _ _ _ _ t | .fmvxf _ _ t | .fmvfx _ _ t => isF t
  | .fcvt _ _ src route m => fcvtTypes route.val src m.ty
  | .ld m | .st m => isLdTy m.ty
  | .fld m | .fst m => isF m.ty
  | .lr m | .sc m => isAtomTy m.ty
  | .amo _ _ _ _ _ _ t _ => isAtomTy t
  | .acvt _ _ ap _ => apCode ap.toNat
  | .atest _ _ ap => apCode ap.toNat || ap.toNat == 0xFF
  | .vadd _ _ _ m | .vsub _ _ _ m | .vmul _ _ _ m | .vdiv _ _ _ m => vmodSat m isFI
  | .vmin _ _ _ m | .vmax _ _ _ m => vmodF m isFI
  | .vmulh _ _ _ m | .vrem _ _ _ m | .vand _ _ _ m | .vor _ _ _ m | .vxor _ _ _ m | .vshl _ _ _ m
  | .vshr _ _ _ m | .vsra _ _ _ m => vmodI m
  | .vfma _ _ _ _ m | .vfms _ _ _ _ m | .vfnma _ _ _ _ m | .vsqrt _ _ m | .vexp2 _ _ m | .vlog2 _ _ m
  | .vrsq _ _ m => isF m.ty
  | .vabs _ _ m | .vneg _ _ m => vmodSign m
  | .vcvt _ _ _ m => !isBlock m.ty
  | .vquant _ _ t _ _ src k => isBlock t && isF src && (t == .b4 || k == 0#2)
  | .vdeq _ _ src m => isBlock src && isF m.ty
  | .vclass _ _ t _ _ => isF t
  | .vcmp _ _ _ _ t _ _ => isFI t
  | .vperm _ _ _ t _ _ | .vcomp _ _ t _ => !isBlock t
  | .vreds _ _ _ t r _ _ => isFI t && rndFor t r && notRst r
  | .vredm _ _ _ t _ _ => isFI t
  | .vscan _ _ _ m => isFI m.ty && rndFor m.ty m.rnd && notRst m.rnd
  | .vlds m | .vsts m | .vldx m | .vstx m | .vldt m | .vstt m | .slq m => byteWM m
  | .vamo _ _ _ _ op m =>
    (isAtomTy m.ty && m.rnd == .rne && op != 7#3) || ((m.ty == .f32 || m.ty == .f64) && notRst m.rnd && op == 0#3)
  | .vcas _ _ _ _ m => isAtomTy m.ty && m.rnd == .rne && !m.sat
  | .gcsleep _ _ _ t _ _ => isAtomTy t
  | .awin _ _ _ m => isWinTy m.ty && notRst m.rnd && !m.sat
  | .aacc _ _ _ m => isWinTy m.ty && notRst m.rnd
  | .amerge _ _ t r _ _ _ => isWinTy t && notRst r
  | .pcmp _ _ _ _ _ t _ _ => isFI t
  | .pblend _ _ _ _ m => isF m.ty
  | .pgrad _ _ b c k m => isF m.ty && (k == 1 || (b == 0 && c.val < 8))
  | .pseed _ _ _ t _ _ _ => isF t || t == .fr16
  | .amul _ _ _ _ m _ _ | .amac _ _ _ _ m _ _ => isF m.ty
  | .aconj _ _ _ t _ _ => isF t
  | .mopa _ _ _ m | .mops _ _ _ m => pmodOk m && !m.trn
  | .mldw _ _ t trn => isMatTy t && (!trn || !isBlock t)
  | .mstrm _ _ _ m => pmodOk m && (!m.trn || !isBlock m.ty)
  | .mrdrow _ _ _ m | .mwrrow _ _ _ m => isRowTy m.ty
  | .mldacc _ _ _ t => t == .f32 || t == .i32
  | .mstacc _ _ _ _ _ m => isStaccTy m.ty
  | .stpair _ _ _ _ _ m => isPairTy m.ty
  | .cpinv a all => !all || a == 0
  | .fgath _ _ t | .fscat _ _ t => !isBlock t
  | .fscata _ _ m => isSumTy m.ty && fixedRnd m.rnd
  | .coll _ _ m => isCollTy m.ty && fixedRnd m.rnd
  | .kvacc _ _ _ t r _ => isF t && notRst r
  | .pairAdd d _ _ o | .pairSub d _ _ o | .pairAnd d _ _ o | .pairOr d _ _ o | .pairXor d _ _ o | .pairShl d _ _ o
  | .pairShr d _ _ o | .pairSlt d _ _ o => !sameDest [d.val] o
  | .pairAddi d _ _ o | .pairShli d _ _ o | .pairShri d _ _ o | .pairLi d _ o | .pairLd d _ _ _ o =>
    !sameDest [d.val] o
  | .pairVadd _ a b _ | .pairVsub _ a b _ | .pairVmul _ a b _ | .pairVmin _ a b _ | .pairVmax _ a b _ => parityOk a b
  | .pairSlqtake _ a b o => !sameDest [a.val, b.val] o
  | _ => true

end Sys2Proof
end

