-- ==== Sys2Proof/Decode.lean ====
section
/-! DEFINITION. Decoding (R170 to R186, R327, R431 to R436): from a word to an instruction or a named refusal, and the
encoder written from the same layouts. A refused word carries the DETAIL of class 0x80 and its FINFO2 (R432, R434). -/

namespace Sys2Proof

open Sys2Proof.Machine

/-- Why bytes are no instruction: fewer bytes than a word, a continuation word in first place, a first word with no
continuation after it (R171), or an encoding of R434 with DETAIL and FINFO2. -/
inductive Reject where
  | short
  | continuation
  | unpaired
  | encoding (detail info : Nat)
  deriving DecidableEq, Repr

/-- Broken conditions: DETAIL, and the highest bit of the field (for DETAIL 11, the limit). -/
abbrev Errs := List (Nat × Nat)

/-- The condition reported: lowest DETAIL, then highest bit (R433). -/
def worse (a b : Nat × Nat) : Nat × Nat := if b.1 < a.1 || (b.1 == a.1 && a.2 < b.2) then b else a

def worst : Errs → Option (Nat × Nat)
  | [] => none
  | e :: es => some (es.foldl worse e)

/-- A decoded row: as itself, or as a late row (see `Late`). -/
inductive Raw where
  | ins (i : Instr)
  | late (l : Late)
  deriving DecidableEq, Repr

/-- The instruction a decoded row is. -/
noncomputable def Raw.instr : Raw → Instr
  | .ins i => i
  | .late l => l.instr

abbrev Dec := Except (Nat × Nat) Raw

def decided (es : Errs) (i : Instr) : Dec :=
  match worst es with
  | some e => .error e
  | none => .ok (.ins i)

def decidedLate (es : Errs) (l : Late) : Dec :=
  match worst es with
  | some e => .error e
  | none => .ok (.late l)

/-! ### Fields -/

/-- A reserved field must be zero (DETAIL 3). -/
def zf (w hi lo : Nat) : Errs := if bitsOf w hi lo = 0 then [] else [(3, hi)]

/-- A register field of six bits ending at bit `hi` must name one of `n` registers (DETAIL 4). -/
def rf (n w hi : Nat) : Errs := if bitsOf w hi (hi - 5) < n then [] else [(4, hi)]

/-- The register a field names. -/
def rg (w hi : Nat) : Fin 32 := Fin.ofNat 32 (bitsOf w hi (hi - 5))
def rg16 (w hi : Nat) : Fin 16 := Fin.ofNat 16 (bitsOf w hi (hi - 5))
def rg8 (w hi : Nat) : Fin 8 := Fin.ofNat 8 (bitsOf w hi (hi - 5))
def rg4 (w hi : Nat) : Fin 4 := Fin.ofNat 4 (bitsOf w hi (hi - 5))

def bv (n w hi lo : Nat) : BitVec n := BitVec.ofNat n (bitsOf w hi lo)
def bit (w n : Nat) : Bool := bitsOf w n n = 1

/-- A type field of five bits ending at `hi` (DETAIL 5). -/
def tf (ok : ETy → Bool) (w hi : Nat) : Errs :=
  match etyOf (bitsOf w hi (hi - 4)) with
  | some t => if ok t then [] else [(5, hi)]
  | none => [(5, hi)]

def ty (w hi : Nat) : ETy := (etyOf (bitsOf w hi (hi - 4))).getD .f32
def tyM (w : Nat) : ETy := ty w 23

/-- The rounding field of MOD (DETAIL 6). -/
def rdf (ok : Rnd → Bool) (w : Nat) : Errs :=
  match rndOf (bitsOf w 18 16) with
  | some r => if ok r then [] else [(6, 18)]
  | none => [(6, 18)]

/-- RND must be zero (DETAIL 6). -/
def rz (w : Nat) : Errs := if bitsOf w 18 16 = 0 then [] else [(6, 18)]

def rndM (w : Nat) : Rnd := (rndOf (bitsOf w 18 16)).getD .rne
def satM (w : Nat) : Bool := bit w 12
def maskM (w : Nat) : MRegNo := Fin.ofNat 8 (bitsOf w 15 13)
def keepM (w : Nat) : Bool := bit w 8
def any (_ : Rnd) : Bool := true
def anyT (_ : ETy) : Bool := true
def nonBlock (t : ETy) : Bool := !isBlock t

/-- An ordering field of three bits ending at `hi` (DETAIL 7), and a scope field (DETAIL as the place asks). -/
def orf (w hi : Nat) : Errs := if bitsOf w hi (hi - 2) < 4 then [] else [(7, hi)]
def scf (det w hi : Nat) : Errs := if bitsOf w hi (hi - 2) < 6 then [] else [(det, hi)]
def ordAt (w hi : Nat) : MOrd := (ordOf (bitsOf w hi (hi - 2))).getD .plain
def scopeAt (w hi : Nat) : Scope := (scopeOf (bitsOf w hi (hi - 2))).getD .st

/-- A relation code in OPS 2:0 (DETAIL 9). -/
def relf (w : Nat) : Errs := if bitsOf w 2 0 < 6 then [] else [(9, 2)]
def relAt (w : Nat) : Rel := (relOf (bitsOf w 2 0)).getD .eq

/-- A code of OPS or MOD below a limit (DETAIL 9). -/
def cf (lim w hi lo : Nat) : Errs := if bitsOf w hi lo < lim then [] else [(9, hi)]

def fmod (w : Nat) : FMod := ⟨tyM w, rndM w, satM w⟩
def vmod (w : Nat) : VMod := ⟨tyM w, rndM w, satM w, maskM w, keepM w⟩
def amod (w : Nat) : AMod :=
  ⟨tyM w, rndM w, satM w, maskM w, bv 3 w 8 6, ordAt w 5, scopeAt w 2⟩
def algM (w : Nat) : Option AlgNo := if bit w 2 then some (Fin.ofNat 4 (bitsOf w 1 0)) else none
def pmod (w : Nat) : PMod := ⟨tyM w, rndM w, satM w, bit w 11, bit w 10, bit w 9, algM w⟩

/-- A WM word: its fields, with the index below 32 (x) or from 32 (v). -/
def wmAt (w : Nat) : WM :=
  ⟨rg w 47, Fin.ofNat 16 (bitsOf w 41 38), Fin.ofNat 32 (bitsOf w 37 32), bv 3 w 31 29, ordAt w 28, scopeAt w 25, ty w 22,
    bv 18 w 17 0⟩

/-- Which index field a form takes (R173): a register of the other file is refused as DETAIL 4 (log entry 119). -/
def ixX (w : Nat) : Errs := if bitsOf w 37 32 < 32 then [] else [(4, 37)]
/-- The index of VLDX and VSTX is a vector register (log entry 119). -/
def ixV (w : Nat) : Errs := if 32 ≤ bitsOf w 37 32 then [] else [(4, 37)]
def wmf (ok : ETy → Bool) (w : Nat) : Errs := rf 32 w 47 ++ tf ok w 22 ++ orf w 28 ++ scf 8 w 25

/-! ### Majors -/

def noMinor : Dec := .error (1, 53)

/-- Major 0x00, WS (R190). -/
def dec00 (w : Nat) : Nat → Dec
  | 0 => decided (zf w 47 42 ++ zf w 41 36 ++ zf w 35 24 ++ zf w 23 0) .nop
  | 1 => decided (zf w 47 42 ++ zf w 41 36 ++ zf w 35 24 ++ zf w 23 0) .exit
  | 2 => decided (rf 32 w 47 ++ rf 32 w 41 ++ zf w 35 24) (.svc (rg w 47) (rg w 41) (bv 24 w 23 0))
  | 3 => decided (zf w 47 42 ++ zf w 41 36 ++ zf w 35 24) (.brk (bv 24 w 23 0))
  | 4 => decided (zf w 47 42 ++ zf w 41 36 ++ zf w 35 24 ++ zf w 23 0) .eret
  | 5 => match sysRegOf (bitsOf w 35 24) with
    | some r => decided (rf 32 w 47 ++ zf w 41 36 ++ zf w 23 0) (.rdsr (rg w 47) r)
    | none => decided (rf 32 w 47 ++ zf w 41 36 ++ zf w 23 0 ++ [(10, 35)]) .nop
  | 6 => match sysRegOf (bitsOf w 35 24) with
    | some .vtype => decided (zf w 47 42 ++ rf 32 w 41 ++ zf w 23 0) (.wrsrVtype (rg w 41))
    | some r => decided (zf w 47 42 ++ rf 32 w 41 ++ zf w 23 0) (.wrsr r (rg w 41))
    | none => decided (zf w 47 42 ++ rf 32 w 41 ++ zf w 23 0 ++ [(10, 35)]) .nop
  | 7 => match sysRegOf (bitsOf w 35 24) with
    | some r => decided (rf 32 w 47 ++ rf 32 w 41 ++ zf w 23 0) (.xchsr (rg w 47) r (rg w 41))
    | none => decided (rf 32 w 47 ++ rf 32 w 41 ++ zf w 23 0 ++ [(10, 35)]) .nop
  | 8 => decided (zf w 47 42 ++ zf w 41 36 ++ zf w 35 24 ++ zf w 23 3 ++ scf 8 w 2) (.fence (scopeAt w 2))
  | 9 => decided (zf w 47 42 ++ zf w 41 36 ++ zf w 35 24 ++ zf w 23 0) .ifence
  | 10 => decided (zf w 47 42 ++ zf w 41 36 ++ zf w 35 24 ++ zf w 23 0) .yield
  | 11 => decided (rf 32 w 47 ++ zf w 41 36 ++ zf w 35 24 ++ zf w 23 0) (.rdtime (rg w 47))
  | 12 => decided (zf w 47 42 ++ rf 32 w 41 ++ zf w 35 24 ++ zf w 23 0) (.waitt (rg w 41))
  | 13 => decided (zf w 47 42 ++ zf w 41 36 ++ zf w 35 24 ++ zf w 23 0) .waite
  | 14 => decided (zf w 47 42 ++ zf w 41 36 ++ zf w 35 24 ++ zf w 23 3 ++ scf 8 w 2) (.sev (scopeAt w 2))
  | _ => noMinor

/-- Three x registers, the rest zero. -/
def xxx (w : Nat) (f : XReg → XReg → XReg → Instr) : Dec :=
  decided (rf 32 w 47 ++ rf 32 w 41 ++ rf 32 w 35 ++ zf w 29 24 ++ zf w 23 0) (f (rg w 47) (rg w 41) (rg w 35))

/-- Major 0x01 (R198). -/
def dec01 (w : Nat) : Nat → Dec
  | 0 => xxx w .add
  | 1 => xxx w .sub
  | 2 => xxx w .mul
  | 3 => xxx w .mulh
  | 4 => xxx w .mulhu
  | 5 => xxx w .div
  | 6 => xxx w .divu
  | 7 => xxx w .rem
  | 8 => xxx w .remu
  | 9 => xxx w .and
  | 10 => xxx w .or
  | 11 => xxx w .xor
  | 12 => xxx w .andn
  | 13 => xxx w .shl
  | 14 => xxx w .shr
  | 15 => xxx w .sra
  | 16 => xxx w .slt
  | 17 => xxx w .sltu
  | 18 => xxx w .min
  | 19 => xxx w .max
  | 20 => decidedLate (rf 32 w 47 ++ rf 32 w 41 ++ zf w 35 30 ++ zf w 29 24 ++ zf w 23 0) (.clz (rg w 47) (rg w 41))
  | 21 => decidedLate (rf 32 w 47 ++ rf 32 w 41 ++ zf w 35 30 ++ zf w 29 24 ++ zf w 23 0) (.popc (rg w 47) (rg w 41))
  | 22 => decided (rf 32 w 47 ++ rf 32 w 41 ++ rf 32 w 35 ++ rf 32 w 29 ++ zf w 23 0)
    (.sel (rg w 47) (rg w 41) (rg w 35) (rg w 29))
  | _ => noMinor

def wiX (w : Nat) (f : XReg → XReg → BitVec 36 → Instr) : Dec :=
  decided (rf 32 w 47 ++ rf 32 w 41) (f (rg w 47) (rg w 41) (bv 36 w 35 0))

def wiS (w : Nat) (f : XReg → XReg → BitVec 6 → Instr) : Dec :=
  decided (rf 32 w 47 ++ rf 32 w 41 ++ zf w 35 6) (f (rg w 47) (rg w 41) (bv 6 w 5 0))

/-- Major 0x02 (R200). -/
def dec02 (w : Nat) : Nat → Dec
  | 0 => wiX w .addi
  | 1 => wiX w .andi
  | 2 => wiX w .ori
  | 3 => wiX w .xori
  | 4 => wiS w .shli
  | 5 => wiS w .shri
  | 6 => wiS w .srai
  | 7 => wiX w .slti
  | 8 => wiX w .sltui
  | 9 => decided (rf 32 w 47 ++ zf w 41 36) (.li (rg w 47) (bv 36 w 35 0))
  | 10 => decided (rf 32 w 47 ++ zf w 41 36) (.addpc (rg w 47) (bv 36 w 35 0))
  | _ => noMinor

/-- Major 0x03, with the payload of the continuation word (R175, R201, R281, R295). -/
def dec03 (w c : Nat) : Nat → Dec
  | 0 => decided (rf 32 w 47 ++ zf w 41 36 ++ zf w 35 2)
    (.lid (rg w 47) (BitVec.ofNat 64 (bitsOf w 1 0 * 2 ^ 62 + bitsOf c 61 0)))
  | 1 => decided (rf 16 w 41 ++ zf w 35 34)
    (.cpset (bv 6 w 47 42) (rg16 w 41) (BitVec.ofNat 32 (bitsOf w 33 2))
      (BitVec.ofNat 32 (bitsOf w 1 0 * 2 ^ 30 + bitsOf c 61 32)) (BitVec.ofNat 32 (bitsOf c 31 0)))
  | 2 => decided (rf 32 w 47 ++ rf 16 w 41 ++ zf w 35 0) (.tdnew (rg w 47) (rg16 w 41) (bv 62 c 61 0))
  | _ => noMinor

/-- A float form: MASK, OPP, CJG, TRN and OPS zero but for `used` low bits. -/
def fz (w : Nat) : Errs := zf w 15 13 ++ zf w 11 11 ++ zf w 10 10 ++ zf w 9 9

def fff (w : Nat) (f : FReg → FReg → FReg → FMod → Instr) : Dec :=
  decided (rf 32 w 47 ++ rf 32 w 41 ++ rf 32 w 35 ++ zf w 29 24 ++ tf isF w 23 ++ rdf any w ++ fz w ++ zf w 8 0)
    (f (rg w 47) (rg w 41) (rg w 35) (fmod w))

/-- A scalar form that rounds nothing: RND and SAT zero. -/
def fq (w : Nat) : Errs := tf isF w 23 ++ rz w ++ fz w ++ zf w 12 12

/-- Major 0x04 (R202 to R208). -/
def dec04 (w : Nat) : Nat → Dec
  | 0 => fff w .fadd
  | 1 => fff w .fsub
  | 2 => fff w .fmul
  | 3 => fff w .fdiv
  | 4 => decided (rf 32 w 47 ++ rf 32 w 41 ++ zf w 35 30 ++ zf w 29 24 ++ tf isF w 23 ++ rdf any w ++ fz w ++ zf w 8 0)
    (.fsqrt (rg w 47) (rg w 41) (fmod w))
  | 5 => decided (rf 32 w 47 ++ rf 32 w 41 ++ rf 32 w 35 ++ rf 32 w 29 ++ tf isF w 23 ++ rdf any w ++ fz w ++ zf w 8 0)
    (.fma (rg w 47) (rg w 41) (rg w 35) (rg w 29) (fmod w))
  | 6 => decided (rf 32 w 47 ++ rf 32 w 41 ++ rf 32 w 35 ++ zf w 29 24 ++ fq w ++ zf w 8 0)
    (.fmin (rg w 47) (rg w 41) (rg w 35) (tyM w))
  | 7 => decided (rf 32 w 47 ++ rf 32 w 41 ++ rf 32 w 35 ++ zf w 29 24 ++ fq w ++ zf w 8 0)
    (.fmax (rg w 47) (rg w 41) (rg w 35) (tyM w))
  | 8 =>
    let route := bitsOf w 8 7
    let src := ty w 4
    decided (rf 32 w 47 ++ rf 32 w 41 ++ zf w 35 30 ++ zf w 29 24 ++ rdf any w ++ fz w ++ cf 3 w 8 7 ++ zf w 6 5
      ++ (if route = 3 then tf (fun t => isF t || isAtomTy t) w 23 ++ tf (fun t => isF t || isAtomTy t) w 4 else
        tf (if route = 2 then isAtomTy else isF) w 23 ++ tf (if route = 1 then isAtomTy else isF) w 4))
      (.fcvt (rg w 47) (rg w 41) src (Fin.ofNat 3 route) (fmod w))
  | 9 => decided (rf 32 w 47 ++ rf 32 w 41 ++ zf w 35 30 ++ zf w 29 24 ++ fq w ++ zf w 8 0)
    (.fclass (rg w 47) (rg w 41) (tyM w))
  | 10 => decided (rf 32 w 47 ++ rf 32 w 41 ++ rf 32 w 35 ++ zf w 29 24 ++ fq w ++ zf w 8 3 ++ relf w)
    (.fcmp (rg w 47) (relAt w) (rg w 41) (rg w 35) (tyM w))
  | 11 => decided (rf 32 w 47 ++ rf 32 w 41 ++ zf w 35 30 ++ zf w 29 24 ++ fq w ++ zf w 8 0)
    (.fmvxf (rg w 47) (rg w 41) (tyM w))
  | 12 => decided (rf 32 w 47 ++ rf 32 w 41 ++ zf w 35 30 ++ zf w 29 24 ++ fq w ++ zf w 8 0)
    (.fmvfx (rg w 47) (rg w 41) (tyM w))
  | _ => noMinor

def wb2 (w : Nat) (f : XReg → XReg → BitVec 36 → Instr) : Dec :=
  decided (rf 32 w 47 ++ rf 32 w 41) (f (rg w 47) (rg w 41) (bv 36 w 35 0))

/-- Major 0x05, WB (R209 to R212). -/
def dec05 (w : Nat) : Nat → Dec
  | 0 => wb2 w .beq
  | 1 => wb2 w .bne
  | 2 => wb2 w .blt
  | 3 => wb2 w .bge
  | 4 => wb2 w .bltu
  | 5 => wb2 w .bgeu
  | 6 => decided (zf w 47 42 ++ zf w 41 36) (.jal (bv 36 w 35 0))
  | 7 => decided (rf 32 w 47 ++ zf w 41 36) (.jalr (rg w 47) (bv 36 w 35 0))
  | 8 => decided (zf w 47 42 ++ zf w 41 36 ++ zf w 35 0) .ret
  | 9 => wb2 w .bstrip
  | _ => noMinor

def wmX (ok : ETy → Bool) (w : Nat) (f : WM → Instr) : Dec := decided (wmf ok w ++ ixX w) (f (wmAt w))
def wmV (ok : ETy → Bool) (w : Nat) (f : WM → Instr) : Dec := decided (wmf ok w ++ ixV w) (f (wmAt w))

/-- Major 0x06, WM (R213 to R216). -/
def dec06 (w : Nat) : Nat → Dec
  | 0 => wmX isLdTy w .ld
  | 1 => wmX isLdTy w .st
  | 2 => wmX isF w .fld
  | 3 => wmX isF w .fst
  | 4 => wmX isAtomTy w .lr
  | 5 => wmX isAtomTy w .sc
  | 6 => decided (wmf isAtomTy w ++ ixX w)
    (.amo (rg w 47) (Fin.ofNat 16 (bitsOf w 41 38)) (Fin.ofNat 32 (bitsOf w 37 32)) (bv 3 w 31 29) (ordAt w 28) (scopeAt w 25)
      (ty w 22) (bv 18 w 17 0))
  | 7 => decided (zf w 47 42 ++ ixX w ++ zf w 28 26 ++ zf w 25 23 ++ zf w 22 18)
    (.pref (Fin.ofNat 16 (bitsOf w 41 38)) (Fin.ofNat 32 (bitsOf w 37 32)) (bv 3 w 31 29) (bv 18 w 17 0))
  | _ => noMinor

/-- Aperture codes (R219). -/
def apf (test : Bool) (w : Nat) : Errs :=
  if apCode (bitsOf w 15 8) || (test && bitsOf w 15 8 == 0xFF) then [] else [(9, 15)]

/-- Major 0x07 (R217 to R219). -/
def dec07 (w : Nat) : Nat → Dec
  | 0 => decided (rf 16 w 47 ++ zf w 41 36 ++ zf w 35 30 ++ zf w 29 24 ++ zf w 23 16) (.bld (rg16 w 47) (bv 16 w 15 0))
  | 1 => decided (rf 16 w 47 ++ rf 16 w 41 ++ rf 32 w 35 ++ rf 32 w 29 ++ zf w 23 0)
    (.bnarrow (rg16 w 47) (rg16 w 41) (rg w 35) (rg w 29))
  | 2 => decided (rf 16 w 47 ++ rf 32 w 41 ++ zf w 35 30 ++ zf w 29 24 ++ zf w 23 0) (.bseta (rg16 w 47) (rg w 41))
  | 3 => decided (rf 32 w 47 ++ rf 16 w 41 ++ zf w 35 30 ++ zf w 29 24 ++ zf w 23 0) (.bgeta (rg w 47) (rg16 w 41))
  | 4 => decided (rf 16 w 47 ++ rf 16 w 41 ++ zf w 35 30 ++ zf w 29 24 ++ zf w 23 9)
    (.bperm (rg16 w 47) (rg16 w 41) (bv 9 w 8 0))
  | 5 => decided (rf 32 w 47 ++ rf 32 w 41 ++ zf w 35 30 ++ zf w 29 24 ++ zf w 23 16 ++ apf false w ++ zf w 7 1)
    (.acvt (rg w 47) (rg w 41) (bv 8 w 15 8) (bit w 0))
  | 6 => decided (rf 32 w 47 ++ rf 32 w 41 ++ zf w 35 30 ++ zf w 29 24 ++ zf w 23 16 ++ apf true w ++ zf w 7 0)
    (.atest (rg w 47) (rg w 41) (bv 8 w 15 8))
  | _ => noMinor

def vcount (n : Nat) : VCount := if n = 0 then .c8 else if n = 1 then .c16 else .c32

/-- Every MOD field zero but TYPE and OPS. -/
def mz (w : Nat) : Errs := rz w ++ zf w 15 13 ++ zf w 12 12 ++ zf w 11 11 ++ zf w 10 10 ++ zf w 9 9

/-- Major 0x08 (R222). -/
def dec08 (w : Nat) : Nat → Dec
  | 0 => decided (zf w 47 42 ++ rf 32 w 41 ++ zf w 35 30 ++ zf w 29 24 ++ zf w 23 19 ++ mz w ++ zf w 8 6 ++ cf 3 w 1 0)
    (.cfgreg (vcount (bitsOf w 1 0)) (bv 4 w 5 2) (rg w 41))
  | 1 => decided (rf 32 w 47 ++ rf 32 w 41 ++ zf w 35 30 ++ zf w 29 24 ++ zf w 23 19 ++ mz w ++ zf w 8 0)
    (.setvl (rg w 47) (rg w 41))
  | 2 => decided (rf 32 w 47 ++ zf w 41 36) (.setvli (rg w 47) (bv 36 w 35 0))
  | 3 => decided (zf w 47 42 ++ zf w 41 36 ++ zf w 35 30 ++ zf w 29 24 ++ tf anyT w 23 ++ mz w ++ zf w 8 2)
    (.setvt (tyM w) (bv 2 w 1 0))
  | 4 => decided (rf 32 w 47 ++ rf 32 w 41 ++ zf w 35 30 ++ zf w 29 24 ++ zf w 23 19 ++ mz w ++ zf w 8 0)
    (.rdvl (rg w 47) (rg w 41))
  | 5 => decided (zf w 47 42 ++ zf w 41 36 ++ zf w 35 30 ++ zf w 29 24 ++ zf w 23 19 ++ mz w ++ zf w 8 0) .mstart
  | 6 => decided (zf w 47 42 ++ zf w 41 36 ++ zf w 35 30 ++ zf w 29 24 ++ zf w 23 19 ++ mz w ++ zf w 8 0) .mstop
  | _ => noMinor

/-- OPP, CJG, TRN zero. -/
def oct (w : Nat) : Errs := zf w 11 11 ++ zf w 10 10 ++ zf w 9 9

/-- RND by the type field: 0 for an integer type (R224). -/
def rdt (w : Nat) : Errs := rdf (rndFor (tyM w)) w

/-- SAT not admitted for integer types, or not for floats. -/
def satF (w : Nat) : Errs := if isIntTy (tyM w) then zf w 12 12 else []
def satI (w : Nat) : Errs := if isIntTy (tyM w) then [] else zf w 12 12

def v3 (w : Nat) (es : Errs) (f : VRegNo → VRegNo → VRegNo → VMod → Instr) : Dec :=
  decided (rf 32 w 47 ++ rf 32 w 41 ++ rf 32 w 35 ++ zf w 29 24 ++ es ++ oct w ++ zf w 7 0)
    (f (rg w 47) (rg w 41) (rg w 35) (vmod w))

def v4 (w : Nat) (f : VRegNo → VRegNo → VRegNo → VRegNo → VMod → Instr) : Dec :=
  decided (rf 32 w 47 ++ rf 32 w 41 ++ rf 32 w 35 ++ rf 32 w 29 ++ tf isF w 23 ++ rdf any w ++ oct w ++ zf w 7 0)
    (f (rg w 47) (rg w 41) (rg w 35) (rg w 29) (vmod w))

def v2 (w : Nat) (es : Errs) (f : VRegNo → VRegNo → VMod → Instr) : Dec :=
  decided (rf 32 w 47 ++ rf 32 w 41 ++ zf w 35 30 ++ zf w 29 24 ++ es ++ oct w ++ zf w 7 0) (f (rg w 47) (rg w 41) (vmod w))

def tInt (w : Nat) : Errs := tf isI w 23 ++ rz w ++ zf w 12 12
def tFI (w : Nat) : Errs := tf isFI w 23 ++ rdt w
def tF (w : Nat) : Errs := tf isF w 23 ++ rdf any w

/-- Major 0x09 (R224). Float types allow .sat in rows without the mark s too, and so do the integers of VDIV (log entry
21). -/
def dec09 (w : Nat) : Nat → Dec
  | 0 => v3 w (tFI w) .vadd
  | 1 => v3 w (tFI w) .vsub
  | 2 => v3 w (tFI w) .vmul
  | 3 => v3 w (tInt w) .vmulh
  | 4 => v3 w (tFI w) .vdiv
  | 5 => v3 w (tInt w) .vrem
  | 6 => v3 w (tFI w ++ satF w) .vmin
  | 7 => v3 w (tFI w ++ satF w) .vmax
  | 8 => v3 w (tInt w) .vand
  | 9 => v3 w (tInt w) .vor
  | 10 => v3 w (tInt w) .vxor
  | 11 => v3 w (tInt w) .vshl
  | 12 => v3 w (tInt w) .vshr
  | 13 => v3 w (tInt w) .vsra
  | 14 => v4 w .vfma
  | 15 => v4 w .vfms
  | 16 => v4 w .vfnma
  | 17 => v2 w (tF w) .vsqrt
  | 18 => v2 w (tF w) .vexp2
  | 19 => v2 w (tF w) .vlog2
  | 20 => v2 w (tF w) .vrsq
  | 21 => v2 w (tf isFI w 23 ++ rz w ++ satI w) .vabs
  | 22 => v2 w (tf isFI w 23 ++ rz w ++ satI w) .vneg
  | _ => noMinor

/-- Major 0x0A (R226 to R231). -/
def dec0A (w : Nat) : Nat → Dec
  | 0 => decided (rf 32 w 47 ++ rf 32 w 41 ++ zf w 35 30 ++ zf w 29 24 ++ tf nonBlock w 23 ++ rdf any w ++ oct w
      ++ zf w 7 5 ++ tf anyT w 4) (.vcvt (rg w 47) (rg w 41) (ty w 4) (vmod w))
  | 1 => decided (rf 32 w 47 ++ rf 32 w 41 ++ zf w 35 30 ++ zf w 29 24 ++ tf isBlock w 23 ++ rdf any w ++ zf w 15 13
      ++ oct w ++ zf w 8 7 ++ tf isF w 4 ++ (if tyM w = .b8 then zf w 6 5 else []))
      (.vquant (rg w 47) (rg w 41) (tyM w) (rndM w) (satM w) (ty w 4) (bv 2 w 6 5))
  | 2 => decided (rf 32 w 47 ++ rf 32 w 41 ++ zf w 35 30 ++ zf w 29 24 ++ tF w ++ oct w ++ zf w 7 5 ++ tf isBlock w 4)
      (.vdeq (rg w 47) (rg w 41) (ty w 4) (vmod w))
  | 3 => decided (rf 32 w 47 ++ rf 32 w 41 ++ zf w 35 30 ++ zf w 29 24 ++ tf isF w 23 ++ rz w ++ zf w 12 12 ++ oct w
      ++ zf w 7 0) (.vclass (rg w 47) (rg w 41) (tyM w) (maskM w) (keepM w))
  | 4 => decided (rf 8 w 47 ++ rf 32 w 41 ++ rf 32 w 35 ++ zf w 29 24 ++ tf isFI w 23 ++ rz w ++ zf w 12 12 ++ oct w
      ++ zf w 7 3 ++ relf w) (.vcmp (rg8 w 47) (relAt w) (rg w 41) (rg w 35) (tyM w) (maskM w) (keepM w))
  | 5 => decided (rf 32 w 47 ++ rf 32 w 41 ++ rf 32 w 35 ++ zf w 29 24 ++ tf anyT w 23 ++ rz w ++ zf w 12 12 ++ oct w
      ++ zf w 8 0) (.vsel (rg w 47) (rg w 41) (rg w 35) (tyM w) (maskM w))
  | 6 => decided (rf 32 w 47 ++ rf 32 w 41 ++ zf w 35 30 ++ zf w 29 24 ++ (if bit w 0 then zf w 23 19 else tf anyT w 23)
      ++ rz w ++ zf w 12 12 ++ oct w ++ zf w 7 1)
      (.vmv (rg w 47) (rg w 41) (if bit w 0 then none else some (tyM w)) (maskM w) (keepM w))
  | 7 => decided (rf 32 w 47 ++ rf 32 w 41 ++ zf w 35 30 ++ zf w 29 24 ++ tf anyT w 23 ++ mz w ++ zf w 8 2 ++ zf w 0 0)
      (.vsplat (rg w 47) (rg w 41) (bit w 1) (tyM w))
  | 8 => decided (rf 32 w 47 ++ rf 32 w 41 ++ rf 32 w 35 ++ zf w 29 24 ++ tf anyT w 23 ++ rz w ++ zf w 12 12 ++ oct w
      ++ zf w 7 0) (.vslide (rg w 47) (rg w 41) (rg w 35) (tyM w) (maskM w) (keepM w))
  | 9 => decided (rf 32 w 47 ++ rf 32 w 41 ++ rf 32 w 35 ++ zf w 29 24 ++ tf nonBlock w 23 ++ rz w ++ zf w 12 12 ++ oct w
      ++ zf w 7 0) (.vperm (rg w 47) (rg w 41) (rg w 35) (tyM w) (maskM w) (keepM w))
  | 10 => decided (rf 32 w 47 ++ rf 32 w 41 ++ zf w 35 30 ++ rf 32 w 29 ++ tf isFI w 23
      ++ rdf (fun r => rndFor (tyM w) r && notRst r) w ++ oct w ++ zf w 8 0)
      (.vreds (rg w 47) (rg w 41) (rg w 29) (tyM w) (rndM w) (satM w) (maskM w))
  | 11 => decided (rf 32 w 47 ++ rf 32 w 41 ++ zf w 35 30 ++ rf 32 w 29 ++ tf isFI w 23 ++ rz w ++ zf w 12 12 ++ oct w
      ++ zf w 8 1) (.vredm (rg w 47) (rg w 41) (rg w 29) (tyM w) (bit w 0) (maskM w))
  | 12 => decided (rf 32 w 47 ++ rf 32 w 41 ++ zf w 35 30 ++ rf 32 w 29 ++ tf isFI w 23
      ++ rdf (fun r => rndFor (tyM w) r && notRst r) w ++ oct w ++ zf w 7 0)
      (.vscan (rg w 47) (rg w 41) (rg w 29) (vmod w))
  | 13 => decided (rf 32 w 47 ++ rf 32 w 41 ++ zf w 35 30 ++ zf w 29 24 ++ tf nonBlock w 23 ++ rz w ++ zf w 12 12 ++ oct w
      ++ zf w 8 0) (.vcomp (rg w 47) (rg w 41) (tyM w) (maskM w))
  | 14 => decided (rf 32 w 47 ++ rf 32 w 41 ++ rf 32 w 35 ++ zf w 29 24 ++ tf anyT w 23 ++ mz w ++ zf w 8 2)
      (.vmvx (bit w 0) (bit w 1) (rg w 47) (rg w 41) (rg w 35) (tyM w))
  | _ => noMinor

/-- Major 0x0B, WM (R233, R236, R237). -/
def dec0B (w : Nat) : Nat → Dec
  | 0 => wmX anyT w .vld
  | 1 => wmX anyT w .vst
  | 2 => wmX isByteTy w .vlds
  | 3 => wmX isByteTy w .vsts
  | 4 => wmV isByteTy w .vldx
  | 5 => wmV isByteTy w .vstx
  | 6 => wmX isByteTy w .vldt
  | 7 => wmX isByteTy w .vstt
  | 8 => wmX isByteTy w .slq
  | 9 => decided (rf 32 w 47 ++ zf w 41 38 ++ ixX w ++ zf w 31 29 ++ zf w 28 26 ++ zf w 25 23 ++ zf w 22 18 ++ zf w 17 5)
      (.slqtake (rg w 47) (Fin.ofNat 32 (bitsOf w 37 32)) (Fin.ofNat 32 (bitsOf w 4 0)))
  | _ => noMinor

/-- Ordering and scope subfields of OPS (R180, R434 DETAIL 7 and 9). -/
def osf (w : Nat) : Errs := orf w 5 ++ scf 9 w 2

def winTy (w : Nat) : Errs := tf isWinTy w 23

/-- VAMO's RND field: an operation for integer types, a rounding for f32 and f64 (R288). -/
def vamoRnd (w : Nat) : Errs :=
  if isAtomTy (tyM w) then (if bitsOf w 18 16 = 7 then [(9, 18)] else []) else rdf notRst w

def vamoMod (w : Nat) : AMod := if isAtomTy (tyM w) then { amod w with rnd := .rne } else amod w
def vamoOp (w : Nat) : BitVec 3 := if isAtomTy (tyM w) then bv 3 w 18 16 else 0#3

/-- Major 0x0C (R288, R292). -/
def dec0C (w : Nat) : Nat → Dec
  | 0 => decided (rf 32 w 47 ++ rf 16 w 41 ++ rf 32 w 35 ++ rf 32 w 29 ++ winTy w ++ vamoRnd w ++ oct w ++ osf w)
      (.vamo (rg w 47) (rg16 w 41) (rg w 35) (rg w 29) (vamoOp w) (vamoMod w))
  | 1 => decided (rf 32 w 47 ++ rf 16 w 41 ++ rf 32 w 35 ++ rf 32 w 29 ++ tf isAtomTy w 23 ++ rz w ++ zf w 12 12 ++ oct w
      ++ osf w) (.vcas (rg w 47) (rg16 w 41) (rg w 35) (rg w 29) (amod w))
  | 2 => decided (zf w 47 42 ++ rf 16 w 41 ++ rf 32 w 35 ++ rf 32 w 29 ++ tf isAtomTy w 23 ++ rz w ++ zf w 12 12 ++ oct w
      ++ zf w 5 0) (.gcsleep (rg16 w 41) (rg w 35) (rg w 29) (tyM w) (maskM w) (bv 3 w 8 6))
  | 3 => decided (rf 32 w 47 ++ rf 16 w 41 ++ zf w 35 30 ++ winTy w ++ rdf notRst w ++ zf w 15 13
      ++ zf w 12 12 ++ oct w ++ zf w 8 0) (.awin (rg w 47) (rg16 w 41) (bv 6 w 29 24) ⟨tyM w, rndM w, false⟩)
  | 4 => decided (zf w 47 42 ++ rf 16 w 41 ++ rf 32 w 35 ++ rf 32 w 29 ++ winTy w ++ rdf notRst w ++ oct w ++ osf w)
      (.aacc (rg16 w 41) (rg w 35) (rg w 29) (amod w))
  | 5 => decided (zf w 47 42 ++ rf 16 w 41 ++ zf w 35 30 ++ rf 32 w 29 ++ winTy w ++ rdf notRst w ++ zf w 15 13 ++ oct w
      ++ zf w 8 6 ++ osf w)
      (.amerge (rg16 w 41) (rg w 29) (tyM w) (rndM w) (satM w) (ordAt w 5) (scopeAt w 2))
  | _ => noMinor

/-- Major 0x0D (R240). -/
def dec0D (w : Nat) : Nat → Dec
  | 0 => decided (rf 8 w 47 ++ rf 8 w 41 ++ rf 8 w 35 ++ zf w 29 24 ++ zf w 23 0) (.mand (rg8 w 47) (rg8 w 41) (rg8 w 35))
  | 1 => decided (rf 8 w 47 ++ rf 8 w 41 ++ rf 8 w 35 ++ zf w 29 24 ++ zf w 23 0) (.mor (rg8 w 47) (rg8 w 41) (rg8 w 35))
  | 2 => decided (rf 8 w 47 ++ rf 8 w 41 ++ rf 8 w 35 ++ zf w 29 24 ++ zf w 23 0) (.mxor (rg8 w 47) (rg8 w 41) (rg8 w 35))
  | 3 => decided (rf 8 w 47 ++ rf 8 w 41 ++ zf w 35 30 ++ zf w 29 24 ++ zf w 23 0) (.mnot (rg8 w 47) (rg8 w 41))
  | 4 => decidedLate (rf 32 w 47 ++ rf 8 w 41 ++ zf w 35 30 ++ zf w 29 24 ++ zf w 23 0) (.mpopc (rg w 47) (rg8 w 41))
  | 5 => decidedLate (rf 32 w 47 ++ rf 8 w 41 ++ zf w 35 30 ++ zf w 29 24 ++ zf w 23 0) (.mfirst (rg w 47) (rg8 w 41))
  | 6 => decided (rf 32 w 47 ++ rf 8 w 41 ++ rf 32 w 35 ++ zf w 29 24 ++ zf w 23 0) (.mmovx (rg w 47) (rg8 w 41) (rg w 35))
  | 7 => decided (rf 8 w 47 ++ rf 32 w 41 ++ rf 32 w 35 ++ zf w 29 24 ++ zf w 23 0) (.msetx (rg8 w 47) (rg w 41) (rg w 35))
  | 8 => decided (zf w 47 42 ++ rf 8 w 41 ++ zf w 35 30 ++ zf w 29 24 ++ zf w 23 0) (.mpush (rg8 w 41))
  | 9 => decided (rf 8 w 47 ++ zf w 41 36 ++ zf w 35 30 ++ zf w 29 24 ++ zf w 23 0) (.mpop (rg8 w 47))
  | _ => noMinor

/-- A predicate form without a type: TYPE and SAT zero. -/
def pz (w : Nat) : Errs := zf w 23 19 ++ zf w 12 12 ++ oct w

/-- Major 0x0E (R244). -/
def dec0E (w : Nat) : Nat → Dec
  | 0 => decided (rf 8 w 47 ++ rf 32 w 41 ++ rf 32 w 35 ++ zf w 29 24 ++ tf isFI w 23 ++ rz w ++ zf w 12 12 ++ oct w
      ++ zf w 3 3 ++ relf w)
      (.pcmp (rg8 w 47) (relAt w) (rg w 41) (rg w 35) (bv 4 w 7 4) (tyM w) (maskM w) (keepM w))
  | 1 => decided (rf 8 w 47 ++ rf 8 w 41 ++ rf 8 w 35 ++ zf w 29 24 ++ pz w ++ rdf any w ++ zf w 7 2 ++ cf 3 w 1 0)
      (.pand (rg8 w 47) (rg8 w 41) (rg8 w 35) (Fin.ofNat 3 (bitsOf w 1 0)) (rndM w) (maskM w) (keepM w))
  | 2 => decided (rf 8 w 47 ++ rf 8 w 41 ++ rf 8 w 35 ++ zf w 29 24 ++ pz w ++ rdf any w ++ zf w 7 2 ++ cf 3 w 1 0)
      (.por (rg8 w 47) (rg8 w 41) (rg8 w 35) (Fin.ofNat 3 (bitsOf w 1 0)) (rndM w) (maskM w) (keepM w))
  | 3 => decided (rf 8 w 47 ++ rf 8 w 41 ++ zf w 35 30 ++ zf w 29 24 ++ pz w ++ rz w ++ zf w 7 0)
      (.pnot (rg8 w 47) (rg8 w 41) (maskM w) (keepM w))
  | 4 => decided (rf 32 w 47 ++ rf 32 w 41 ++ rf 32 w 35 ++ rf 8 w 29 ++ tF w ++ oct w ++ zf w 7 0)
      (.pblend (rg w 47) (rg w 41) (rg w 35) (rg8 w 29) (vmod w))
  | 5 => decided (rf 8 w 47 ++ rf 8 w 41 ++ zf w 35 30 ++ zf w 29 24 ++ pz w ++ rz w ++ zf w 7 0)
      (.pcoll (rg8 w 47) (rg8 w 41) (maskM w) (keepM w))
  | 6 => decided (rf 8 w 47 ++ rf 8 w 41 ++ rf 32 w 35 ++ zf w 29 24 ++ pz w ++ rz w ++ zf w 7 0)
      (.phard (rg8 w 47) (rg8 w 41) (rg w 35) (maskM w) (keepM w))
  | 7 => decided (rf 32 w 47 ++ rf 32 w 41
      ++ (if bitsOf w 1 0 = 1 then rf 32 w 35 ++ rf 32 w 29 else zf w 35 30 ++ rf 8 w 29)
      ++ tF w ++ oct w ++ zf w 7 2)
      (.pgrad (rg w 47) (rg w 41) (rg w 35) (rg w 29) (Fin.ofNat 4 (bitsOf w 1 0)) (vmod w))
  | 8 => decided (rf 8 w 47 ++ rf 8 w 41 ++ zf w 35 30 ++ zf w 29 24 ++ pz w ++ rz w ++ zf w 7 0)
      (.pmv (rg8 w 47) (rg8 w 41) (maskM w) (keepM w))
  | 9 => decided (rf 8 w 47 ++ rf 32 w 41 ++ zf w 35 30 ++ zf w 29 24 ++ tf (fun t => isF t || t == .fr16) w 23
      ++ rdf any w ++ zf w 12 12 ++ oct w ++ zf w 3 0)
      (.pseed (rg8 w 47) (rg w 41) (bv 4 w 7 4) (tyM w) (rndM w) (maskM w) (keepM w))
  | 10 =>
    if bit w 0 then
      decided (rf 8 w 47 ++ zf w 41 36 ++ rf 32 w 35 ++ zf w 29 24 ++ zf w 23 19 ++ mz w ++ zf w 8 1)
        (.pprov true (rg w 35) (rg8 w 47))
    else
      decided (rf 32 w 47 ++ rf 8 w 41 ++ zf w 35 30 ++ zf w 29 24 ++ zf w 23 19 ++ mz w ++ zf w 8 1)
        (.pprov false (rg w 47) (rg8 w 41))
  | _ => noMinor

/-- Major 0x0F (R252). -/
def dec0F (w : Nat) : Nat → Dec
  | 0 => decided (rf 4 w 47 ++ rf 16 w 41 ++ zf w 35 30 ++ zf w 29 24 ++ zf w 23 19 ++ mz w)
      (.atld (rg4 w 47) (rg16 w 41) (bv 9 w 8 0))
  | 1 => decided (rf 32 w 47 ++ rf 4 w 41 ++ zf w 35 30 ++ zf w 29 24 ++ zf w 23 19 ++ mz w ++ zf w 8 2)
      (.atinfo (rg w 47) (rg4 w 41) (bv 2 w 1 0))
  | 2 => decided (rf 32 w 47 ++ rf 32 w 41 ++ rf 32 w 35 ++ rf 4 w 29 ++ tF w ++ zf w 9 9 ++ zf w 7 0)
      (.amul (rg w 47) (rg w 41) (rg w 35) (rg4 w 29) (vmod w) (bit w 10) (bit w 11))
  | 3 => decided (rf 32 w 47 ++ rf 32 w 41 ++ rf 32 w 35 ++ rf 4 w 29 ++ tF w ++ zf w 9 9 ++ zf w 7 0)
      (.amac (rg w 47) (rg w 41) (rg w 35) (rg4 w 29) (vmod w) (bit w 10) (bit w 11))
  | 4 => decided (rf 32 w 47 ++ rf 32 w 41 ++ zf w 35 30 ++ rf 4 w 29 ++ tf isF w 23 ++ rz w ++ zf w 12 12 ++ oct w
      ++ zf w 7 0) (.aconj (rg w 47) (rg w 41) (rg4 w 29) (tyM w) (maskM w) (keepM w))
  | _ => noMinor

/-- A matrix product's MOD (R257, R260, R263, R265). -/
def prodf (trn : Bool) (w : Nat) : Errs :=
  tf (fun t => if bit w 2 then isPairTy t else isMatTy t) w 23
    ++ rdf (fun r => notRst r && (!isMatInt (tyM w) || r == .rne)) w ++ zf w 15 13
    ++ (if bit w 2 then [] else zf w 11 11 ++ zf w 10 10 ++ zf w 1 0)
    ++ (if trn && !isBlock (tyM w) then [] else zf w 9 9) ++ zf w 8 3

/-- Major 0x10 (R260). -/
def dec10 (w : Nat) : Nat → Dec
  | 0 => decided (rf 4 w 47 ++ zf w 41 36 ++ zf w 35 30 ++ zf w 29 24 ++ zf w 23 19 ++ mz w ++ zf w 8 0) (.mzero (rg4 w 47))
  | 1 => decided (rf 4 w 47 ++ rf 32 w 41 ++ rf 32 w 35 ++ zf w 29 24 ++ prodf false w)
      (.mopa (rg4 w 47) (rg w 41) (rg w 35) (pmod w))
  | 2 => decided (rf 4 w 47 ++ rf 32 w 41 ++ rf 32 w 35 ++ zf w 29 24 ++ prodf false w)
      (.mops (rg4 w 47) (rg w 41) (rg w 35) (pmod w))
  | 3 => decided (zf w 47 42 ++ rf 16 w 41 ++ zf w 35 30 ++ zf w 29 24 ++ tf isMatTy w 23 ++ rz w ++ zf w 15 13
      ++ zf w 12 12 ++ zf w 11 11 ++ zf w 10 10 ++ (if isBlock (tyM w) then zf w 9 9 else []))
      (.mldw (rg16 w 41) (bv 9 w 8 0) (tyM w) (bit w 9))
  | 4 => decided (zf w 47 42 ++ zf w 41 36 ++ zf w 35 30 ++ zf w 29 24 ++ zf w 23 19 ++ mz w ++ zf w 8 0) .mswap
  | 5 => decided (rf 4 w 47 ++ rf 32 w 41 ++ rf 32 w 35 ++ zf w 29 24 ++ prodf true w)
      (.mstrm (rg4 w 47) (rg w 41) (rg w 35) (pmod w))
  | 6 => decided (rf 32 w 47 ++ rf 4 w 41 ++ rf 32 w 35 ++ zf w 29 24 ++ tf isRowTy w 23 ++ rdf any w ++ fz w ++ zf w 8 0)
      (.mrdrow (rg w 47) (rg4 w 41) (rg w 35) (fmod w))
  | 7 => decided (rf 4 w 47 ++ rf 32 w 41 ++ rf 32 w 35 ++ zf w 29 24 ++ tf isRowTy w 23 ++ rdf any w ++ fz w ++ zf w 8 0)
      (.mwrrow (rg4 w 47) (rg w 41) (rg w 35) (fmod w))
  | 8 => decided (rf 4 w 47 ++ rf 16 w 41 ++ zf w 35 30 ++ zf w 29 24 ++ tf (fun t => t == .f32 || t == .i32) w 23 ++ mz w)
      (.mldacc (rg4 w 47) (rg16 w 41) (bv 9 w 8 0) (tyM w))
  | 9 => decided (rf 32 w 47 ++ rf 16 w 41 ++ rf 4 w 35 ++ rf 32 w 29 ++ tf isStaccTy w 23 ++ rdf any w ++ fz w)
      (.mstacc (rg w 47) (rg16 w 41) (rg4 w 35) (rg w 29) (bv 9 w 8 0) (fmod w))
  | 10 => decided (zf w 47 42 ++ rf 32 w 41 ++ zf w 35 30 ++ zf w 29 24 ++ zf w 23 19 ++ mz w ++ zf w 8 0) (.mbind (rg w 41))
  | 11 => decided (zf w 47 42 ++ zf w 41 36 ++ zf w 35 30 ++ zf w 29 24 ++ zf w 23 19 ++ mz w ++ zf w 8 3 ++ scf 9 w 2)
      (.msync (scopeAt w 2))
  | 12 => decided (rf 32 w 47 ++ rf 16 w 41 ++ rf 4 w 35 ++ rf 32 w 29 ++ tf isPairTy w 23 ++ rdf any w ++ fz w)
      (.stpair (rg w 47) (rg16 w 41) (rg4 w 35) (rg w 29) (bv 9 w 8 0) (fmod w))
  | _ => noMinor

/-- Major 0x11 (R285). -/
def dec11 (w : Nat) : Nat → Dec
  | 0 => decided (rf 16 w 41 ++ rf 32 w 35 ++ zf w 29 24 ++ zf w 23 0) (.cpgo (bv 6 w 47 42) (rg16 w 41) (rg w 35))
  | 1 => decided (rf 16 w 41 ++ rf 32 w 35 ++ zf w 29 24 ++ zf w 23 0) (.cpgob (bv 6 w 47 42) (rg16 w 41) (rg w 35))
  | 2 => decided (rf 32 w 47 ++ zf w 35 30 ++ zf w 29 24 ++ zf w 23 0) (.cpwp (rg w 47) (bv 6 w 41 36))
  | 3 => decided (zf w 47 42 ++ zf w 35 30 ++ zf w 29 24 ++ zf w 23 0) (.cpcan (bv 6 w 41 36))
  | 4 => decided (zf w 47 42 ++ (if bit w 7 then zf w 41 36 else rf 32 w 41) ++ zf w 35 30 ++ zf w 29 24 ++ zf w 23 8
      ++ zf w 6 0) (.cpinv (rg w 41) (bit w 7))
  | _ => noMinor

/-- Major 0x12 (R275, R278). -/
def dec12 (w : Nat) : Nat → Dec
  | 0 => decided (zf w 47 42 ++ rf 32 w 41 ++ rf 32 w 35 ++ rf 32 w 29 ++ zf w 23 0) (.bufset (rg w 41) (rg w 35) (rg w 29))
  | 1 => decided (rf 32 w 47 ++ rf 32 w 41 ++ zf w 35 30 ++ zf w 29 24 ++ zf w 23 1) (.bufclaim (rg w 47) (rg w 41) (bit w 0))
  | 2 => decided (zf w 47 42 ++ rf 32 w 41 ++ zf w 35 30 ++ zf w 29 24 ++ zf w 23 0) (.bufrel (rg w 41))
  | 3 => decided (rf 32 w 47 ++ rf 32 w 41 ++ zf w 35 30 ++ zf w 29 24 ++ zf w 23 0) (.bufstat (rg w 47) (rg w 41))
  | 4 => decided (zf w 47 42 ++ rf 32 w 41 ++ rf 32 w 35 ++ zf w 29 24 ++ zf w 23 3 ++ scf 9 w 2)
      (.binit (rg w 41) (rg w 35) (scopeAt w 2))
  | 5 => decided (zf w 47 42 ++ rf 32 w 41 ++ rf 32 w 35 ++ zf w 29 24 ++ zf w 23 0) (.bexp (rg w 41) (rg w 35))
  | 6 => decided (zf w 47 42 ++ rf 32 w 41 ++ zf w 35 30 ++ zf w 29 24 ++ zf w 23 0) (.barr (rg w 41))
  | 7 => decided (zf w 47 42 ++ rf 32 w 41 ++ rf 32 w 35 ++ zf w 29 24 ++ zf w 23 0) (.bwait (rg w 41) (rg w 35))
  | 8 => decided (rf 32 w 47 ++ rf 32 w 41 ++ rf 32 w 35 ++ zf w 29 24 ++ zf w 23 0) (.btry (rg w 47) (rg w 41) (rg w 35))
  | _ => noMinor

/-- Major 0x13 (R286, R287). -/
def dec13 (w : Nat) : Nat → Dec
  | 0 => decided (rf 32 w 47 ++ rf 32 w 41 ++ zf w 35 30 ++ zf w 29 24 ++ zf w 23 0) (.tglook (rg w 47) (rg w 41))
  | 1 => decided (rf 32 w 47 ++ rf 32 w 41 ++ rf 32 w 35 ++ zf w 29 24 ++ zf w 23 0) (.tgins (rg w 47) (rg w 41) (rg w 35))
  | 2 => decided (rf 32 w 47 ++ rf 32 w 41 ++ zf w 35 30 ++ zf w 29 24 ++ zf w 23 0) (.tgdel (rg w 47) (rg w 41))
  | 3 => decided (rf 32 w 47 ++ rf 32 w 41 ++ zf w 35 30 ++ zf w 29 24 ++ zf w 23 3 ++ cf 6 w 2 0)
      (.spalloc (rg w 47) (rg w 41) (Fin.ofNat 6 (bitsOf w 2 0)))
  | 4 => decided (zf w 47 42 ++ rf 32 w 41 ++ zf w 35 30 ++ zf w 29 24 ++ zf w 23 0) (.spfree (rg w 41))
  | _ => noMinor

def fab (w : Nat) (es : Errs) (i : Instr) : Dec :=
  decided (rf 32 w 47 ++ rf 16 w 41 ++ zf w 35 30 ++ zf w 29 24 ++ es ++ zf w 15 13 ++ oct w ++ zf w 8 0) i

/-- Major 0x14 (R296, R298). -/
def dec14 (w : Nat) : Nat → Dec
  | 0 => decided (rf 32 w 47 ++ rf 16 w 41 ++ rf 32 w 35 ++ rf 32 w 29 ++ zf w 23 19 ++ mz w ++ zf w 8 0)
      (.tdshard (rg w 47) (rg16 w 41) (rg w 35) (rg w 29))
  | 1 => fab w (tf nonBlock w 23 ++ rz w ++ zf w 12 12) (.fgath (rg w 47) (rg16 w 41) (tyM w))
  | 2 => fab w (tf nonBlock w 23 ++ rz w ++ zf w 12 12) (.fscat (rg w 47) (rg16 w 41) (tyM w))
  | 3 => fab w (tf isSumTy w 23 ++ rdf fixedRnd w) (.fscata (rg w 47) (rg16 w 41) (fmod w))
  | 4 => fab w (tf isCollTy w 23 ++ rdf fixedRnd w) (.coll (rg w 47) (rg16 w 41) (fmod w))
  | 5 => fab w (tf anyT w 23 ++ rz w ++ zf w 12 12) (.rput (rg w 47) (rg16 w 41) (tyM w))
  | 6 => fab w (tf anyT w 23 ++ rz w ++ zf w 12 12) (.rget (rg w 47) (rg16 w 41) (tyM w))
  | _ => noMinor

/-- Major 0x15 (R325). -/
def dec15 (w : Nat) : Nat → Dec
  | 0 => decided (rf 32 w 47 ++ rf 16 w 41 ++ rf 32 w 35 ++ rf 32 w 29 ++ zf w 23 0)
      (.wkrun (rg w 47) (rg16 w 41) (rg w 35) (rg w 29))
  | 1 => decided (zf w 47 42 ++ rf 32 w 41 ++ zf w 35 30 ++ zf w 29 24 ++ zf w 23 0) (.wkwait (rg w 41))
  | 2 => decided (rf 32 w 47 ++ rf 32 w 41 ++ zf w 35 30 ++ zf w 29 24 ++ zf w 23 0) (.wkstat (rg w 47) (rg w 41))
  | _ => noMinor

/-- Major 0x16 (R310). -/
def dec16 (w : Nat) : Nat → Dec
  | 0 => decided (rf 32 w 47 ++ rf 16 w 41 ++ zf w 35 30 ++ zf w 29 24 ++ zf w 23 0) (.trinit (rg w 47) (rg16 w 41))
  | 1 => decided (rf 32 w 47 ++ rf 16 w 41 ++ zf w 35 30 ++ zf w 29 24 ++ zf w 23 0) (.trdesc (rg w 47) (rg16 w 41))
  | 2 => decided (rf 32 w 47 ++ rf 16 w 41 ++ rf 32 w 35 ++ rf 32 w 29 ++ zf w 23 0)
      (.trbatch (rg w 47) (rg16 w 41) (rg w 35) (rg w 29))
  | 3 => decided (rf 32 w 47 ++ rf 16 w 41 ++ rf 32 w 35 ++ rf 32 w 29 ++ zf w 23 0)
      (.trexp (rg w 47) (rg16 w 41) (rg w 35) (rg w 29))
  | 4 => decided (zf w 47 42 ++ rf 16 w 41 ++ rf 32 w 35 ++ rf 32 w 29 ++ zf w 23 2 ++ cf 3 w 1 0)
      (.trback (rg16 w 41) (rg w 35) (rg w 29) (Fin.ofNat 3 (bitsOf w 1 0)))
  | 5 => decided (zf w 47 42 ++ rf 16 w 41 ++ rf 32 w 35 ++ zf w 29 24 ++ zf w 23 0) (.trroot (rg16 w 41) (rg w 35))
  | 6 => decided (rf 32 w 47 ++ rf 16 w 41 ++ rf 32 w 35 ++ rf 32 w 29 ++ zf w 23 1)
      (.trread (rg w 47) (rg16 w 41) (rg w 35) (rg w 29) (bit w 0))
  | _ => noMinor

/-- Major 0x17 (R317). -/
def dec17 (w : Nat) : Nat → Dec
  | 0 => decided (zf w 47 42 ++ rf 16 w 41 ++ rf 32 w 35 ++ rf 32 w 29 ++ tf isF w 23 ++ rdf notRst w ++ zf w 12 12 ++ oct w
      ++ zf w 8 0) (.kvacc (rg16 w 41) (rg w 35) (rg w 29) (tyM w) (rndM w) (maskM w))
  | 1 => decided (rf 32 w 47 ++ rf 16 w 41 ++ rf 32 w 35 ++ rf 32 w 29 ++ zf w 23 19 ++ mz w ++ zf w 8 0)
      (.kvevict (rg w 47) (rg16 w 41) (rg w 35) (rg w 29))
  | _ => noMinor

/-- Major 0x18 (R320). -/
def dec18 (w : Nat) : Nat → Dec
  | 0 => decided (rf 32 w 47 ++ rf 16 w 41 ++ rf 32 w 35 ++ zf w 29 24 ++ zf w 23 0) (.glaunch (rg w 47) (rg16 w 41) (rg w 35))
  | 1 => decided (rf 32 w 47 ++ rf 32 w 41 ++ rf 32 w 35 ++ zf w 29 24 ++ zf w 23 0) (.gdone (rg w 47) (rg w 41) (rg w 35))
  | 2 => decided (rf 32 w 47 ++ rf 32 w 41 ++ rf 32 w 35 ++ zf w 29 24 ++ zf w 23 0) (.gquery (rg w 47) (rg w 41) (rg w 35))
  | 3 => decided (rf 32 w 47 ++ rf 16 w 41 ++ zf w 35 30 ++ zf w 29 24 ++ zf w 23 0) (.qnew (rg w 47) (rg16 w 41))
  | 4 => decided (zf w 47 42 ++ rf 32 w 41 ++ zf w 35 30 ++ zf w 29 24 ++ zf w 23 2 ++ cf 3 w 1 0)
      (.qdel (rg w 41) (Fin.ofNat 3 (bitsOf w 1 0)))
  | _ => noMinor

/-- Frame and major must agree (DETAIL 2); an unknown minor comes first (DETAIL 1). -/
def misframed (d : Dec) : Dec :=
  match d with
  | .error (1, b) => .error (1, b)
  | _ => .error (2, 63)

/-- A word of frame 0 or 2 by its major; `c` is the continuation word's payload, `double` its frame. -/
def decMajor (double : Bool) (w c : Nat) : Dec :=
  let minor := bitsOf w 53 48
  let d : Dec := match bitsOf w 61 54 with
    | 0 => dec00 w minor
    | 1 => dec01 w minor
    | 2 => dec02 w minor
    | 3 => dec03 w c minor
    | 4 => dec04 w minor
    | 5 => dec05 w minor
    | 6 => dec06 w minor
    | 7 => dec07 w minor
    | 8 => dec08 w minor
    | 9 => dec09 w minor
    | 10 => dec0A w minor
    | 11 => dec0B w minor
    | 12 => dec0C w minor
    | 13 => dec0D w minor
    | 14 => dec0E w minor
    | 15 => dec0F w minor
    | 16 => dec10 w minor
    | 17 => dec11 w minor
    | 18 => dec12 w minor
    | 19 => dec13 w minor
    | 20 => dec14 w minor
    | 21 => dec15 w minor
    | 22 => dec16 w minor
    | 23 => dec17 w minor
    | 24 => dec18 w minor
    | _ => .error (0, 61)
  match d with
  | .error (0, b) => .error (0, b)
  | d => if (bitsOf w 61 54 = 3) = (double = true) then d else misframed d

/-! ### Pairs (R181, R182) -/

def h5 (h hi : Nat) : Fin 32 := Fin.ofNat 32 (bitsOf h hi (hi - 4))

/-- Reserved bits of a half; `up` is 31 for slot A. -/
def hz (up h hi lo : Nat) : Errs := if bitsOf h hi lo = 0 then [] else [(3, hi + up)]

/-- The reserved fields of a half by its half-opcode (R181). -/
def halfZ (up h : Nat) : Errs :=
  let op := bitsOf h 30 25
  if op ≤ 7 then hz up h 9 0
  else if op = 9 ∨ op = 10 then hz up h 14 6
  else if op = 11 then hz up h 19 15
  else if 14 ≤ op ∧ op ≤ 18 then hz up h 9 0
  else if op = 19 ∨ op = 20 then hz up h 14 0
  else if op = 21 then hz up h 9 0
  else if op = 22 then hz up h 24 20 ++ hz up h 14 0
  else if op = 23 then hz up h 24 20 ++ hz up h 9 0
  else []

/-- The half of slot B; half-opcodes from 12 on are no half of slot B. -/
def halfB (h : Nat) : HalfB :=
  let d := h5 h 24
  let a := h5 h 19
  let b := h5 h 14
  match bitsOf h 30 25 with
  | 0 => .add d a b
  | 1 => .sub d a b
  | 2 => .and d a b
  | 3 => .or d a b
  | 4 => .xor d a b
  | 5 => .shl d a b
  | 6 => .shr d a b
  | 7 => .slt d a b
  | 8 => .addi d a (bv 15 h 14 0)
  | 9 => .shli d a (bv 6 h 5 0)
  | 10 => .shri d a (bv 6 h 5 0)
  | _ => .li d (bv 15 h 14 0)

/-- The instruction of a pair, by slot A's half. -/
def pairOf (h : Nat) (o : HalfB) : Instr :=
  let d := h5 h 24
  let a := h5 h 19
  let b := h5 h 14
  match bitsOf h 30 25 with
  | 0 => .pairAdd d a b o
  | 1 => .pairSub d a b o
  | 2 => .pairAnd d a b o
  | 3 => .pairOr d a b o
  | 4 => .pairXor d a b o
  | 5 => .pairShl d a b o
  | 6 => .pairShr d a b o
  | 7 => .pairSlt d a b o
  | 8 => .pairAddi d a (bv 15 h 14 0) o
  | 9 => .pairShli d a (bv 6 h 5 0) o
  | 10 => .pairShri d a (bv 6 h 5 0) o
  | 11 => .pairLi d (bv 15 h 14 0) o
  | 12 => .pairLd d a (Fin.ofNat 16 (bitsOf h 14 11)) (bv 11 h 10 0) o
  | 13 => .pairSt d a (Fin.ofNat 16 (bitsOf h 14 11)) (bv 11 h 10 0) o
  | 14 => .pairVadd d a b o
  | 15 => .pairVsub d a b o
  | 16 => .pairVmul d a b o
  | 17 => .pairVmin d a b o
  | 18 => .pairVmax d a b o
  | 19 => .pairVmv d a o
  | 20 => .pairVsplat d a o
  | 21 => .pairSlqtake d a b o
  | 22 => .pairBarr a o
  | _ => .pairBwait a b o

/-- The x destinations of slot A, which slot B may not name (R182). -/
def destA (i : Instr) : List Nat :=
  match i with
  | .pairAdd d _ _ _ | .pairSub d _ _ _ | .pairAnd d _ _ _ | .pairOr d _ _ _ | .pairXor d _ _ _ | .pairShl d _ _ _
  | .pairShr d _ _ _ | .pairSlt d _ _ _ | .pairAddi d _ _ _ | .pairShli d _ _ _ | .pairShri d _ _ _ | .pairLi d _ _
  | .pairLd d _ _ _ _ => [d.val]
  | .pairSlqtake _ a b _ => [a.val, b.val]
  | _ => []

/-- The vector registers a pair reads do not meet R182. -/
def badParity (i : Instr) : Bool :=
  match i with
  | .pairVadd _ a b _ | .pairVsub _ a b _ | .pairVmul _ a b _ | .pairVmin _ a b _ | .pairVmax _ a b _ => !parityOk a b
  | _ => false

/-- The first limit of R436 that a pair breaks. No half reads more than two vector registers and slot B reads none, so
limit 3 is never met. -/
def pairLimit (opB : Nat) (i : Instr) (o : HalfB) : Errs :=
  if 12 ≤ opB then [(11, 1)]
  else if sameDest (destA i) o then [(11, 2)]
  else if badParity i then [(11, 4)]
  else []

def decPair (w : Nat) : Dec :=
  let ha := bitsOf w 61 31
  let hb := bitsOf w 30 0
  let o := halfB hb
  let i := pairOf ha o
  decided (halfZ 31 ha ++ halfZ 0 hb ++ pairLimit (bitsOf hb 30 25) i o
    ++ (if bitsOf ha 30 25 < 24 then [] else [(12, 61)])) i

/-! ### Words and bytes -/

/-- Decode words to a row, the first at the lowest address (R170, R171). -/
def decodeRaw : List Nat → Except Reject Raw
  | [] => .error .short
  | w :: rest =>
    let r (d : Dec) : Except Reject Raw :=
      match d with
      | .ok i => .ok i
      | .error (a, b) => .error (.encoding a b)
    match bitsOf w 63 62 with
    | 0 => r (decMajor false w 0)
    | 1 => r (decPair w)
    | 2 => match rest with
      | c :: _ => if bitsOf c 63 62 = 3 then r (decMajor true w c) else .error .unpaired
      | [] => .error .unpaired
    | _ => .error .continuation

/-- Decode words to an instruction. -/
noncomputable def decodeWords (ws : List Nat) : Except Reject Instr :=
  match decodeRaw ws with
  | .ok r => .ok r.instr
  | .error e => .error e

/-- Bytes as a little-endian number. -/
def natOf : List Byte → Nat
  | [] => 0
  | b :: bs => b.toNat + 256 * natOf bs

/-- Decode bytes: one word, or two for a first word (R3, R170). -/
def decodeBytesRaw (bs : List Byte) : Except Reject Raw :=
  if bs.length < 8 then .error .short
  else decodeRaw (natOf (bs.take 8) :: (if bs.length < 16 then [] else [natOf ((bs.drop 8).take 8)]))

noncomputable def decodeBytes (bs : List Byte) : Except Reject Instr :=
  match decodeBytesRaw bs with
  | .ok r => .ok r.instr
  | .error e => .error e

/-- How many words an instruction takes (R175). -/
def Instr.words : Instr → Nat
  | .lid .. | .cpset .. | .tdnew .. => 2
  | _ => 1

/-! ### Walker words (R327, R446) -/

def wr (w hi : Nat) : WReg := Fin.ofNat 16 (bitsOf w hi (hi - 3))

/-- A walker word; none where a field that its form does not use is not zero (R446). -/
def decodeWalkerRaw (w : Nat) : Option Late :=
  let d := wr w 27
  let a := wr w 23
  let b := wr w 19
  let z (hi lo : Nat) : Bool := bitsOf w hi lo = 0
  let i := bv 16 w 15 0
  match bitsOf w 31 28 with
  | 0 => some (.wli d (bv 24 w 23 0))
  | 1 => some (.wadd d a b i)
  | 2 => some (.wsub d a b i)
  | 3 => some (.wshl d a b i)
  | 4 => some (.wand d a b i)
  | 5 => some (.wldix d a b (bv 2 w 15 14) (bv 14 w 13 0))
  | 6 => if z 27 24 && z 15 14 then some (.wldvl a b (bv 14 w 13 0)) else none
  | 7 => if z 27 24 && z 19 0 then some (.wseek a) else none
  | 8 => if z 27 16 then some (.wbr i) else none
  | 9 => if z 27 24 then some (.wbeq a b i) else none
  | 10 => if z 27 24 then some (.wblt a b i) else none
  | 11 => if z 27 24 && z 19 16 then some (.wloop a i) else none
  | 12 => if z 27 24 && z 19 0 then some (.wemit a) else none
  | 13 => if z 27 24 && z 19 0 then some (.wrow a) else none
  | 14 => if z 27 0 then some .wflush else none
  | _ => if z 27 0 then some .wend else none

noncomputable def decodeWalker (w : Nat) : Option Instr := (decodeWalkerRaw w).map Late.instr

/-- The instruction that an opcode-table row's bits stand for: 32 bits are a walker word, 64 a full or pair word, 128 a
double word (log entry 8). -/
noncomputable def decodeTableWord (nbits w : Nat) : Option Instr :=
  if nbits ≤ 32 then decodeWalker w
  else
    match decodeWords [w % 2 ^ 64, w / 2 ^ 64 % 2 ^ 64] with
    | .ok i => some i
    | .error _ => none

/-! ### The encoder -/

def w3 (mj mn d a b c md : Nat) : Nat :=
  mj * 2 ^ 54 + mn * 2 ^ 48 + d * 2 ^ 42 + a * 2 ^ 36 + b * 2 ^ 30 + c * 2 ^ 24 + md
def wi (mj mn d a imm : Nat) : Nat := mj * 2 ^ 54 + mn * 2 ^ 48 + d * 2 ^ 42 + a * 2 ^ 36 + imm
def ws (mn d a n imm : Nat) : Nat := mn * 2 ^ 48 + d * 2 ^ 42 + a * 2 ^ 36 + n * 2 ^ 24 + imm

def b1 (b : Bool) : Nat := if b then 1 else 0

/-- MOD (R176). -/
def md (t : ETy) (r : Nat) (m : Nat) (sat opp cjg trn : Bool) (ops : Nat) : Nat :=
  etyCode t * 2 ^ 19 + r * 2 ^ 16 + m * 2 ^ 13 + b1 sat * 2 ^ 12 + b1 opp * 2 ^ 11 + b1 cjg * 2 ^ 10 + b1 trn * 2 ^ 9 + ops

def mdF (m : FMod) (ops : Nat) : Nat := md m.ty (rndCode m.rnd) 0 m.sat false false false ops
def mdT (t : ETy) (ops : Nat) : Nat := md t 0 0 false false false false ops
def mdV (m : VMod) (ops : Nat) : Nat :=
  md m.ty (rndCode m.rnd) m.mask.val m.sat false false false (b1 m.keep * 2 ^ 8 + ops)
def mdM (t : ETy) (mask : MRegNo) (keep : Bool) (ops : Nat) : Nat :=
  md t 0 mask.val false false false false (b1 keep * 2 ^ 8 + ops)
def osOf (o : MOrd) (s : Scope) : Nat := ordCode o * 2 ^ 3 + scopeCode s
def mdA (m : AMod) (r : Nat) : Nat :=
  md m.ty r m.mask.val m.sat false false false (m.scale.toNat * 2 ^ 6 + osOf m.ord m.sc)
def algOps (a : Option AlgNo) : Nat :=
  match a with
  | some n => 4 + n.val
  | none => 0
def mdP (m : PMod) : Nat := md m.ty (rndCode m.rnd) 0 m.sat m.opp m.cjg m.trn (algOps m.alg)

def wmW (mj mn ix : Nat) (m : WM) : Nat :=
  mj * 2 ^ 54 + mn * 2 ^ 48 + m.data.val * 2 ^ 42 + m.bnd.val * 2 ^ 38 + (ix + m.idx.val) * 2 ^ 32 + m.scale.toNat * 2 ^ 29
    + ordCode m.ord * 2 ^ 26 + scopeCode m.sc * 2 ^ 23 + etyCode m.ty * 2 ^ 18 + m.off.toNat

def half (op d a imm : Nat) : Nat := op * 2 ^ 25 + d * 2 ^ 20 + a * 2 ^ 15 + imm

def encHalfB : HalfB → Nat
  | .add d a b => half 0 d a (b.val * 2 ^ 10)
  | .sub d a b => half 1 d a (b.val * 2 ^ 10)
  | .and d a b => half 2 d a (b.val * 2 ^ 10)
  | .or d a b => half 3 d a (b.val * 2 ^ 10)
  | .xor d a b => half 4 d a (b.val * 2 ^ 10)
  | .shl d a b => half 5 d a (b.val * 2 ^ 10)
  | .shr d a b => half 6 d a (b.val * 2 ^ 10)
  | .slt d a b => half 7 d a (b.val * 2 ^ 10)
  | .addi d a i => half 8 d a i.toNat
  | .shli d a n => half 9 d a n.toNat
  | .shri d a n => half 10 d a n.toNat
  | .li d i => half 11 d 0 i.toNat

def pairW (a : Nat) (o : HalfB) : Nat := 2 ^ 62 + a * 2 ^ 31 + encHalfB o

def ww (op d a b imm : Nat) : Nat := op * 2 ^ 28 + d * 2 ^ 24 + a * 2 ^ 20 + b * 2 ^ 16 + imm

/-- The words of an instruction, the first at the lowest address; a walker instruction has one 32-bit word. Commands
and events have no encoding. -/
def encode : Instr → List Nat
  | .nop => [ws 0 0 0 0 0]
  | .exit => [ws 1 0 0 0 0]
  | .svc d a c => [ws 2 d a 0 c.toNat]
  | .brk c => [ws 3 0 0 0 c.toNat]
  | .eret => [ws 4 0 0 0 0]
  | .rdsr d r => [ws 5 d 0 (sysRegNo r) 0]
  | .wrsr r a => [ws 6 0 a (sysRegNo r) 0]
  | .wrsrVtype a => [ws 6 0 a 1 0]
  | .xchsr d r a => [ws 7 d a (sysRegNo r) 0]
  | .fence s => [ws 8 0 0 0 (scopeCode s)]
  | .ifence => [ws 9 0 0 0 0]
  | .yield => [ws 10 0 0 0 0]
  | .rdtime d => [ws 11 d 0 0 0]
  | .waitt a => [ws 12 0 a 0 0]
  | .waite => [ws 13 0 0 0 0]
  | .sev s => [ws 14 0 0 0 (scopeCode s)]
  | .add d a b => [w3 1 0 d a b 0 0]
  | .sub d a b => [w3 1 1 d a b 0 0]
  | .mul d a b => [w3 1 2 d a b 0 0]
  | .mulh d a b => [w3 1 3 d a b 0 0]
  | .mulhu d a b => [w3 1 4 d a b 0 0]
  | .div d a b => [w3 1 5 d a b 0 0]
  | .divu d a b => [w3 1 6 d a b 0 0]
  | .rem d a b => [w3 1 7 d a b 0 0]
  | .remu d a b => [w3 1 8 d a b 0 0]
  | .and d a b => [w3 1 9 d a b 0 0]
  | .or d a b => [w3 1 10 d a b 0 0]
  | .xor d a b => [w3 1 11 d a b 0 0]
  | .andn d a b => [w3 1 12 d a b 0 0]
  | .shl d a b => [w3 1 13 d a b 0 0]
  | .shr d a b => [w3 1 14 d a b 0 0]
  | .sra d a b => [w3 1 15 d a b 0 0]
  | .slt d a b => [w3 1 16 d a b 0 0]
  | .sltu d a b => [w3 1 17 d a b 0 0]
  | .min d a b => [w3 1 18 d a b 0 0]
  | .max d a b => [w3 1 19 d a b 0 0]
  | .clz d a => [w3 1 20 d a 0 0 0]
  | .popc d a => [w3 1 21 d a 0 0 0]
  | .sel d a b c => [w3 1 22 d a b c 0]
  | .addi d a i => [wi 2 0 d a i.toNat]
  | .andi d a i => [wi 2 1 d a i.toNat]
  | .ori d a i => [wi 2 2 d a i.toNat]
  | .xori d a i => [wi 2 3 d a i.toNat]
  | .shli d a n => [wi 2 4 d a n.toNat]
  | .shri d a n => [wi 2 5 d a n.toNat]
  | .srai d a n => [wi 2 6 d a n.toNat]
  | .slti d a i => [wi 2 7 d a i.toNat]
  | .sltui d a i => [wi 2 8 d a i.toNat]
  | .li d i => [wi 2 9 d 0 i.toNat]
  | .addpc d i => [wi 2 10 d 0 i.toNat]
  | .lid d v => [2 ^ 63 + wi 3 0 d 0 (v.toNat / 2 ^ 62), 3 * 2 ^ 62 + v.toNat % 2 ^ 62]
  | .cpset l a c ss ds =>
    [2 ^ 63 + wi 3 1 l.toNat a (c.toNat * 2 ^ 2 + ss.toNat / 2 ^ 30), 3 * 2 ^ 62 + ss.toNat % 2 ^ 30 * 2 ^ 32 + ds.toNat]
  | .tdnew d a o => [2 ^ 63 + wi 3 2 d a 0, 3 * 2 ^ 62 + o.toNat]
  | .fadd d a b m => [w3 4 0 d a b 0 (mdF m 0)]
  | .fsub d a b m => [w3 4 1 d a b 0 (mdF m 0)]
  | .fmul d a b m => [w3 4 2 d a b 0 (mdF m 0)]
  | .fdiv d a b m => [w3 4 3 d a b 0 (mdF m 0)]
  | .fsqrt d a m => [w3 4 4 d a 0 0 (mdF m 0)]
  | .fma d a b c m => [w3 4 5 d a b c (mdF m 0)]
  | .fmin d a b t => [w3 4 6 d a b 0 (mdT t 0)]
  | .fmax d a b t => [w3 4 7 d a b 0 (mdT t 0)]
  | .fcvt d a src rt m => [w3 4 8 d a 0 0 (mdF m (rt.val * 2 ^ 7 + etyCode src))]
  | .fclass d a t => [w3 4 9 d a 0 0 (mdT t 0)]
  | .fcmp d r a b t => [w3 4 10 d a b 0 (mdT t (relCode r))]
  | .fmvxf d a t => [w3 4 11 d a 0 0 (mdT t 0)]
  | .fmvfx d a t => [w3 4 12 d a 0 0 (mdT t 0)]
  | .beq a b o => [wi 5 0 a b o.toNat]
  | .bne a b o => [wi 5 1 a b o.toNat]
  | .blt a b o => [wi 5 2 a b o.toNat]
  | .bge a b o => [wi 5 3 a b o.toNat]
  | .bltu a b o => [wi 5 4 a b o.toNat]
  | .bgeu a b o => [wi 5 5 a b o.toNat]
  | .jal o => [wi 5 6 0 0 o.toNat]
  | .jalr a o => [wi 5 7 a 0 o.toNat]
  | .ret => [wi 5 8 0 0 0]
  | .bstrip a b o => [wi 5 9 a b o.toNat]
  | .ld m => [wmW 6 0 0 m]
  | .st m => [wmW 6 1 0 m]
  | .fld m => [wmW 6 2 0 m]
  | .fst m => [wmW 6 3 0 m]
  | .lr m => [wmW 6 4 0 m]
  | .sc m => [wmW 6 5 0 m]
  | .amo d b o op od sc t off => [wmW 6 6 0 ⟨d, b, o, op, od, sc, t, off⟩]
  | .pref b k s off => [wmW 6 7 0 ⟨0, b, k, s, .plain, .st, .f32, off⟩]
  | .bld d e => [w3 7 0 d 0 0 0 e.toNat]
  | .bnarrow d a b c => [w3 7 1 d a b c 0]
  | .bseta d a => [w3 7 2 d a 0 0 0]
  | .bgeta d a => [w3 7 3 d a 0 0 0]
  | .bperm d a m => [w3 7 4 d a 0 0 m.toNat]
  | .acvt d a ap dir => [w3 7 5 d a 0 0 (ap.toNat * 2 ^ 8 + b1 dir)]
  | .atest d a ap => [w3 7 6 d a 0 0 (ap.toNat * 2 ^ 8)]
  | .cfgreg n g k =>
    [w3 8 0 0 k 0 0 (g.toNat * 2 ^ 2 + (match n with | .c8 => 0 | .c16 => 1 | .c32 => 2))]
  | .setvl d a => [w3 8 1 d a 0 0 0]
  | .setvli d n => [wi 8 2 d 0 n.toNat]
  | .setvt t b => [w3 8 3 0 0 0 0 (mdT t b.toNat)]
  | .rdvl d a => [w3 8 4 d a 0 0 0]
  | .mstart => [w3 8 5 0 0 0 0 0]
  | .mstop => [w3 8 6 0 0 0 0 0]
  | .vadd d a b m => [w3 9 0 d a b 0 (mdV m 0)]
  | .vsub d a b m => [w3 9 1 d a b 0 (mdV m 0)]
  | .vmul d a b m => [w3 9 2 d a b 0 (mdV m 0)]
  | .vmulh d a b m => [w3 9 3 d a b 0 (mdV m 0)]
  | .vdiv d a b m => [w3 9 4 d a b 0 (mdV m 0)]
  | .vrem d a b m => [w3 9 5 d a b 0 (mdV m 0)]
  | .vmin d a b m => [w3 9 6 d a b 0 (mdV m 0)]
  | .vmax d a b m => [w3 9 7 d a b 0 (mdV m 0)]
  | .vand d a b m => [w3 9 8 d a b 0 (mdV m 0)]
  | .vor d a b m => [w3 9 9 d a b 0 (mdV m 0)]
  | .vxor d a b m => [w3 9 10 d a b 0 (mdV m 0)]
  | .vshl d a b m => [w3 9 11 d a b 0 (mdV m 0)]
  | .vshr d a b m => [w3 9 12 d a b 0 (mdV m 0)]
  | .vsra d a b m => [w3 9 13 d a b 0 (mdV m 0)]
  | .vfma d a b c m => [w3 9 14 d a b c (mdV m 0)]
  | .vfms d a b c m => [w3 9 15 d a b c (mdV m 0)]
  | .vfnma d a b c m => [w3 9 16 d a b c (mdV m 0)]
  | .vsqrt d a m => [w3 9 17 d a 0 0 (mdV m 0)]
  | .vexp2 d a m => [w3 9 18 d a 0 0 (mdV m 0)]
  | .vlog2 d a m => [w3 9 19 d a 0 0 (mdV m 0)]
  | .vrsq d a m => [w3 9 20 d a 0 0 (mdV m 0)]
  | .vabs d a m => [w3 9 21 d a 0 0 (mdV m 0)]
  | .vneg d a m => [w3 9 22 d a 0 0 (mdV m 0)]
  | .vcvt d a src m => [w3 10 0 d a 0 0 (mdV m (etyCode src))]
  | .vquant d a t r s src k =>
    [w3 10 1 d a 0 0 (md t (rndCode r) 0 s false false false (k.toNat * 2 ^ 5 + etyCode src))]
  | .vdeq d a src m => [w3 10 2 d a 0 0 (mdV m (etyCode src))]
  | .vclass d a t m k => [w3 10 3 d a 0 0 (mdM t m k 0)]
  | .vcmp d r a b t m k => [w3 10 4 d a b 0 (mdM t m k (relCode r))]
  | .vsel d a b t m => [w3 10 5 d a b 0 (mdM t m false 0)]
  | .vmv d a t m k =>
    [w3 10 6 d a 0 0 (match t with | some t => mdM t m k 0 | none => mdM .f32 m k 1)]
  | .vsplat d a f t => [w3 10 7 d a 0 0 (mdT t (b1 f * 2))]
  | .vslide d a b t m k => [w3 10 8 d a b 0 (mdM t m k 0)]
  | .vperm d a b t m k => [w3 10 9 d a b 0 (mdM t m k 0)]
  | .vreds d a c t r s m => [w3 10 10 d a 0 c (md t (rndCode r) m.val s false false false 0)]
  | .vredm d a c t x m => [w3 10 11 d a 0 c (md t 0 m.val false false false false (b1 x))]
  | .vscan d a c m => [w3 10 12 d a 0 c (mdV m 0)]
  | .vcomp d a t m => [w3 10 13 d a 0 0 (mdM t m false 0)]
  | .vmvx v f d a b t => [w3 10 14 d a b 0 (mdT t (b1 f * 2 + b1 v))]
  | .vld m => [wmW 11 0 0 m]
  | .vst m => [wmW 11 1 0 m]
  | .vlds m => [wmW 11 2 0 m]
  | .vsts m => [wmW 11 3 0 m]
  | .vldx m => [wmW 11 4 32 m]
  | .vstx m => [wmW 11 5 32 m]
  | .vldt m => [wmW 11 6 0 m]
  | .vstt m => [wmW 11 7 0 m]
  | .slq m => [wmW 11 8 0 m]
  | .slqtake d a b => [wmW 11 9 0 ⟨d, 0, a, 0, .plain, .st, .f32, BitVec.ofNat 18 b.val⟩]
  | .vamo d b k c op m => [w3 12 0 d b k c (mdA m (if isAtomTy m.ty then op.toNat else rndCode m.rnd))]
  | .vcas d b k c m => [w3 12 1 d b k c (mdA m 0)]
  | .gcsleep b k c t m s => [w3 12 2 0 b k c (md t 0 m.val false false false false (s.toNat * 2 ^ 6))]
  | .awin d b w m => [w3 12 3 d b 0 w.toNat (mdF m 0)]
  | .aacc b k c m => [w3 12 4 0 b k c (mdA m (rndCode m.rnd))]
  | .amerge b c t r s o sc => [w3 12 5 0 b 0 c (md t (rndCode r) 0 s false false false (osOf o sc))]
  | .mand d a b => [w3 13 0 d a b 0 0]
  | .mor d a b => [w3 13 1 d a b 0 0]
  | .mxor d a b => [w3 13 2 d a b 0 0]
  | .mnot d a => [w3 13 3 d a 0 0 0]
  | .mpopc d a => [w3 13 4 d a 0 0 0]
  | .mfirst d a => [w3 13 5 d a 0 0 0]
  | .mmovx d a b => [w3 13 6 d a b 0 0]
  | .msetx d a b => [w3 13 7 d a b 0 0]
  | .mpush a => [w3 13 8 0 a 0 0 0]
  | .mpop d => [w3 13 9 d 0 0 0 0]
  | .pcmp d r a b g t m k => [w3 14 0 d a b 0 (mdM t m k (g.toNat * 2 ^ 4 + relCode r))]
  | .pand d a b o r m k =>
    [w3 14 1 d a b 0 (md .f32 (rndCode r) m.val false false false false (b1 k * 2 ^ 8 + o.val))]
  | .por d a b o r m k =>
    [w3 14 2 d a b 0 (md .f32 (rndCode r) m.val false false false false (b1 k * 2 ^ 8 + o.val))]
  | .pnot d a m k => [w3 14 3 d a 0 0 (mdM .f32 m k 0)]
  | .pblend d a b c m => [w3 14 4 d a b c (mdV m 0)]
  | .pcoll d a m k => [w3 14 5 d a 0 0 (mdM .f32 m k 0)]
  | .phard d a b m k => [w3 14 6 d a b 0 (mdM .f32 m k 0)]
  | .pgrad d a b c k m => [w3 14 7 d a b c (mdV m k.val)]
  | .pmv d a m k => [w3 14 8 d a 0 0 (mdM .f32 m k 0)]
  | .pseed d a g t r m k =>
    [w3 14 9 d a 0 0 (md t (rndCode r) m.val false false false false (b1 k * 2 ^ 8 + g.toNat * 2 ^ 4))]
  | .pprov set x p => [if set then w3 14 10 p 0 x 0 1 else w3 14 10 x p 0 0 0]
  | .atld d b o => [w3 15 0 d b 0 0 o.toNat]
  | .atinfo d a i => [w3 15 1 d a 0 0 i.toNat]
  | .amul d a b c m cj op =>
    [w3 15 2 d a b c (md m.ty (rndCode m.rnd) m.mask.val m.sat op cj false (b1 m.keep * 2 ^ 8))]
  | .amac d a b c m cj op =>
    [w3 15 3 d a b c (md m.ty (rndCode m.rnd) m.mask.val m.sat op cj false (b1 m.keep * 2 ^ 8))]
  | .aconj d a c t m k => [w3 15 4 d a 0 c (mdM t m k 0)]
  | .mzero d => [w3 16 0 d 0 0 0 0]
  | .mopa d a b m => [w3 16 1 d a b 0 (mdP m)]
  | .mops d a b m => [w3 16 2 d a b 0 (mdP m)]
  | .mldw a o t trn => [w3 16 3 0 a 0 0 (md t 0 0 false false false trn o.toNat)]
  | .mswap => [w3 16 4 0 0 0 0 0]
  | .mstrm d a b m => [w3 16 5 d a b 0 (mdP m)]
  | .mrdrow d a b m => [w3 16 6 d a b 0 (mdF m 0)]
  | .mwrrow d a b m => [w3 16 7 d a b 0 (mdF m 0)]
  | .mldacc d a o t => [w3 16 8 d a 0 0 (mdT t o.toNat)]
  | .mstacc d a b c o m => [w3 16 9 d a b c (mdF m o.toNat)]
  | .mbind a => [w3 16 10 0 a 0 0 0]
  | .msync s => [w3 16 11 0 0 0 0 (scopeCode s)]
  | .stpair d a b c o m => [w3 16 12 d a b c (mdF m o.toNat)]
  | .cpgo ch a b => [w3 17 0 ch.toNat a b 0 0]
  | .cpgob ch a b => [w3 17 1 ch.toNat a b 0 0]
  | .cpwp d ch => [w3 17 2 d ch.toNat 0 0 0]
  | .cpcan ch => [w3 17 3 0 ch.toNat 0 0 0]
  | .cpinv a all => [w3 17 4 0 a 0 0 (b1 all * 2 ^ 7)]
  | .bufset a b c => [w3 18 0 0 a b c 0]
  | .bufclaim d a p => [w3 18 1 d a 0 0 (b1 p)]
  | .bufrel a => [w3 18 2 0 a 0 0 0]
  | .bufstat d a => [w3 18 3 d a 0 0 0]
  | .binit a b s => [w3 18 4 0 a b 0 (scopeCode s)]
  | .bexp a b => [w3 18 5 0 a b 0 0]
  | .barr a => [w3 18 6 0 a 0 0 0]
  | .bwait a b => [w3 18 7 0 a b 0 0]
  | .btry d a b => [w3 18 8 d a b 0 0]
  | .tglook d a => [w3 19 0 d a 0 0 0]
  | .tgins d a b => [w3 19 1 d a b 0 0]
  | .tgdel d a => [w3 19 2 d a 0 0 0]
  | .spalloc d a z => [w3 19 3 d a 0 0 z]
  | .spfree a => [w3 19 4 0 a 0 0 0]
  | .tdshard d a b c => [w3 20 0 d a b c 0]
  | .fgath d a t => [w3 20 1 d a 0 0 (mdT t 0)]
  | .fscat d a t => [w3 20 2 d a 0 0 (mdT t 0)]
  | .fscata d a m => [w3 20 3 d a 0 0 (mdF m 0)]
  | .coll d a m => [w3 20 4 d a 0 0 (mdF m 0)]
  | .rput d a t => [w3 20 5 d a 0 0 (mdT t 0)]
  | .rget d a t => [w3 20 6 d a 0 0 (mdT t 0)]
  | .wkrun d a b c => [w3 21 0 d a b c 0]
  | .wkwait a => [w3 21 1 0 a 0 0 0]
  | .wkstat d a => [w3 21 2 d a 0 0 0]
  | .trinit d a => [w3 22 0 d a 0 0 0]
  | .trdesc d a => [w3 22 1 d a 0 0 0]
  | .trbatch d a b c => [w3 22 2 d a b c 0]
  | .trexp d a b c => [w3 22 3 d a b c 0]
  | .trback a b c m => [w3 22 4 0 a b c m]
  | .trroot a b => [w3 22 5 0 a b 0 0]
  | .trread d a b c k => [w3 22 6 d a b c (b1 k)]
  | .kvacc a b c t r m => [w3 23 0 0 a b c (md t (rndCode r) m.val false false false false 0)]
  | .kvevict d a b c => [w3 23 1 d a b c 0]
  | .glaunch d a b => [w3 24 0 d a b 0 0]
  | .gdone d a b => [w3 24 1 d a b 0 0]
  | .gquery d a b => [w3 24 2 d a b 0 0]
  | .qnew d a => [w3 24 3 d a 0 0 0]
  | .qdel a m => [w3 24 4 0 a 0 0 m]
  | .pairAdd d a b o => [pairW (half 0 d a (b.val * 2 ^ 10)) o]
  | .pairSub d a b o => [pairW (half 1 d a (b.val * 2 ^ 10)) o]
  | .pairAnd d a b o => [pairW (half 2 d a (b.val * 2 ^ 10)) o]
  | .pairOr d a b o => [pairW (half 3 d a (b.val * 2 ^ 10)) o]
  | .pairXor d a b o => [pairW (half 4 d a (b.val * 2 ^ 10)) o]
  | .pairShl d a b o => [pairW (half 5 d a (b.val * 2 ^ 10)) o]
  | .pairShr d a b o => [pairW (half 6 d a (b.val * 2 ^ 10)) o]
  | .pairSlt d a b o => [pairW (half 7 d a (b.val * 2 ^ 10)) o]
  | .pairAddi d a i o => [pairW (half 8 d a i.toNat) o]
  | .pairShli d a n o => [pairW (half 9 d a n.toNat) o]
  | .pairShri d a n o => [pairW (half 10 d a n.toNat) o]
  | .pairLi d i o => [pairW (half 11 d 0 i.toNat) o]
  | .pairLd d a b i o => [pairW (half 12 d a (b.val * 2 ^ 11 + i.toNat)) o]
  | .pairSt d a b i o => [pairW (half 13 d a (b.val * 2 ^ 11 + i.toNat)) o]
  | .pairVadd d a b o => [pairW (half 14 d a (b.val * 2 ^ 10)) o]
  | .pairVsub d a b o => [pairW (half 15 d a (b.val * 2 ^ 10)) o]
  | .pairVmul d a b o => [pairW (half 16 d a (b.val * 2 ^ 10)) o]
  | .pairVmin d a b o => [pairW (half 17 d a (b.val * 2 ^ 10)) o]
  | .pairVmax d a b o => [pairW (half 18 d a (b.val * 2 ^ 10)) o]
  | .pairVmv d a o => [pairW (half 19 d a 0) o]
  | .pairVsplat d a o => [pairW (half 20 d a 0) o]
  | .pairSlqtake d a b o => [pairW (half 21 d a (b.val * 2 ^ 10)) o]
  | .pairBarr a o => [pairW (half 22 0 a 0) o]
  | .pairBwait a b o => [pairW (half 23 0 a (b.val * 2 ^ 10)) o]
  | .wli d i => [ww 0 d 0 0 i.toNat]
  | .wadd d a b i => [ww 1 d a b i.toNat]
  | .wsub d a b i => [ww 2 d a b i.toNat]
  | .wshl d a b i => [ww 3 d a b i.toNat]
  | .wand d a b i => [ww 4 d a b i.toNat]
  | .wldix d a b z o => [ww 5 d a b (z.toNat * 2 ^ 14 + o.toNat)]
  | .wldvl a b o => [ww 6 0 a b o.toNat]
  | .wseek a => [ww 7 0 a 0 0]
  | .wbr i => [ww 8 0 0 0 i.toNat]
  | .wbeq a b i => [ww 9 0 a b i.toNat]
  | .wblt a b i => [ww 10 0 a b i.toNat]
  | .wloop a i => [ww 11 0 a 0 i.toNat]
  | .wemit a => [ww 12 0 a 0 0]
  | .wrow a => [ww 13 0 a 0 0]
  | .wflush => [ww 14 0 0 0 0]
  | .wend => [ww 15 0 0 0 0]
  | _ => []

/-- Is an instruction a word of the format walker (R327). -/
def Instr.isWalker : Instr → Bool
  | .wli .. | .wadd .. | .wsub .. | .wshl .. | .wand .. | .wldix .. | .wldvl .. | .wseek .. | .wbr .. | .wbeq ..
  | .wblt .. | .wloop .. | .wemit .. | .wrow .. | .wflush | .wend => true
  | _ => false

/-- Decode what `encode` gives: the walker's words by their own table. -/
noncomputable def decodeOwn (i : Instr) (ws : List Nat) : Option Instr :=
  if i.isWalker then ws.head?.bind decodeWalker
  else match decodeWords ws with
    | .ok j => some j
    | .error _ => none

end Sys2Proof
end

