-- ==== Sys2Proof/Machine/Logline.lean ====
section
/-! DEFINITION. Logline: the records of R374 to R376, and how a replay takes its values from them (R455). -/

namespace Sys2Proof.Machine

/-! ### Recording (R374 to R376) -/

def padded (n : Nat) : Nat := ceilDiv n 32 * 32

/-- DECVER (R188). -/
def State.decver (s : State) : Word := BitVec.ofNat 64 (4 * 2 ^ 32 + s.decTable.toNat)

/-- DECVER from a record on, where it is not that of the record before (R188). -/
def State.decFrom (s : State) (lseq : Nat) : List (Nat × Word) :=
  if s.logDec.head?.map (·.2) = some s.decver then s.logDec else (lseq, s.decver) :: s.logDec

/-- DECVER that a record carries (R188): R376 gives it no bytes, so that it stands beside the region (log entry 141). -/
def State.decOf (s : State) (lseq : Nat) : Option Word := (s.logDec.find? (fun e => e.1 ≤ lseq)).map (·.2)

/-- The bytes of a record (R376). -/
def logBytes (ltype port win lseq : Nat) (time tag : Word) (payload : List Byte) : List Byte :=
  toLE 1 ltype ++ toLE 1 port ++ toLE 2 payload.length ++ toLE 2 win ++ toLE 2 0 ++ toLE 8 lseq ++ toLE 8 time.toNat
    ++ toLE 8 tag.toNat ++ payload ++ List.replicate (padded payload.length - payload.length) 0#8

/-- Append a record, unless nothing is recorded; a record that does not fit ends the recording with event 0x07 (R374). -/
def State.logOf (s : State) (ltype port win : Nat) (tag : Word) (payload : List Byte) : State :=
  match s.logArea with
  | none => s
  | some (b, n) =>
    if !s.logOn || s.replay.isSome then s
    else
      let r := logBytes ltype port win (s.lseq + 1) s.time tag payload
      if n < s.logPos + r.length then
        { s with logOn := false }.health 7 0 (BitVec.ofNat 64 (s.lseq + 1 - s.logMarker))
      else { s.writeP (b + s.logPos) r with
        logPos := s.logPos + r.length, lseq := s.lseq + 1, logDec := s.decFrom (s.lseq + 1) }

/-- A record of what came on no port that the model names: its PORT is 0 (log entry 10). -/
def State.logRec (s : State) (ltype win : Nat) (tag : Word) (payload : List Byte) : State := s.logOf ltype 0 win tag payload

/-- Is what was last recorded to be described further: does Logline record. -/
def State.records (s : State) : Bool := s.logOn && s.replay.isNone

/-- The place of a recorded write or atomic in the coherence order of each location that it writes (R375): how many writes
of the location come before it since the marker. R376 gives it no bytes, so that it stands beside the region (log entry
151). -/
def State.logPlace (s : State) (locs : List Nat) : State :=
  if s.records then { s with places := (s.lseq, locs.map (fun l => (l, writesOf s.coh l))) :: s.places } else s

/-- What the command last recorded read from the host's memory (log entry 104). -/
def State.logBrought (s : State) (b : Brought) : State :=
  if s.records then { s with loads := (s.lseq, b) :: s.loads } else s

/-- Data that peers brought to an operation, behind a head: PAYLEN has 16 bits, so that more data takes several records
(log entry 121). -/
def State.logData (s : State) (win : Nat) (tag : Word) (head data : List Byte) : State :=
  (List.range (ceilDiv data.length 65472)).foldl
    (fun t i => t.logRec 4 win tag (head ++ (data.drop (65472 * i)).take 65472)) s

/-- PORT of a command that came over the management lane (log entry 10). -/
def lanePort : Nat := 255

/-- TAG of LTYPE 4, 5 and 7 (R376). -/
def logTag (nodeid : Word) (llin : Nat) : Word := BitVec.ofNat 64 (nodeid.toNat % 2 ^ 32 + llin % 2 ^ 32 * 2 ^ 32)

def Strand.logTag (st : Strand) : Word := Machine.logTag (nodeIdOf st.gang) st.llin

/-! ### Reading the records back (R455) -/

/-- A record in the region: its place, type, PORT, window, LSEQ, TAG and payload, and the place of the next. -/
structure LogR where
  pos : Nat
  ltype : Nat
  port : Nat
  win : Nat
  lseq : Nat
  tag : Word
  payload : List Byte
  next : Nat
  deriving DecidableEq, Repr

/-- The record at a place, if the records go on there with this LSEQ. -/
def State.logAt (s : State) (pos lseq : Nat) : Option LogR :=
  match s.logArea with
  | none => none
  | some (b, n) =>
    if n < pos + 32 then none
    else
      let h := s.readP (b + pos) 32
      let len := field h 2 2
      let ty := field h 0 1
      if ty = 0 ∨ 8 < ty ∨ field h 8 8 ≠ lseq ∨ n < pos + 32 + padded len then none
      else some ⟨pos, ty, field h 1 1, field h 4 2, lseq, BitVec.ofNat 64 (field h 0x18 8), s.readP (b + pos + 32) len,
        pos + 32 + padded len⟩

/-- The records from a place on. `fuel` is how many the region can hold. -/
def State.logFrom (s : State) : Nat → Nat → Nat → List LogR
  | 0, _, _ => []
  | fuel + 1, pos, lseq =>
    match s.logAt pos lseq with
    | some r => r :: s.logFrom fuel r.next (lseq + 1)
    | none => []

def State.logFuel (s : State) : Nat :=
  match s.logArea with
  | some (_, n) => n / 32
  | none => 0

/-- LSEQ of the record at the start of the region. -/
def State.logFirst (s : State) : Nat :=
  match s.logArea with
  | some (b, _) => field (s.readP b 32) 8 8
  | none => 0

/-- All records of the region. -/
def State.logAll (s : State) : List LogR := s.logFrom s.logFuel 0 s.logFirst

/-- The record of a type, TAG and ordinal. -/
def State.logFind (s : State) (ltype : Nat) (tag : Word) (ord : Nat) : Option LogR :=
  let off := if ltype = 7 then 8 else 0
  s.logAll.find? (fun r => r.ltype == ltype && r.tag == tag && field r.payload off 8 == ord)

/-! ### The end of a replay (R455) -/

/-- Replay stops: the reply names the last record applied, and contexts stay loaded and frozen. -/
def State.stopReplay (s : State) : State :=
  match s.replay with
  | none => s
  | some r =>
    { s.emit (.reply r.host r.lane r.tag 0 (BitVec.ofNat 64 (r.lseq - 1)) 0#64) with replay := none, frozen := true }

/-- A divergence: class 0xC1 goes to the replaying host, and replay stops. -/
def State.diverge (s : State) (det : Nat) (addr nodeid : Word) : State :=
  match s.replay with
  | none => s
  | some r =>
    (s.sendRec r.host (plainRec s.time s.me.ctx nodeid ⟨0xC1, det, addr, BitVec.ofNat 64 r.lseq, nodeid⟩)).stopReplay

/-- The strand's divergence. -/
def State.divergeMe (s : State) (det : Nat) : State := s.diverge det s.me.pc (nodeIdOf s.me.gang)

/-- The record at hand has been applied: replay goes on at the next, or stops after the stop LSEQ. -/
def State.applied (s : State) (l : LogR) : State :=
  match s.replay with
  | none => s
  | some r =>
    let t := { s with replay := some { r with pos := l.next, lseq := l.lseq + 1 } }
    if r.stop ≠ 0 ∧ r.stop ≤ l.lseq then t.stopReplay else t

/-- The next record, if it is one of this type, TAG and ordinal. -/
def State.logDue (s : State) (ltype : Nat) (tag : Word) (ord : Nat) : Option LogR :=
  match s.replay with
  | none => none
  | some r => (s.logAt r.pos r.lseq).bind (fun l =>
      if l.ltype = ltype ∧ l.tag = tag ∧ field l.payload (if ltype = 7 then 8 else 0) 8 = ord then some l else none)

/-! ### TIME as a strand reads it, and wait points (R375, R455) -/

/-- TIME for RDTIME and RDSR: it is recorded, or comes from its record. -/
def State.timeRead (s : State) : Run (Word × State) :=
  let n := s.me.ordTime + 1
  let t := s.setMe { s.me with ordTime := n }
  if s.replay.isSome then
    match s.logFind 5 s.me.logTag n with
    | some r => .ok (BitVec.ofNat 64 (field r.payload 8 8), t)
    | none => .error (.hold (s.divergeMe 0))
  else .ok (s.time, t.logRec 5 0 s.me.logTag (toLE 8 n ++ toLE 8 s.time.toNat))

/-- WAITT at its deadline: it completes and is recorded, or, in a replay, completes at its wait point. -/
def State.waitPoint (s : State) (reached : Bool) : Run State :=
  let n := s.me.ordWait + 1
  let t := s.setMe { s.me with ordWait := n }
  if s.replay.isSome then
    match s.logDue 7 s.me.logTag n with
    | some r => .ok (t.applied r)
    | none => if (s.logFind 7 s.me.logTag n).isSome then .error (.block s) else .error (.hold (s.divergeMe 4))
  else if reached then .ok (t.logRec 7 0 s.me.logTag (toLE 8 0 ++ toLE 8 n ++ toLE 8 s.time.toNat))
  else .error (.block s)

/-- A strand that ends in a replay with records unused diverges. -/
def State.unusedRecords (s : State) : Bool :=
  s.replay.isSome &&
    ((s.logFind 5 s.me.logTag (s.me.ordTime + 1)).isSome || (s.logFind 7 s.me.logTag (s.me.ordWait + 1)).isSome
      || (s.logFind 4 s.me.logTag (s.me.ordRead + 1)).isSome)

end Sys2Proof.Machine
end

