-- ==== Sys2Proof/Machine/Fetch.lean ====
section
/-! DEFINITION. Instruction fetch (R79, R194, R398): the word at the program counter and the word after it, checked
against the bound that CODEB names. -/

namespace Sys2Proof.Machine

/-- A refused fetch (R396 class 0x03, R411): DETAIL 0 for the range, 1 for PERM.EX, 2 for a leaf without X. -/
def Strand.fetchFlt (st : Strand) (det : Nat) (a prev : Word) : Flt :=
  ⟨0x03, det, a, BitVec.ofNat 64 st.codeb.val, prev⟩

/-- Fetch the 8 bytes at an address for the strand in front. `prev` is the address that FINFO2 reports. -/
def State.fetchAt (s : State) (a prev : Word) : Except Flt (Nat × State) :=
  let st := s.me
  let b := st.getB st.codeb
  match b.refuses useEX a.toNat 8 with
  | some (d, _) => .error (st.fetchFlt (if d = 2 || d = 3 then 1 else 0) a prev)
  | none =>
    match resolve s.who .fetch false (b.addrs a.toNat 8) s none [] with
    | .error (2, _, _) => .error (st.fetchFlt 2 a prev)
    | .error (d, l, x) => .error ⟨0x41, d, BitVec.ofNat 64 x, accessWord 0 st.codeb.val useEX l, prev⟩
    | .ok (bs, t) =>
      match (if t.bad.isEmpty then none else bs.find? (fun b => t.bad.contains b.loc)) with
      | some b => .error ⟨0x42, badDetail b, a, accessWord 0 st.codeb.val useEX 0, prev⟩
      | none => .ok (ofLE (bs.map (fun b => Memory.get t.mem b.loc)), t)

/-- The word the strand sees: an older value of a code word may be fetched until an IFENCE (R194), a free choice. -/
def State.recall (s : State) (a w : Nat) : Nat × State :=
  match s.me.icache.find? (fun e => e.1 == a) with
  | some (_, old) =>
    if old = w then (w, s)
    else if Config.freeChoice s.fresh then (old, { s with fresh := s.fresh + 1 })
    else (w, { s with
      fresh := s.fresh + 1, me := { s.me with icache := (a, w) :: s.me.icache.filter (fun e => e.1 != a) } })
  | none => (w, s.setMe { s.me with icache := (a, w) :: s.me.icache })

/-- Fetch the words of the next instruction: one, or two for a first word (R171). A target that is no multiple of 8 is
class 0x04; a continuation word in first place, and a first word with no continuation after it, are class 0x05. -/
def State.fetch (s : State) : Except Flt (List Nat × State) :=
  let a := s.me.pc
  if a.toNat % 8 ≠ 0 then .error ⟨0x04, 0, a, 0#64, s.me.prev⟩
  else
    match s.fetchAt a s.me.prev with
    | .error f => .error f
    | .ok (w, s) =>
      let (w, s) := s.recall a.toNat w
      if bitsOf w 63 62 = 3 then .error ⟨0x05, 0, a, 3#64, s.me.prev⟩
      else if bitsOf w 63 62 = 2 then
        match s.fetchAt (a + 8#64) a with
        | .error f => .error f
        | .ok (c, s) =>
          let (c, s) := s.recall (a.toNat + 8) c
          if bitsOf c 63 62 = 3 then .ok ([w, c], s) else .error ⟨0x05, 1, a, 2#64, s.me.prev⟩
      else .ok ([w], s)

/-- Fetch and decode (R398 before R434): the row, or the fault that is taken at the program counter. -/
def State.next (s : State) : Except Flt (Raw × State) :=
  match s.fetch with
  | .error f => .error f
  | .ok (ws, s) =>
    match decodeRaw ws with
    | .ok r => .ok (r, s)
    | .error (.encoding d i) => .error (s.me.flt 0x80 d (ws.headD 0) i)
    | .error _ => .error (s.me.flt 0x80 2 (ws.headD 0) 63)

/-! ### Which strand of a core issues (R12, R37, R195, R410) -/

/-- Is the strand's next word ready: it is resident, in no wait and no stall, no request to the tree engine is
outstanding (R305), and no YIELD of its own holds it. -/
def Strand.ready (st : Strand) : Bool :=
  st.live == .resident && !st.awaiting
    && (st.mustTake || (st.blocked.isNone && st.hold.isNone && (st.yieldFor.isEmpty || st.yieldLeft == 0)))

/-- The strand of a core that issues: round-robin from the place after the one that issued last (R12). -/
def State.issues (s : State) (c : Nat) : Option Strand :=
  let last := (s.core c).last
  ((List.range 4).map (fun i => (last + 1 + i) % 4)).findSome?
    (fun p => s.all.find? (fun t => t.core == c && t.place == p && t.ready))

/-- A word has been issued: the core's place moves on, and strands that yielded to this one no longer wait for it. -/
def State.issued (s : State) (c : Nat) (t : Strand) : State :=
  let u := s.setCore c { s.core c with last := t.place }
  u.mapStrands (fun v => if v.yieldFor.isEmpty then v else { v with yieldFor := v.yieldFor.filter (fun i => i != t.id) })

end Sys2Proof.Machine
end

