-- ==== Sys2Proof/Machine/System.lean ====
section
/-! DEFINITION. System instructions, major 0x00 (R190 to R197), and the events that end their waits. -/

namespace Sys2Proof.Machine

/-! ### Leaving matrix state, ending a strand (R35, R191, R269) -/

/-- May a bound strand unbind: its own queue is empty and, for a follower, its leader is bound no longer (R269). -/
def State.canUnbind (s : State) : Bool :=
  s.me.mqueue.isEmpty &&
    match s.me.bind with
    | some (p, key) =>
      p % 2 == 0 || !s.strands.any (fun t => t.exists? && t.gang == s.me.gang && t.boundAs == some (p - 1, key))
    | none => true

/-- The strand outside matrix state: tiles, planes and formats go, the declared vector registers are zero
(R35), and a run-ahead stream ends (R237). -/
def Strand.leaveMatrix (st : Strand) : Strand :=
  { st with
    inMatrix := false
    active := Plane.zero
    shadow := Plane.zero
    acc := Vector.replicate 4 Tile.zero
    commitAcc := Vector.replicate 4 .none
    commitActive := none
    commitShadow := none
    bind := none
    stream := none
    v := Vector.replicate 32 VReg.zero
    mvl := 0
    vl := 0 }

/-- MSTOP's effect, and EXIT's before it ends the strand: wait for the queue, and, while bound, for the unbinding. -/
def State.leaveMatrix (s : State) : Run State :=
  if s.me.bind.isSome && !s.canUnbind then .error (.block s)
  else if s.me.mqueue.isEmpty then .ok (s.setMe s.me.leaveMatrix)
  else .error (.hold s)

/-- The buffer handles of a gang go when its last strand has ended (R277). -/
def State.endGang (s : State) (g : GangId) : State :=
  if s.all.any (fun t => t.gang == g) then s
  else { s with clusters := s.clusters.map (fun e => (e.1, { e.2 with bufs := e.2.bufs.filter (fun b => b.gang != g) })) }

/-- The strand ends (R191): its registers and stacks go, its areas are freed (R47), and its node counts it (R64). The
entry of a window set left open is freed with its local scratch (R294), the gang's handles with its last strand (R277).
In a replay, records left unused are a divergence (R455). -/
def State.endStrand (s : State) : State :=
  let g := s.me.gang
  let sid := s.me.id
  let c := s.core s.me.core
  let s := s.setCore s.me.core { c with entries := c.entries.filter (fun e => !(e.free && e.sid == sid)) }
  let s := match s.node? g.launch g.node with
    | some n => s.setNode g.launch g.node { n with exited := n.exited + 1 }
    | none => s
  let s := if s.unusedRecords then s.divergeMe 1 else s
  (s.setMe Strand.blank).endGang g

/-! ### System registers (R27, R79, R134, R186, R356, R360) -/

def lixOf (l : List Nat) (d i : Nat) : Word := BitVec.ofNat 64 (l.getD i d)

/-- RDSR's value, zero-extended to 64 bits (R193). -/
def State.readSys (s : State) (r : SysReg) : Word :=
  let st := s.me
  match r with
  | .vtype => st.vtype
  | .vl => BitVec.ofNat 64 st.vl
  | .mvl => BitVec.ofNat 64 st.mvl
  | .esr => BitVec.ofNat 64 st.esr
  | .fstat => st.fstat.setWidth 64
  | .tau => st.tau.setWidth 64
  | .fidxA c => st.fidx[evIndex c].1
  | .fidxE c => st.fidx[evIndex c].2
  | .rngkey => st.rngKey
  | .rngctr => st.rngCtr
  | .time => s.time
  | .govst => (s.core st.core).govst
  | .tsync => s.ebound.setWidth 64 <<< 32 ||| (if s.bc then 2#64 else 0#64) ||| (if s.lock then 1#64 else 0#64)
  | .govb => BitVec.ofNat 64 (s.gfloor * 2 ^ 16 + (s.gov st.core).budget)
  | .stripprev => st.stripPrev
  | .nodeid => nodeIdOf st.gang
  | .ldepth => BitVec.ofNat 64 st.lext.length
  | .llin => BitVec.ofNat 64 st.llin
  | .lix l => lixOf st.lix 0 l.val
  | .lext l => lixOf st.lext 1 l.val
  | .codeb => BitVec.ofNat 64 st.codeb.val
  | .decver => BitVec.ofNat 64 (4 * 2 ^ 32 + s.decTable.toNat)

/-- VTYPE is written as SETVT writes it: VL becomes 0 (R193, R222). -/
def Strand.setVtype (st : Strand) (v : Word) : Strand := { st with vtype := v, vl := 0 }

/-- WRSR's effect; a register marked RO keeps its value (R193). -/
def Strand.writeSys (st : Strand) (r : SysReg) (v : Word) : Strand :=
  match r with
  | .vtype => st.setVtype v
  | .fstat => { st with fstat := v.setWidth 32, fidxSeq := Vector.replicate 6 0 }
  | .tau => { st with tau := v.setWidth 32 }
  | .fidxA c => { st with fidx := st.fidx.set (evIndex c) (v, st.fidx[evIndex c].2), fidxSeq := st.fidxSeq.set (evIndex c) 0 }
  | .fidxE c => { st with fidx := st.fidx.set (evIndex c) (st.fidx[evIndex c].1, v), fidxSeq := st.fidxSeq.set (evIndex c) 0 }
  | .rngkey => { st with rngKey := v }
  | .rngctr => { st with rngCtr := v }
  | _ => st

/-- May VTYPE hold this value (R439 DETAIL 0): no reserved bit, a type of R177, and a block length for b8 and b4. -/
def vtypeOk (v : Word) : Bool :=
  v.toNat < 128 &&
    match etyOf (bitsOf v.toNat 4 0) with
    | some t => !isBlock t || bitsOf v.toNat 6 5 != 0
    | none => false

/-- May FSTAT hold the low 32 bits of this value (R132, R439 DETAIL 0). -/
def fstatOk (v : Word) : Bool :=
  v.setWidth 32 &&& 0xFE80F880#32 == 0#32 && bitsOf v.toNat 10 8 < 6

/-- Class 0x84 DETAIL 0 of WRSR and XCHSR. -/
def badSys (r : SysReg) (v : Word) : Bool :=
  match r with
  | .vtype => !vtypeOk v
  | .fstat => !fstatOk v
  | _ => false

/-- Registers that wait for the matrix queue (R257). -/
def waitsQueue (r : SysReg) : Bool :=
  match r with
  | .fstat | .rngctr | .fidxA _ | .fidxE _ => true
  | _ => false

/-- An access to a register that queued matrix instructions may still write waits for them (R257). -/
def State.syncSys (s : State) (r : SysReg) : Run Unit :=
  if waitsQueue r && !s.me.mqueue.isEmpty then .error (.hold s) else .ok ()

/-- WRSR of a value, after the checks (R193). -/
def State.wrsr (s : State) (r : SysReg) (a : XReg) : Run State := do
  let v := s.me.getX a
  s.guard (badSys r v) 0x84 0 v.toNat 0
  s.syncSys r
  .ok (s.setMe ((s.me.writeSys r v).retire 1))

/-! ### The instructions -/

/-- NOP (R190). -/
def execNop (s : State) : Res := .next (s.retire 1)

/-- EXIT (R191); in handler mode it acts as ERET's action 2 (R401). -/
def execExit (s : State) : Res :=
  match s.me.handler with
  | some h => .next (s.unhandled h.rcd)
  | none => finish .exit (if s.me.inMatrix then s.leaveMatrix.map State.endStrand else .ok s.endStrand)

/-- Does the matrix queue drain at once, so that a handler can be entered (R400). -/
def State.drained (s : State) : Bool := s.drain.me.mqueue.isEmpty

/-- SVC (R192, R400): with a handler it is taken at the next word; otherwise it completes with reply −1. -/
def execSvc (d a : XReg) (code : BitVec 24) (s : State) : Res :=
  if s.me.handler.isSome || s.handlerOf.isNone then .next (s.writeX d 0xFFFFFFFFFFFFFFFF#64)
  else if s.drained then
    .next (s.takeFault ⟨0x01, 0, s.me.pc, code.setWidth 64, s.me.getX a⟩ (s.me.pc + 8#64) d)
  else finish (.svc d a code) (.error (.hold s))

/-- BRK (R192, R400): with a handler it is taken at the next word; otherwise it is a NOP. -/
def execBrk (code : BitVec 24) (s : State) : Res :=
  if s.me.handler.isSome || s.handlerOf.isNone then .next (s.retire 1)
  else if s.drained then .next (s.takeFault ⟨0x02, 0, s.me.pc, code.setWidth 64, 0#64⟩ (s.me.pc + 8#64) 0)
  else finish (.brk code) (.error (.hold s))

/-- ERET (R192, R401): x1 selects the action, x2 is an SVC's reply, x3 a target. -/
def execEret (s : State) : Res :=
  match s.me.handler with
  | none => finish .eret (s.fail (s.me.flt 0x0C 0 0 0))
  | some h =>
    if s.me.mqueue.isEmpty = false then finish .eret (.error (.hold s))
    else if s.me.getX 1 = 0#64 then .next (s.returnFrom h (s.me.getX 2) none)
    else if s.me.getX 1 = 1#64 then .next (s.returnFrom h (s.me.getX 2) (some (s.me.getX 3)))
    else .next (s.unhandled h.rcd)

/-- RDSR (R193); a read of TIME is recorded (R375). -/
def execRdsr (d : XReg) (r : SysReg) (s : State) : Res :=
  finish (.rdsr d r) do
    s.syncSys r
    if r = .time then
      let (v, t) ← s.timeRead
      .ok (t.writeX d v)
    else .ok (s.writeX d (s.readSys r))

/-- WRSR (R193). -/
def execWrsr (r : SysReg) (a : XReg) (s : State) : Res := finish (.wrsr r a) (s.wrsr r a)

/-- WRSR of VTYPE (R193). -/
def execWrsrVtype (a : XReg) (s : State) : Res := finish (.wrsrVtype a) (s.wrsr .vtype a)

/-- XCHSR (R193): the old value to x[d], then the write; the source is read first (R189). -/
def execXchsr (d : XReg) (r : SysReg) (a : XReg) (s : State) : Res :=
  finish (.xchsr d r a) do
    let v := s.me.getX a
    s.guard (badSys r v) 0x84 0 v.toNat 0
    s.syncSys r
    .ok (s.setMe (((s.me.setX d (s.readSys r)).writeSys r v).retire 1))

/-- FENCE (R106, R111, R115): it waits for the strand's transfers and marks its buffered groups stale. -/
def execFence (sc : Scope) (s : State) : Res :=
  finish (.fence sc) (if s.transfersOut then .error (.hold s) else .ok (s.setMe (s.me.staleAll.retire 1)))

/-- IFENCE (R194): words fetched afterwards reflect the writes before it. -/
def execIfence (s : State) : Res := .next (s.setMe ({ s.me with icache := [] }.retire 1))

/-- YIELD (R195): the strand waits for the other ready strands of its core to issue, for at most 6 cycles. -/
def execYield (s : State) : Res :=
  let others := (s.strands.filter (fun t => t.core == s.me.core && t.ready)).map (·.id)
  .next (s.setMe ({ s.me with yieldFor := others, yieldLeft := 6 }.retire 1))

/-- RDTIME (R196); the value is recorded (R375). -/
def execRdtime (d : XReg) (s : State) : Res :=
  finish (.rdtime d) do
    let (v, t) ← s.timeRead
    .ok (t.writeX d v)

/-- WAITT (R196); its completion is recorded (R375). -/
def execWaitt (a : XReg) (s : State) : Res :=
  finish (.waitt a) do
    let t ← s.waitPoint (s.me.getX a ≤ s.time)
    .ok (t.retire 1)

/-- WAITE (R197). -/
def execWaite (s : State) : Res :=
  finish .waite (if s.me.latch then .ok (s.setMe ({ s.me with latch := false }.retire 1)) else .error (.block s))

/-- Does a strand's home lie in the issuing strand's instance of a scope (R197). -/
def inScope (sc : Scope) (me other : Strand) : Bool :=
  match sc with
  | .st => other.id == me.id
  | .co => other.core == me.core
  | .cl => other.cluster == me.cluster
  | .di => dieOf other.core == dieOf me.core
  | .mo | .fa => true

/-- SEV (R197): after the strand's earlier accesses, the latches of its node's strands in the scope are set. -/
def execSev (sc : Scope) (s : State) : Res :=
  finish (.sev sc) (
    if s.transfersOut then .error (.hold s)
    else
      let me := s.me
      let u := s.mapStrands (fun t =>
        if t.exists? && sameNode t.gang me.gang && inScope sc me t then { t with latch := true } else t)
      .ok (u.retire 1))

/-! ### Ends of waits -/

/-- An event for a strand that waits: select it and let `f` act on the instruction it is at. A blocking wait goes on at
once; a word that waits at issue becomes ready, when it would now issue, and issues in its turn (R12, log entry 107). A strand
that is due to take a pending failure executes nothing before it (R410). -/
def State.awake (s : State) (sid : Nat) (f : Instr → State → Option Res) : Res :=
  match s.select sid with
  | none => .next s
  | some t =>
    if t.me.mustTake then .next s
    else
      match t.me.blocked, t.me.hold with
      | some i, _ => (f i t).getD (.next s)
      | none, some i =>
        match f i t with
        | some (.next u) => .next (if u.me.hold.isSome then s else t.setMe { t.me with hold := none })
        | _ => .next s
      | none, none => .next s

/-- A blocked WAITT whose deadline has come completes (R196). -/
def execWaittWake (sid : Nat) (s : State) : Res :=
  s.awake sid fun i t =>
    match i with
    | .waitt a => some (execWaitt a t)
    | _ => none

/-- A blocked WAITE whose latch is set clears it and completes (R197). -/
def execWaiteWake (sid : Nat) (s : State) : Res :=
  s.awake sid fun i t =>
    match i with
    | .waite => some (execWaite t)
    | _ => none

end Sys2Proof.Machine
end

