-- ==== Sys2Proof/Machine/Matrix.lean ====
section
/-! DEFINITION. Matrix instructions, major 0x10: their checks at commit (R403, R433), the entry each puts into the
queue (R257 to R268), binding (R269), and the events of the queue and the governor (R257, R271). What a queued
instruction does when it executes stands in MatrixRun. -/

namespace Sys2Proof.Machine

/-! ### Issuing a transfer: the interlock table (R111, R112) -/

/-- Does a transfer's entry conflict with one of the strand's own. -/
def State.clash (s : State) (e : Entry) : Bool :=
  let c := s.core s.me.core
  c.entries.any (fun x => x.sid == s.me.id && !x.free && (x.write || e.write)
    && x.lo ≤ e.hi && e.lo ≤ x.hi && !(x.write && passed c x [e.hi * 64 + 63]))

/-- Take the entries of a transfer, or wait at issue (R112). -/
def State.takeEntries (s : State) (es : List (Option Entry)) : Run State :=
  let es := es.filterMap id
  if es.any s.clash || !s.entryRoom es.length then .error (.hold s) else .ok (s.addEntries es)

/-- A number for a transfer. -/
def State.newOp (s : State) : Nat × State := (s.nextOp, { s with nextOp := s.nextOp + 1 })

/-! ### Commit -/

/-- Class 0x82 DETAIL 2 for an array operand, which VL does not concern (R258, R438). -/
def Strand.arrayChk (st : Strand) (t : ETy) : List (Bool × Flt) :=
  [(isBlock t && st.blk = 0, st.flt 0x82 2 st.vl 0)]

/-- Is the strand a follower (R269). -/
def Strand.follows (st : Strand) : Bool :=
  match st.bind with
  | some (p, _) => p % 2 == 1
  | none => false

/-- The checks of class 0x09 (R403), DETAIL 0 first and the follower's last. -/
def Strand.matChk (st : Strand) (minor : Nat) (more : List (Bool × Flt)) : List (Bool × Flt) :=
  (!st.inMatrix, st.flt 0x09 0 minor 0) :: more ++ [(st.follows, st.flt 0x09 5 0 0)]

/-- Class 0x09 DETAIL 3: the accumulator type differs from the tracked one. -/
def Strand.latchChk (st : Strand) (d : AccNo) (t : AccTy) : Bool × Flt :=
  (st.commitAcc[d] != .none && st.commitAcc[d] != t,
    st.flt 0x09 3 d.val (match st.commitAcc[d] with | .i32 => 17 | _ => 0))

/-- Class 0x84 DETAIL 9: E not 64-byte aligned. -/
def Strand.alignChk (st : Strand) (e : Int) : Bool × Flt := (decide (e % 64 ≠ 0), st.flt 0x84 9 (addr64 e) 0)

/-- Class 0x84 DETAIL 10: the row. -/
def Strand.rowChk (st : Strand) (r : XReg) : Bool × Flt := (decide (63 < (st.getX r).toNat), st.flt 0x84 10 (st.getX r).toNat 0)

/-- The table of an instruction with an algebra slot; the slot must not be empty (R440 DETAIL 7). -/
def Strand.slotChk (st : Strand) (a : Option AlgNo) : List (Bool × Flt) :=
  match a with
  | some c => [((st.alg[c]).isNone, st.flt 0x83 7 0 c.val)]
  | none => []

def Strand.slot (st : Strand) (a : Option AlgNo) : Option AlgTable := a.bind (fun c => st.alg[c])

/-- The strand that follows a bound leader (R269). -/
def State.follower (s : State) : Option Strand :=
  match s.me.bind with
  | some (p, key) =>
    if p % 2 = 0 then
      s.strands.find? (fun t => t.exists? && t.gang == s.me.gang && t.boundAs == some (p + 1, key))
    else none
  | none => none

/-- Room in the queue of 64 entries, and for a broadcast in the follower's (R271). A follower in handler mode is not in
matrix state (R400), so a broadcast waits for its return (R269; log entry 138). -/
def State.queueRoom (s : State) (bc : Bool) : Bool :=
  s.me.mqueue.length < 64
    && !(bc && (s.follower.map (fun t => t.handler.isSome || decide (64 ≤ t.mqueue.length))).getD false)

/-- The entry of an instruction, with what every entry holds. -/
def Strand.mentry (st : Strand) (i : Instr) (op : Nat) : MEntry :=
  ⟨i, st.pc, 0, 0, 0, st.vl, st.blk, 0, 0, 0, Bound.zero, st.fstat, none, [], op, true, none, true,
    st.seq, false⟩

/-- Commit an entry to the queue; `bc` puts it into the follower's too, at the follower's place in its program order (R133,
R269). RNGCTR advances by the cells an entry converts under rst (R257). -/
def State.commit (s : State) (e : MEntry) (bc : Bool) (rnd : Rnd) (cells : Nat) : State :=
  let s := match (if bc then s.follower else none) with
    | some f => s.modStrand f.id (fun t => { t with mqueue := t.mqueue ++ [{ e with own := false, seq := t.seq }] }.trackEntry e)
    | none => s
  s.setMe ((({ s.me with mqueue := s.me.mqueue ++ [e] }.trackEntry e).advance rnd cells).retire 1)

/-- RNGKEY and RNGCTR at commit, as an entry holds them. -/
def Strand.rngImg (st : Strand) : Nat := st.rngCtr.toNat + 2 ^ 64 * st.rngKey.toNat

/-- Put an entry without a transfer into the queue. -/
def State.enqueue (s : State) (e : MEntry) (bc : Bool) (rnd : Rnd) (cells : Nat) : Run State :=
  if s.queueRoom bc then .ok (s.commit e bc rnd cells) else .error (.hold s)

/-- MZERO (R261). -/
def execMzero (d : AccNo) (s : State) : Res :=
  finish (.mzero d) do
    s.check (s.me.matChk 0 [])
    s.enqueue (s.me.mentry (.mzero d) 0) false .rne 0

/-- MOPA and MOPS (R263, R265). -/
def State.outer (s : State) (i : Instr) (minor : Nat) (d : AccNo) (a b : VRegNo) (m : PMod) : Run State := do
  let st := s.me
  s.check (st.vregChk [a, b] ++ st.arrayChk m.ty ++ st.slotChk m.alg ++ st.dynChk m.rnd
    ++ st.matChk minor [st.latchChk d (accTyOf m.ty)])
  s.syncV
  s.enqueue { st.mentry i 0 with va := (st.getV a).nat, vb := (st.getV b).nat, table := st.slot m.alg } false .rne 0

/-- MOPA (R263, R265). -/
def execMopa (d : AccNo) (a b : VRegNo) (m : PMod) (s : State) : Res :=
  finish (.mopa d a b m) (s.outer (.mopa d a b m) 1 d a b m)

/-- MOPS (R263, R265). -/
def execMops (d : AccNo) (a b : VRegNo) (m : PMod) (s : State) : Res :=
  finish (.mops d a b m) (s.outer (.mops d a b m) 2 d a b m)

/-- A read of 16 KiB with use EX_ER, as MLDW and MLDACC issue it (R262, R267): admitted, entered, committed. -/
def State.matLoad (s : State) (a : BRegNo) (e : Int) (f : Nat → MEntry) : Run State := do
  let b := s.me.getB a
  match admission s.who b a.val useER [(e, 16384)] with
  | some x => s.fail x
  | none => pure ()
  if s.queueRoom false then
    let op := s.newOp
    let t ← op.2.takeEntries [entryOf s.me.id op.1 false (footprint s.me.core b [(e, 16384)])]
    .ok (t.commit { f op.1 with addr := e, bnd := b } false .rne 0)
  else .error (.hold s)

/-- MLDW (R262). -/
def execMldw (a : BRegNo) (off : BitVec 9) (ty : ETy) (trn : Bool) (s : State) : Res :=
  finish (.mldw a off ty trn) do
    let e := s.me.eb a (64 * off.toInt)
    s.check (s.me.arrayChk ty ++ [s.me.alignChk e] ++ s.me.matChk 3 [])
    s.matLoad a e (fun op => { s.me.mentry (.mldw a off ty trn) op with blk := s.me.blkCode })

/-- MSWAP (R261). -/
def execMswap (s : State) : Res :=
  finish .mswap do
    s.check (s.me.matChk 4 [])
    s.enqueue (s.me.mentry .mswap 0) true .rne 0

/-- MSTRM (R264, R265). -/
def execMstrm (d : AccNo) (a : VRegNo) (b : XReg) (m : PMod) (s : State) : Res :=
  finish (.mstrm d a b m) do
    let st := s.me
    s.check (st.vregChk [a] ++ st.arrayChk m.ty ++ st.slotChk m.alg ++ [st.rowChk b] ++ st.dynChk m.rnd
      ++ st.matChk 5 [st.latchChk d (accTyOf m.ty),
        (decide (st.commitActive ≠ some m.ty), st.flt 0x09 4 (etyCode m.ty) (fmtByte st.commitActive))])
    s.syncV
    s.enqueue { st.mentry (.mstrm d a b m) 0 with
      va := (st.getV a).nat, row := (st.getX b).toNat, table := st.slot m.alg } true .rne 0

/-- MRDROW (R266). -/
def execMrdrow (d : VRegNo) (a : AccNo) (b : XReg) (m : FMod) (s : State) : Res :=
  finish (.mrdrow d a b m) do
    let st := s.me
    s.check (st.vregChk [d] ++ st.lenChk m.ty ++ [st.rowChk b] ++ st.matChk 6 [])
    s.enqueue { st.mentry (.mrdrow d a b m) 0 with row := (st.getX b).toNat, vb := st.rngImg } false m.rnd (min st.vl 64)

/-- MWRROW (R266). -/
def execMwrrow (d : AccNo) (a : VRegNo) (b : XReg) (m : FMod) (s : State) : Res :=
  finish (.mwrrow d a b m) do
    let st := s.me
    s.check (st.vregChk [a] ++ st.lenChk m.ty ++ [st.rowChk b] ++ st.matChk 7 [])
    s.syncV
    s.enqueue { st.mentry (.mwrrow d a b m) 0 with
      va := (st.getV a).nat, row := (st.getX b).toNat, vb := st.rngImg } false m.rnd (min st.vl 64)

/-- MLDACC (R267). -/
def execMldacc (d : AccNo) (a : BRegNo) (off : BitVec 9) (ty : ETy) (s : State) : Res :=
  finish (.mldacc d a off ty) do
    let e := s.me.eb a (64 * off.toInt)
    s.check ([s.me.alignChk e] ++ s.me.matChk 8 [])
    s.matLoad a e (fun op => s.me.mentry (.mldacc d a off ty) op)

/-- A tile store issued as an engine transfer: its pieces admitted for a use, its entries taken, committed. -/
def State.matStore (s : State) (a : BRegNo) (use : Nat) (parts : List (List (Int × Nat))) (rnd : Rnd)
    (f : Nat → MEntry) : Run State := do
  let b := s.me.getB a
  match admission s.who b a.val use parts.flatten with
  | some x => s.fail x
  | none => pure ()
  if s.queueRoom false then
    let op := s.newOp
    let t ← op.2.takeEntries (parts.map (fun ps => entryOf s.me.id op.1 true (footprint s.me.core b ps)))
    .ok (t.commit { f op.1 with bnd := b, vb := s.me.rngImg } false rnd 4096)
  else .error (.hold s)

/-- MSTACC's pitch (R267). -/
def Strand.pitch (st : Strand) (d : XReg) (t : ETy) : Nat := if d = 0 then bytesOf t 0 64 else (st.getX d).toNat

/-- The rows an MSTACC writes, as pieces. -/
def staccRows (e : Int) (pitch n : Nat) : List (Int × Nat) := (List.range 64).map (fun r => (e + (r * pitch : Nat), n))

/-- MSTACC (R267). -/
def execMstacc (d : XReg) (a : BRegNo) (b : AccNo) (c : FReg) (off : BitVec 9) (m : FMod) (s : State) : Res :=
  finish (.mstacc d a b c off m) do
    let st := s.me
    let e := st.eb a (64 * off.toInt)
    let n := bytesOf m.ty 0 64
    let p := st.pitch d m.ty
    s.check ([st.alignChk e, (decide (p % 16 ≠ 0 ∨ p < n), st.flt 0x84 11 p 0)] ++ st.matChk 9 [])
    s.matStore a useST [staccRows e p n] m.rnd (fun op =>
      { st.mentry (.mstacc d a b c off m) op with addr := e, pitch := p, scale := (st.getF c).toNat })

/-- The descriptor of STPAIR: class 0x84 comes before class 0x09, which comes before a refused read (R433). -/
def State.pairDesc (s : State) (a : BRegNo) (e : Int) (ty : ETy) : Run (List Byte × State) :=
  match s.loadE a useLD e 128 0 with
  | .error (.flt f pc t) => do
    s.check (s.me.matChk 12 [])
    .error (.flt f pc t)
  | .error z => .error z
  | .ok (bs, t) => do
    let d := tensorOf bs
    s.guard (!d.valid || !d.paired || d.ncomp ≠ 1 || d.etype ≠ etyCode ty) 0x84 12 (addr64 e) 0
    s.check (s.me.matChk 12 [])
    .ok (bs, t)

/-- STPAIR (R268): the descriptor is read at issue. -/
def execStpair (d : XReg) (a : BRegNo) (b : AccNo) (c : FReg) (off : BitVec 9) (m : FMod) (s : State) : Res :=
  finish (.stpair d a b c off m) do
    let st := s.me
    let e := st.eb a (64 * off.toInt)
    s.check [st.alignChk e]
    let (bs, s1) ← s.pairDesc a e m.ty
    let t := tensorOf bs
    let tij := (st.getX d).toNat
    let ws := pairWrites t (tij % 2 ^ 32) (tij / 2 ^ 32) (List.replicate 4096 0)
    let len (l : List (Int × List Byte)) : List (Int × Nat) := l.map (fun w => (w.1, w.2.length))
    s1.matStore a usePR [len ws.1, len ws.2] m.rnd (fun op =>
      { st.mentry (.stpair d a b c off m) op with row := tij, desc := bs, scale := (st.getF c).toNat })

/-! ### Binding (R269) -/

/-- The position and key that a strand waits for in MBIND. -/
def Strand.wantsBind (st : Strand) : Option (Nat × Nat) :=
  match st.blocked with
  | some (.mbind a) => if st.handler.isSome then none else some ((st.getX a).toNat % 8, (st.getX a).toNat / 8)
  | _ => none

/-- The positions and keys under which a strand has executed MBIND: the one it waits for, then the one it is bound under. A
strand that only waits holds its position too (log entry 144). -/
def Strand.binds (st : Strand) : List (Nat × Nat) := st.wantsBind.toList ++ st.boundAs.toList

/-- The other strands of the gang. -/
def State.gangPeers (s : State) : List Strand := s.strands.filter (fun t => t.exists? && t.gang == s.me.gang)

/-- The other strands of the gang that are bound, or wait to be bound, under a key, with their positions. -/
def State.bindPeers (s : State) (key : Nat) : List (Strand × Nat) :=
  s.gangPeers.filterMap (fun t => (t.binds.find? (fun b => b.2 == key)).map (fun b => (t, b.1)))

/-- Do the strand and its peers make the grid: eight strands in matrix state, on distinct cores of one cluster, at
distinct positions, none of them in handler mode. -/
def State.gridComplete (s : State) (pos : Nat) (peers : List (Strand × Nat)) : Bool :=
  let cores := s.me.core :: peers.map (·.1.core)
  peers.length == 7 && decide ((pos :: peers.map (·.2)).Nodup) && decide cores.Nodup
    && cores.all (fun c => clusterOf c == s.me.cluster) && peers.all (fun p => p.1.inMatrix && p.1.handler.isNone)

/-- A strand of a complete grid is bound and goes on; it leaves the grid that it was bound in (log entry 144). -/
def Strand.bound (st : Strand) (pos key : Nat) : Strand := { st with bind := some (pos, key) }.retire 1

/-- The strands of a gang that wait in MBIND under a key are bound. -/
def Strand.joined (st : Strand) (g : GangId) (key : Nat) : Strand :=
  match (if st.exists? && st.gang == g then st.wantsBind else none) with
  | some (p, k) => if k = key then st.bound p key else st
  | none => st

/-- With 64 entries in its queue a strand's next matrix instruction is not ready (R271). -/
def State.queueWait (s : State) : Run Unit := if 64 ≤ s.me.mqueue.length then .error (.hold s) else .ok ()

/-- MBIND (R269, R271). -/
def execMbind (a : XReg) (s : State) : Res :=
  finish (.mbind a) do
    let v := (s.me.getX a).toNat
    let pos := v % 8
    let key := v / 8
    let peers := s.bindPeers key
    let taken := s.gangPeers.any (fun t => t.binds.contains (pos, key)) || s.me.bind == some (pos, key)
    s.guard (!s.me.inMatrix) 0x09 0 10 0
    if v = 0 then
      s.queueWait
      if s.me.bind.isNone || s.canUnbind then .ok (s.setMe ({ s.me with bind := none }.retire 1)) else .error (.block s)
    else
      s.guard (key = 0 || taken) 0x09 5 v 0
      s.queueWait
      if s.gridComplete pos peers then
        .ok { s with me := s.me.bound pos key, strands := s.strands.map (fun t => t.joined s.me.gang key) }
      else .error (.block s)

/-- MSYNC (R261). -/
def execMsync (sc : Scope) (s : State) : Res :=
  finish (.msync sc) do
    s.check (s.me.matChk 11 [])
    if s.me.mqueue.isEmpty then .ok (s.retire 1) else .error (.hold s)

/-! ### Events -/

/-- A waiting MBIND goes on (R269). -/
def execMbindRendezvous (sid : Nat) (s : State) : Res :=
  s.awake sid fun i t =>
    match i with
    | .mbind a => some (execMbind a t)
    | _ => none

/-- The array of the strand's core executes the next instruction of the queue (R257), unless a walker run or the governor
holds it (R271). An instruction that waits for the queue looks again. -/
def execMatrixQueueExecute (sid : Nat) (s : State) : Res :=
  match s.select sid with
  | none => .next s
  | some t =>
    let r := t.runHead
    .next (if r.2 then r.1.setMe { r.1.me with hold := none } else r.1)

/-- The controller sets a core's budget, once in a window, for the windows from the next on; it is not below the floor
(R271, R359). -/
def execGovernorWindow (core b : Nat) (s : State) : Res :=
  if s.gfloor ≤ b ∧ b ≤ 256 ∧ (s.gov core).next = none then
    .next (s.setCore core (s.setBudget s.gfloor (s.core core) b))
  else .next s

end Sys2Proof.Machine
end

