-- ==== Sys2Proof/Machine/Copy.lean ====
section
/-! DEFINITION. Copies, major 0x11, and CPSET (R279 to R285, R114, R417, R418), with the events of the channels. -/

namespace Sys2Proof.Machine

/-! ### Parameter blocks (R279, R280) -/

/-- The levels in use: COUNT, SSTR, DSTR, innermost first. -/
def cpLevels (bs : List Byte) : List (Nat × Int × Int) :=
  (List.range (field bs 7 1)).map (fun l =>
    (field bs (0x40 + 16 * l) 4, sfield bs (0x48 + 16 * l) 4, sfield bs (0x4C + 16 * l) 4))

/-- The fields of a block that may fail, with their offsets in order (R279, R411 class 0x46). -/
def cpChecks (bs : List Byte) : List (Bool × Nat) :=
  let ev := field bs 6 1
  let head : List (Bool × Nat) := [(field bs 0 4 ≠ 0x00040007, 0), (4 ≤ field bs 4 1, 4), (64 ≤ ev || 5 < ev % 8 || 5 < ev / 8 % 8, 6),
   (field bs 7 1 = 0 || 6 < field bs 7 1, 7), (field bs 0x18 4 = 0 || 2 ^ 24 < field bs 0x18 4, 0x18),
   (!zeroIn bs 0x1C 4, 0x1C), (!zeroIn bs 0x28 24, 0x28)]
  head ++ (List.range 6).map (fun l => (!zeroIn bs (0x44 + 16 * l) 4, 0x44 + 16 * l))

/-- The offset of the first field that fails. -/
def firstBad (cs : List (Bool × Nat)) : Option Nat := (cs.find? (·.1)).map (·.2)

/-- The displacement of run `k` at both ends: level 0 is fastest (R280). -/
def runDisp : List (Nat × Int × Int) → Nat → Int × Int
  | [], _ => (0, 0)
  | (n, ss, ds) :: ls, k =>
    let r := runDisp ls (k / n)
    let i : Int := (k % n : Nat)
    (i * ss + r.1, i * ds + r.2)

def Copy.runs (c : Copy) : Nat := c.total / c.run
def Copy.srcAt (c : Copy) (k : Nat) : Int := c.src + (runDisp c.levels k).1
def Copy.dstAt (c : Copy) (k : Nat) : Int := c.dst + (runDisp c.levels k).2

/-- Has every run been read, and every run written. -/
def Copy.allRead (c : Copy) : Bool := c.next == c.runs
def Copy.allWritten (c : Copy) : Bool := c.allRead && c.pend.isEmpty

/-- A copy as a block describes it. `dvis` is the data-visible barrier, `handle` CPGOB's handle. -/
def copyOf (op ch : Nat) (iss : Issuer) (bs : List Byte) (dst : Int) (sv dv : Bound) (dvis handle : Option Nat) :
    Copy where
  op := op
  ch := ch
  iss := iss
  src := (field bs 8 8 : Nat)
  dst := dst
  run := field bs 0x18 4
  levels := cpLevels bs
  total := field bs 0x18 4 * prod ((cpLevels bs).map (·.1))
  srcView := sv
  dstView := dv
  next := 0
  pend := []
  wp := 0
  bytesMode := bitsOf (field bs 4 1) 1 1 = 1
  srev := if field bs 4 1 % 2 = 1 then some (field bs 0x20 8) else none
  srSent := 0
  srDone := false
  dvis := dvis
  handle := handle

def Copy.reads (c : Copy) : List (Int × Nat) := (List.range c.runs).map (fun k => (c.srcAt k, c.run))
def Copy.writes (c : Copy) : List (Int × Nat) := (List.range c.runs).map (fun k => (c.dstAt k, c.run))

/-! ### Objects in the scratchpads (R272, R420) -/

/-- Class 0x44 against an object (R411). -/
def barFlt (det a obj : Nat) : Flt :=
  ⟨0x44, det, BitVec.ofNat 64 a, BitVec.ofNat 64 obj, BitVec.ofNat 64 (obj / 2 ^ 64)⟩

/-- The 128 bits that an address names in the scratchpads; 0 where some of its bytes are in none (log entry 47). -/
def State.objBits (s : State) (core a : Nat) : Nat :=
  if (List.range 16).all (fun i => (padOf core (a + i)).isSome) then ofLE (s.readP (locOf core a) 16) else 0

/-- A barrier object that an engine is to signal, checked at issue (R272, R282). -/
def State.barChk (s : State) (a : Nat) : List (Bool × Flt) :=
  [(!placeOk s s.me.core s.me.gang a 16, barFlt 0 a (s.objBits s.me.core a)),
   (decide (a % 16 ≠ 0), barFlt 1 a (s.objBits s.me.core a))]

/-! ### CPSET (R281) -/

/-- CPSET (R281): the level's 16 bytes; the strand's cached block goes. -/
def execCpset (lev : BitVec 6) (a : BRegNo) (count sstr dstr : BitVec 32) (s : State) : Res :=
  finish (.cpset lev a count sstr dstr) do
    s.guard (5 < lev.toNat) 0x84 1 lev.toNat 0
    let base := (s.me.getB a).addr.toNat
    let img := toLE 4 count.toNat ++ toLE 4 0 ++ toLE 4 sstr.toNat ++ toLE 4 dstr.toNat
    let t ← s.storeE a useST (base + 0x40 + 16 * lev.toNat : Nat) img 0
    .ok (t.setMe ({ t.me with cache := t.me.cache.filter (fun e => e.1 != base) }.retire 2))

/-! ### CPGO, CPGOB (R282, R283) -/

/-- The block of a copy: from the cache, where the device may take it, or read with use LD (R283). -/
def State.cpBlock (s : State) (a : BRegNo) : Run (List Byte × State) :=
  let e := (s.me.getB a).addr
  match s.me.cache.find? (fun c => c.1 == e.toNat) with
  | some c =>
    let t := { s with fresh := s.fresh + 1 }
    if Config.freeChoice s.fresh then .ok (c.2, t) else t.loadE a useLD (e.toNat : Nat) 160 0
  | none => s.loadE a useLD (e.toNat : Nat) 160 0

/-- Cache a block: at most 16 stay (R283). -/
def Strand.keepBlock (st : Strand) (a : Nat) (bs : List Byte) : Strand :=
  { st with cache := ((a, bs) :: st.cache.filter (fun e => e.1 != a)).take 16 }

/-- Copies on a channel, in issue order (R282). -/
def Core.onChan (c : Core) (ch : Nat) : List Copy := c.copies.filter (fun p => p.ch == ch)

/-- Put a checked copy on its channel, with the issuing strand's note of it (R284). -/
def State.addCopy (s : State) (core : Nat) (c : Copy) : State :=
  let k := s.core core
  s.setCore core { k with copies := k.copies ++ [c] }

/-- The class and FINFO2 of a copy's failure (R411 class 0x50), with how many copies behind it were cancelled. -/
def Copy.rep (c : Copy) (cancelled : Nat) : Nat × Word :=
  (0x50, BitVec.ofNat 64 (min c.wp (2 ^ 32 - 1) + cancelled % 256 * 2 ^ 32))

/-- The data-visible event of a copy: its handle moves to full, or its barrier is signalled (R278, R282). -/
def State.copyVisible (s : State) (c : Copy) (bar : Option Nat) : State :=
  match c.handle with
  | some h => s.setBufState (clusterOf c.iss.core) h 2
  | none => s.signalTo c.iss bar c.op (c.rep 0)

/-- A copy that has no byte makes its events at once, source released first (R282). -/
def State.emptyCopy (s : State) (c : Copy) : State := (s.signalTo c.iss c.srev c.op (c.rep 0)).copyVisible c c.dvis

/-- Issue of a copy, with `dst` of the block or the handle's region; a handle moves from free to filling (R278). -/
def State.startCopy (s : State) (ch : BitVec 6) (a : BRegNo) (dvis handle : Option Nat) (bs : List Byte)
    (dst : Int) (lim : Option (Nat × Nat × Word)) : Run State := do
  let op := s.newOp
  let bn := field bs 5 1
  let sb : BRegNo := Fin.ofNat 16 (bn % 16)
  let db : BRegNo := Fin.ofNat 16 (bn / 16)
  let c := copyOf op.1 ch.toNat s.issuer bs dst (s.me.getB sb) (s.me.getB db) dvis handle
  match admission s.who c.srcView sb.val useER c.reads with
  | some f => s.fail f
  | none => pure ()
  match admission s.who c.dstView db.val useEW c.writes with
  | some f => s.fail f
  | none => pure ()
  s.check ((c.dvis.map s.barChk).getD [] ++ (c.srev.map s.barChk).getD [])
  match lim with
  | some (h, len, w) => if len < c.total then s.fail ⟨0x45, 3, s.me.pc, BitVec.ofNat 64 h, w⟩ else pure ()
  | none => pure ()
  if 4 ≤ ((s.core s.me.core).onChan ch.toNat).length then .error (.hold s)
  else
    let i := ch.toNat % 4
    let note (t : State) : State :=
      let st := t.me.keepBlock (s.me.getB a).addr.toNat bs
      t.setMe ({ st with newest := st.newest.set! i (some op.1), wps := st.wps.set! i 0 }.retire 1)
    let fp (b : Bound) (ps : List (Int × Nat)) : List Byt := footprint s.me.core b ps
    if c.total = 0 then .ok (note (op.2.emptyCopy c)) else
    let t ← op.2.takeEntries [entryOf s.me.id op.1 false (fp c.srcView c.reads),
      entryOf s.me.id op.1 true (fp c.dstView c.writes)]
    let t := match handle with
      | some h => t.setBufState t.me.cluster h 1
      | none => t
    .ok (note (t.addCopy t.me.core c))

/-- The operand checks of CPGO and CPGOB, and the block (R279, R282). -/
def State.cpHead (s : State) (ch : BitVec 6) (a : BRegNo) : Run (List Byte × State) := do
  let e := (s.me.getB a).addr.toNat
  s.guard (e % 64 ≠ 0) 0x84 9 e 0
  s.guard (3 < ch.toNat) 0x84 13 ch.toNat 0
  let r ← s.cpBlock a
  match firstBad (cpChecks r.1) with
  | some o => s.fail ⟨0x46, 0, BitVec.ofNat 64 e, BitVec.ofNat 64 o, s.me.pc⟩
  | none => .ok r

/-- CPGO (R282). -/
def execCpgo (ch : BitVec 6) (a : BRegNo) (b : XReg) (s : State) : Res :=
  finish (.cpgo ch a b) do
    let (bs, t) ← s.cpHead ch a
    t.startCopy ch a (if b = 0 then none else some (s.me.getX b).toNat) none bs (field bs 0x10 8 : Nat) none

/-- Class 0x45 of a handle of the strand's cluster (R411, R420). -/
def State.bufFlt (s : State) (det h : Nat) : Flt :=
  ⟨0x45, det, s.me.pc, BitVec.ofNat 64 h, bufWord ((s.cluster s.me.cluster).buf? h)⟩

/-- A handle that the strand's gang has defined, or class 0x45 DETAIL 0 or 1. -/
def State.ownBuf (s : State) (h : Nat) : Run Buf :=
  match (if h < 256 then (s.cluster s.me.cluster).buf? h else none) with
  | none => s.fail (s.bufFlt 0 h)
  | some b => if b.gang = s.me.gang then .ok b else s.fail (s.bufFlt 1 h)

/-- The generic address of a handle's region (R278). -/
def Buf.addr (b : Buf) : Nat := 0xF1 * 2 ^ 56 + b.off

/-- CPGOB (R278, R282): the handle moves from free to filling at issue. -/
def execCpgob (ch : BitVec 6) (a : BRegNo) (b : XReg) (s : State) : Res :=
  finish (.cpgob ch a b) do
    let (bs, t) ← s.cpHead ch a
    let h := (s.me.getX b).toNat
    let buf ← t.ownBuf h
    if buf.st ≠ 0 then t.fail (t.bufFlt 2 h) else pure ()
    t.startCopy ch a none (some h) bs (buf.addr : Nat) (some (h, buf.len, bufWord (some buf)))

/-! ### CPWP, CPCAN, CPINV (R283, R284) -/

/-- WP of the strand's most recent copy on a channel (R284). -/
def State.wpOf (s : State) (ch : Nat) : Nat :=
  match s.me.newest[ch]? with
  | some (some op) =>
    match (s.core s.me.core).copies.find? (fun c => c.op == op) with
    | some c => c.wp
    | none => s.me.wps.getD ch 0
  | _ => 0

/-- CPWP (R284). -/
def execCpwp (d : XReg) (ch : BitVec 6) (s : State) : Res :=
  finish (.cpwp d ch) do
    s.guard (3 < ch.toNat) 0x84 13 ch.toNat 0
    .ok (s.writeX d (BitVec.ofNat 64 (s.wpOf ch.toNat)))

/-- What the issuing strand keeps of a copy that has ended: its WP (R284). -/
def State.noteWp (s : State) (c : Copy) : State :=
  match c.iss.sid with
  | some sid => s.modStrand sid (fun t =>
      if t.newest[c.ch]? == some (some c.op) then { t with wps := t.wps.set! c.ch c.wp } else t)
  | none => s

/-- Replace a copy of a core. -/
def State.setCopy (s : State) (core : Nat) (c : Copy) : State :=
  let k := s.core core
  s.setCore core { k with copies := k.copies.map (fun p => if p.op = c.op then c else p) }

/-- A copy leaves its channel; its entries retire (R112). -/
def State.dropCopy (s : State) (core : Nat) (c : Copy) : State :=
  let s := (s.noteWp c).retireOp core c.op
  let k := s.core core
  s.setCore core { k with copies := k.copies.filter (fun p => p.op != c.op) }

/-- How many bytes of a write are performed before it fails. -/
def performed (s : State) (w : Who) (b : Bound) (e : Int) (n : Nat) : Nat :=
  match resolve w .write (b.view ≠ 0) (b.addrs e n) s none [] with
  | .error _ => 0
  | .ok (bs, s) => (bs.takeWhile (fun x => !s.wbad.contains x.loc)).length

/-- An engine operation has ended: the node without a strand that it is has ended (R64), and a failed or aborted launch
that waited for it completes. -/
def State.engineEnded (s : State) (i : Issuer) : State :=
  match i.sid with
  | some _ => s.settle i.gang.launch
  | none =>
    match s.node? i.gang.launch i.gang.node with
    | some n => s.setNode i.gang.launch i.gang.node { n with ended := true }
    | none => s

/-- Return a cancelled CPGOB's handle to free (R284). -/
def State.freeHandle (s : State) (c : Copy) : State :=
  match c.handle with
  | some h => s.setBufState (clusterOf c.iss.core) h 0
  | none => s

/-- The report of a failed copy (R411 class 0x50). -/
def State.reportCopy (s : State) (c : Copy) (cause addr cancelled : Nat) : State :=
  s.pend c.iss ⟨0x50, cause, BitVec.ofNat 64 addr, c.iss.iaddr, (c.rep cancelled).2⟩ c.op

/-- Cancel one copy (R284): a running copy finishes its current run, without events; a write that fails there is
reported as the copy's failure. -/
def State.cancelCopy (s : State) (core : Nat) (c : Copy) : State :=
  match c.pend with
  | [] => (s.dropCopy core c).freeHandle c
  | (e, bs) :: _ =>
    match engWrite s c.iss.who c.iss.sid c.dstView e bs with
    | (t, none) => (t.dropCopy core { c with wp := c.wp + bs.length }).freeHandle c
    | (t, some (cause, a)) =>
      let c := { c with wp := c.wp + performed s c.iss.who c.dstView e bs.length }
      ((t.dropCopy core c).freeHandle c).reportCopy c cause a 0

/-- CPCAN (R284). -/
def execCpcan (ch : BitVec 6) (s : State) : Res :=
  finish (.cpcan ch) do
    s.guard (3 < ch.toNat) 0x84 13 ch.toNat 0
    let mine := ((s.core s.me.core).onChan ch.toNat).filter (fun c => c.iss.sid == some s.me.id)
    .ok ((mine.foldl (fun t c => t.cancelCopy t.me.core c) s).retire 1)

/-- CPINV (R283). -/
def execCpinv (a : XReg) (all : Bool) (s : State) : Res :=
  let x := (s.me.getX a).toNat
  .next (s.setMe ({ s.me with cache := if all then [] else s.me.cache.filter (fun e => e.1 != x) }.retire 1))

/-! ### Events -/

/-- A CPGO or CPGOB that waits for room on its channel issues (R282). -/
def execChannelRoom (sid : Nat) (s : State) : Res :=
  s.awake sid fun i t =>
    let room (ch : BitVec 6) : Bool := ((t.core t.me.core).onChan ch.toNat).length < 4
    match i with
    | .cpgo ch a b => if room ch then some (execCpgo ch a b t) else none
    | .cpgob ch a b => if room ch then some (execCpgob ch a b t) else none
    | _ => none

/-- What an access waited for has retired, or a write pointer has passed: the strand's stalled instruction looks again
(R112). -/
def execInterlockRetire (sid : Nat) (s : State) : Res :=
  match s.select sid with
  | some t => .next (t.setMe { t.me with hold := none })
  | none => .next s

/-- The barriers of a copy's byte signals, and those of its arrivals (R282). -/
def Copy.srBytes (c : Copy) : Option Nat := if c.bytesMode then c.srev else none
def Copy.dvBytes (c : Copy) : Option Nat := if c.bytesMode then c.dvis else none
def Copy.srArrival (c : Copy) : Option Nat := if c.bytesMode then none else c.srev
def Copy.dvArrival (c : Copy) : Option Nat := if c.bytesMode || c.handle.isSome then none else c.dvis

/-- Why a signal to a barrier fails, if the object cannot be read, with its address (R414, R417). -/
def State.sigCause (s : State) (i : Issuer) (bar : Option Nat) : Option (Nat × Nat) :=
  bar.bind (fun a => (s.barCause i.core a).map (fun cause => (cause, a)))

/-- The next run of a copy, read whole before it is written (R280); with SREV and BYTES its bytes are signalled. -/
def copyRead (s : State) (c : Copy) : Except (Nat × Nat) (Copy × State) :=
  if c.pend ≠ [] ∨ c.allRead then .ok (c, s)
  else
    match engRead s c.iss.who c.srcView (c.srcAt c.next) c.run with
    | .error x => .error x
    | .ok (bs, s) =>
      match s.sigCause c.iss c.srBytes with
      | some x => .error x
      | none =>
        let c := { c with pend := [(c.dstAt c.next, bs)], next := c.next + 1 }
        let s := match c.srBytes with
          | some a => s.engineBytes c.iss a c.run c.op (c.rep 0)
          | none => s
        .ok ({ c with srSent := c.srSent + c.run }, s)

/-- The copy at work on a channel (R282). -/
def State.chanHead (s : State) (core ch : Nat) : Option Copy := ((s.core core).onChan ch).head?

/-- The read entry of a transfer retires (R112). -/
def State.retireRead (s : State) (core op : Nat) : State :=
  let c := s.core core
  s.setCore core { c with entries := c.entries.filter (fun e => !(e.op == op && !e.write)) }

/-- The copy at work performs its next `n` bytes, or what its run still has, and signals them in byte mode (R280,
R282). -/
def execCopyByteSignal (core ch n : Nat) (s : State) : Res :=
  match (if n = 0 then none else s.chanHead core ch) with
  | none => .next s
  | some c =>
    match copyRead s c with
    | .error _ => .next s
    | .ok (c, t) =>
      match c.pend with
      | [] => .next s
      | (e, bs) :: _ =>
        let k := min n bs.length
        match engWrite t c.iss.who c.iss.sid c.dstView e (bs.take k) with
        | (_, some _) => .next s
        | (u, none) =>
          let rest := bs.drop k
          let c := { c with wp := c.wp + k, pend := if rest = [] then [] else [(e + (k : Nat), rest)] }
          let v := u.setCopy core c
          if (u.sigCause c.iss c.dvBytes).isSome then .next s
          else .next (match c.dvBytes with
            | some a => v.engineBytes c.iss a k c.op (c.rep 0)
            | none => v)

/-- Every read of the copy at work has been performed: its read entry retires and the source-released arrival is made
(R282, R114). -/
def execCopySourceReleased (core ch : Nat) (s : State) : Res :=
  match s.chanHead core ch with
  | none => .next s
  | some c =>
    if c.srDone || !c.allRead || (s.sigCause c.iss c.srArrival).isSome then .next s
    else
      let t := (s.setCopy core { c with srDone := true }).retireRead core c.op
      .next (t.signalTo c.iss c.srArrival c.op (c.rep 0))

/-- Every write of the copy at work has been performed: the data-visible arrival is made, or the handle moves to full,
and the copy completes (R282, R278). -/
def execCopyDataVisible (core ch : Nat) (s : State) : Res :=
  match s.chanHead core ch with
  | none => .next s
  | some c =>
    if !c.allWritten || (c.srev.isSome && !c.srDone) || (s.sigCause c.iss c.dvArrival).isSome then .next s
    else
      let t := (s.dropCopy core c).copyVisible c c.dvArrival
      .next (t.engineEnded c.iss)

/-- A failing copy stops, and the later copies of its strand on the channel are cancelled (R417, R418). -/
def State.stopCopy (s : State) (core : Nat) (c : Copy) (cause a : Nat) : State :=
  let t := s.dropCopy core c
  let later := ((t.core core).onChan c.ch).filter (fun p => p.iss.sid.isSome && p.iss.sid == c.iss.sid)
  (later.foldl (fun u p => u.cancelCopy core p) t).reportCopy c cause a later.length

/-- The arrival that a copy with nothing left to move makes next, if its object cannot be read. -/
def State.arrivalCause (s : State) (c : Copy) : Option (Nat × Nat) :=
  if c.srev.isSome && !c.srDone then s.sigCause c.iss c.srArrival else s.sigCause c.iss c.dvArrival

/-- The copy at work stops at a read, a write or a signal that fails (R417, R418). -/
def execCopyFailed (core ch : Nat) (s : State) : Res :=
  match s.chanHead core ch with
  | none => .next s
  | some c =>
    match copyRead s c with
    | .error (cause, a) => .next (s.stopCopy core c cause a)
    | .ok (c, t) =>
      match c.pend with
      | [] =>
        match s.arrivalCause c with
        | some (cause, a) => .next (s.stopCopy core c cause a)
        | none => .next s
      | (e, bs) :: _ =>
        match engWrite t c.iss.who c.iss.sid c.dstView e bs with
        | (u, some (cause, a)) =>
          .next (u.stopCopy core { c with wp := c.wp + performed t c.iss.who c.dstView e bs.length } cause a)
        | (u, none) =>
          match u.sigCause c.iss c.dvBytes with
          | some (cause, a) => .next (u.stopCopy core { c with wp := c.wp + bs.length } cause a)
          | none => .next s

end Sys2Proof.Machine
end

