-- ==== Sys2Proof/Machine/BufBar.lean ====
section
/-! DEFINITION. Buffer handles and barrier objects, major 0x12 (R272 to R278, R420), with the ends of their waits. -/

namespace Sys2Proof.Machine

/-! ### Handles (R277, R278) -/

/-- Does a buffer region lie where R272 allows, in the strand's own cluster: its offset in the scratchpad. -/
def State.regionOff (s : State) (a n : Nat) : Option Nat :=
  let l := locOf s.me.core a
  if placeOk s s.me.core s.me.gang a n && isPad l && l / 2 ^ 23 == padLoc s.me.cluster 0 / 2 ^ 23 then some (l % 2 ^ 23)
  else none

/-- BUFSET (R278): the handle is undefined, or free and the gang's own. -/
def execBufset (a b c : XReg) (s : State) : Res :=
  finish (.bufset a b c) do
    let h := (s.me.getX a).toNat
    let len := (s.me.getX c).toNat
    let k := s.cluster s.me.cluster
    if 256 ≤ h then s.fail (s.bufFlt 0 h) else pure ()
    match k.buf? h with
    | some x =>
      if x.gang ≠ s.me.gang then s.fail (s.bufFlt 1 h)
      else if x.st ≠ 0 then s.fail (s.bufFlt 2 h) else pure ()
    | none => pure ()
    if len = 0 ∨ 2 ^ 23 < len then s.fail (s.bufFlt 4 h) else pure ()
    match s.regionOff (s.me.getX b).toNat len with
    | none => s.fail (s.bufFlt 4 h)
    | some off =>
      let ws := ((k.buf? h).map (·.waiters)).getD []
      .ok ((s.setCluster s.me.cluster (k.setBuf ⟨h, 0, len, off, s.me.gang, ws⟩)).retire 1)

/-- Does a strand wait for a handle to produce into it, or to consume it. -/
def Strand.claims (st : Strand) (produce : Bool) : Bool :=
  match st.blocked with
  | some (.bufclaim _ _ p) => p == produce
  | _ => false

/-- Does a waiter that came earlier wait for the same state of the handle (R278). -/
def State.claimAhead (s : State) (b : Buf) (produce : Bool) : Bool :=
  (b.waiters.takeWhile (· != s.me.id)).any (fun w => ((s.strand? w).map (·.claims produce)).getD false)

/-- BUFCLAIM (R278): from full to draining, or from free to filling; an acquire at cluster scope. -/
def execBufclaim (d a : XReg) (produce : Bool) (s : State) : Res :=
  finish (.bufclaim d a produce) do
    let h := (s.me.getX a).toNat
    let b ← s.ownBuf h
    let k := s.cluster s.me.cluster
    let me := s.me.id
    if b.st = (if produce then 0 else 2) ∧ s.claimAhead b produce = false then
      let k := k.setBuf { b with st := if produce then 1 else 3, waiters := b.waiters.filter (· != me) }
      let t := s.setCluster s.me.cluster k
      .ok (t.setMe ((t.me.staleAll.setX d (BitVec.ofNat 64 b.addr)).retire 1))
    else
      let ws := if b.waiters.contains me then b.waiters else b.waiters ++ [me]
      .error (.block (s.setCluster s.me.cluster (k.setBuf { b with waiters := ws })))

/-- BUFREL (R278): from filling to full, or from draining to free; a release at cluster scope. -/
def execBufrel (a : XReg) (s : State) : Res :=
  finish (.bufrel a) do
    let h := (s.me.getX a).toNat
    let b ← s.ownBuf h
    if b.st % 2 = 0 then s.fail (s.bufFlt 2 h) else pure ()
    s.release .rel
    .ok ((s.setBufState s.me.cluster h (if b.st = 1 then 2 else 0)).retire 1)

/-- BUFSTAT (R277, R278). -/
def execBufstat (d a : XReg) (s : State) : Res :=
  finish (.bufstat d a) do
    let h := (s.me.getX a).toNat
    if 256 ≤ h then s.fail (s.bufFlt 0 h) else pure ()
    .ok (s.writeX d (bufWord ((s.cluster s.me.cluster).buf? h)))

/-! ### Barrier objects (R273 to R276) -/

/-- An object named by an instruction: its place, its alignment, its readability, the strand's own transfers (R112,
R272, R414, R420). -/
def State.object (s : State) (a : Nat) (write : Bool) : Run Bar := do
  s.check (s.barChk a)
  let bs := objByts s.me.core a
  if s.conflicts bs write then .error (.hold s) else pure ()
  let v ← s.orFail (readByts s s.who 0 0 0 bs)
  .ok (barOf (ofLE v))

/-- Write an object that the strand has named. -/
def State.putObject (s : State) (a : Nat) (b : Bar) : State :=
  let t := s.setBar s.me.core a b
  (t.setMe (t.me.staleBytes (objByts s.me.core a))).retire 1

/-- BINIT (R275). -/
def execBinit (a b : XReg) (sc : Scope) (s : State) : Res :=
  finish (.binit a b sc) do
    let v := (s.me.getX a).toNat
    let n := (s.me.getX b).toNat
    s.guard (sc == .fa) 0x84 14 5 0
    s.check (s.barChk v)
    if s.conflicts (objByts s.me.core v) true then .error (.hold s) else pure ()
    if 65535 < n then s.fail (barFlt 2 v (s.barAt s.me.core v).nat) else pure ()
    .ok (s.putObject v ⟨0, scopeCode sc, 0, n, n, 0⟩)

/-- BEXP (R274, R275). -/
def execBexp (a b : XReg) (s : State) : Res :=
  finish (.bexp a b) do
    let v := (s.me.getX a).toNat
    let n := (s.me.getX b).toNat
    let o ← s.object v true
    if 2 ^ 32 ≤ o.pend + n then s.fail (barFlt 3 v o.nat) else pure ()
    .ok (s.putObject v { o with pend := o.pend + n })

/-- BARR (R107, R274): an arrival, as a release at SCOPE. -/
def State.barr (s : State) (a : XReg) : Run State := do
  let v := (s.me.getX a).toNat
  let o ← s.object v true
  match o.arrive with
  | none => s.fail (barFlt 4 v o.nat)
  | some o => do
    s.release .rel
    .ok (s.putObject v o)

/-- BARR (R275). -/
def execBarr (a : XReg) (s : State) : Res := finish (.barr a) (s.barr a)

/-- Has the phase a waiter awaits passed: only bit 0 of x[b] counts (R276). -/
def Strand.phasePassed (st : Strand) (o : Bar) (b : XReg) : Bool := o.phase != (st.getX b).toNat % 2

/-- BWAIT (R107, R275): an acquire at SCOPE. -/
def State.bwait (s : State) (a b : XReg) : Run State := do
  let o ← s.object (s.me.getX a).toNat false
  if s.me.phasePassed o b then .ok (s.setMe (s.me.staleAll.retire 1)) else .error (.block s)

/-- BWAIT (R275). -/
def execBwait (a b : XReg) (s : State) : Res := finish (.bwait a b) (s.bwait a b)

/-- BTRY (R275). -/
def execBtry (d a b : XReg) (s : State) : Res :=
  finish (.btry d a b) do
    let o ← s.object (s.me.getX a).toNat false
    if s.me.phasePassed o b then .ok (s.setMe ((s.me.staleAll.setX d 1#64).retire 1)) else .ok (s.writeX d 0#64)

/-! ### Events -/

/-- A waiting BUFCLAIM goes on (R278). -/
def execBufclaimWake (sid : Nat) (s : State) : Res :=
  s.awake sid fun i t =>
    match i with
    | .bufclaim d a p => some (execBufclaim d a p t)
    | _ => none

end Sys2Proof.Machine
end

