-- ==== Sys2Proof/Machine/Tags.lean ====
section
/-! DEFINITION. The tag table and scratchpad allocation, major 0x13 (R94, R95, R286, R287). -/

namespace Sys2Proof.Machine

/-- The set of a key (R94). -/
def tagSet (k : Nat) : Nat :=
  (List.range 7).foldl (fun a i => a ^^^ bitsOf k (9 * i + 8) (9 * i)) (bitsOf k 63 63)

/-- Bits of E that the table reserves (R94). -/
def tagReserved (e : Word) : Bool := bitsOf e.toNat 62 56 ≠ 0 || bitsOf e.toNat 46 40 ≠ 0 || bitsOf e.toNat 31 23 ≠ 0

/-- The valid entry of a key. -/
def Cluster.tag? (k : Cluster) (key : Word) : Option Tag := k.tags.find? (fun t => t.key == key)

/-- The lowest free way of a set (R95). -/
def Cluster.freeWay (k : Cluster) (set : Nat) : Option Nat :=
  (List.range 8).find? (fun w => !k.tags.any (fun t => t.set == set && t.way == w))

/-- TGLOOK (R287). -/
def execTglook (d a : XReg) (s : State) : Res :=
  .next (s.writeX d (match (s.cluster s.me.cluster).tag? (s.me.getX a) with
    | some t => t.e
    | none => 0#64))

/-- TGINS (R287). -/
def execTgins (d a b : XReg) (s : State) : Res :=
  finish (.tgins d a b) do
    let key := s.me.getX a
    let e := s.me.getX b
    s.guard (tagReserved e) 0x84 17 e.toNat 0
    let k := s.cluster s.me.cluster
    let set := tagSet key.toNat
    if (k.tag? key).isSome then .ok (s.writeX d 1#64)
    else
      match k.freeWay set with
      | none => .ok (s.writeX d 2#64)
      | some w =>
        let t : Tag := ⟨set, w, key, e ||| 0x8000000000000000#64, s.me.gang.launch, s.me.gang.node⟩
        .ok ((s.setCluster s.me.cluster { k with tags := t :: k.tags }).writeX d 0#64)

/-- TGDEL (R287). -/
def execTgdel (d a : XReg) (s : State) : Res :=
  let k := s.cluster s.me.cluster
  match k.tag? (s.me.getX a) with
  | none => .next (s.writeX d 0#64)
  | some t =>
    .next ((s.setCluster s.me.cluster { k with tags := k.tags.filter (fun u => u.key != t.key) }).writeX d 1#64)

/-- Is a range of the scratchpad in no allocation. -/
def Cluster.padFree (k : Cluster) (off n : Nat) : Bool := k.allocs.all (fun a => !overlap off n a.off a.len)

/-- The lowest place for an allocation of `n` bytes: offset 0 or the end of another allocation, where it is free
(R286). -/
def Cluster.place (k : Cluster) (n : Nat) : Option Nat :=
  ((0 :: k.allocs.map (fun a => a.off + a.len)).filter (fun o => o + n ≤ 2 ^ 23 && k.padFree o n)).min?

/-- The bytes of a range of the strand's own scratchpad, as an access of the strand has them. -/
def padByts (k off n : Nat) : List Byt := (List.range n).map (fun i => padByt (0xF1 * 2 ^ 56 + off + i) (padLoc k off + i))

/-- SPALLOC (R286); its zeros are writes of the strand, ordered behind its own transfers (R111, R112, R115). -/
def execSpalloc (d a : XReg) (z : Fin 6) (s : State) : Res :=
  finish (.spalloc d a z) do
    let n := (s.me.getX a).toNat
    s.guard (n = 0 || 2 ^ 23 < n) 0x84 15 n 0
    let size := (n + 1023) / 1024 * 1024
    let k := s.cluster s.me.cluster
    match k.place size with
    | none => .ok (s.writeX d 0#64)
    | some off =>
      let bs := padByts s.me.cluster off size
      if s.conflicts bs true then .error (.hold s) else pure ()
      let t := s.setCluster s.me.cluster { k with allocs := ⟨off, size, z.val, s.me.gang⟩ :: k.allocs }
      let u := t.writeP (padLoc s.me.cluster off) (zeros size)
      .ok ((u.setMe (u.me.staleBytes bs)).writeX d (BitVec.ofNat 64 (0xF1 * 2 ^ 56 + off)))

/-- SPFREE (R286). -/
def execSpfree (a : XReg) (s : State) : Res :=
  finish (.spfree a) do
    let v := (s.me.getX a).toNat
    let l := locOf s.me.core v
    let c := (l - 2 ^ 61) / 2 ^ 23
    let off := l % 2 ^ 23
    let k := s.cluster c
    let mine (x : Alloc) : Bool := x.off == off && x.gang == s.me.gang
    s.guard (!(isPad l && k.allocs.any mine)) 0x84 16 v 0
    .ok ((s.setCluster c { k with allocs := k.allocs.filter (fun x => !mine x) }).retire 1)

end Sys2Proof.Machine
end

