-- ==== Sys2Proof/Machine/Fabric.lean ====
section
/-! DEFINITION. Tensor descriptors by instruction (R295, R296), and the fabric, major 0x14 (R297 to R304, R422 to R424),
with the events of its operations. A peer's part comes with an event; what goes to a peer leaves the module. -/

namespace Sys2Proof.Machine

/-! ### TDNEW and TDSHARD -/

/-- TDNEW (R295, R97). -/
def execTdnew (d : XReg) (a : BRegNo) (off : BitVec 62) (s : State) : Res :=
  finish (.tdnew d a off) do
    let e := s.me.eb a off.toInt
    s.check [s.me.alignChk e]
    let (bs, t) ← s.loadE a useLD e 128 0
    let r := (tensorOf bs).firstFail
    let flags := field bs 7 1 % 128 + (if r = 0 then 128 else 0)
    let u ← t.storeE a useST (e + 7) [BitVec.ofNat 8 flags] 0
    .ok (u.setMe ((u.me.setX d (BitVec.ofNat 64 r)).retire 2))

/-- TDSHARD (R296). -/
def execTdshard (d : XReg) (a : BRegNo) (b c : XReg) (s : State) : Res :=
  finish (.tdshard d a b c) do
    let e := s.me.eb a 0
    let m := (s.me.getX b).toNat
    let mm := (s.me.getX c).toNat
    s.check [s.me.alignChk e]
    s.guard (mm = 0) 0x84 18 mm 0
    s.guard (mm ≤ m) 0x84 18 m 0
    let (bs, t) ← s.loadE a useLD e 128 0
    let td := tensorOf bs
    s.guard (!td.valid) 0x84 18 (addr64 e) 0
    s.guard (td.nl < mm) 0x84 18 mm 0
    let first := firstShard td.nl m mm
    .ok (t.writeX d (BitVec.ofNat 64 (first + (firstShard td.nl (m + 1) mm - first) * 2 ^ 32)))

/-! ### The exchange descriptor (R297) -/

def xOp (x : List Byte) : Nat := field x 4 1
def xKind (x : List Byte) : Nat := field x 6 1
def xTimed (x : List Byte) : Bool := bitsOf (field x 5 1) 1 1 = 1
def xGroup (x : List Byte) : Nat := field x 8 2
def xMembers (x : List Byte) : Nat := field x 0x0A 2
def xWin (x : List Byte) : Nat := field x 0x0C 2
def xPeer (x : List Byte) : Nat := field x 0x0E 2
def xTd (x : List Byte) : Nat := field x 0x10 8
def xLocal (x : List Byte) : Nat := field x 0x18 8
def xDst (x : List Byte) : Nat := field x 0x20 8
def xIdx (x : List Byte) : Nat := field x 0x28 8
def xCount (x : List Byte) : Nat := field x 0x30 8
def xSrc (x : List Byte) : Nat := field x 0x38 8
def xSeq (x : List Byte) : Nat := field x 0x40 8
def xTrel (x : List Byte) : Nat := field x 0x48 8
def xRoot (x : List Byte) : Nat := field x 0x50 4
def xLowB (x : List Byte) : BRegNo := Fin.ofNat 16 (field x 7 1 % 16)
def xHighB (x : List Byte) : BRegNo := Fin.ofNat 16 (field x 7 1 / 16)

def State.group? (s : State) (n : Nat) : Option FGroup := s.groups.find? (fun g => g.n == n)

/-- The conditions on an exchange descriptor, with their offsets in order (R297, R298); `late` holds those that need the
tensor descriptor. -/
def State.xdChecks (s : State) (minor : Nat) (x : List Byte) (late : List (Bool × Nat)) : List (Bool × Nat) :=
  let g := s.group? (xGroup x)
  let fl := field x 5 1
  let head : List (Bool × Nat) := [(field x 0 4 ≠ 0x00040006, 0), (xOp x ≠ minor, 4), (4 ≤ fl || (2 ≤ fl && minor ≠ 5), 5),
   (if minor = 4 then 5 < xKind x else xKind x ≠ 0, 6), (g.isNone, 8),
   (decide ((g.map (·.members.length)).getD 0 ≠ xMembers x), 0x0A),
   (5 ≤ minor && xMembers x ≤ xPeer x, 0x0E)]
  head ++ late ++ [(!zeroIn x 0x54 44, 0x54)]

/-- The conditions on a tensor descriptor that an exchange names (R298, R301). -/
def tdChecks (x : List Byte) (t : Tensor) : List (Bool × Nat) :=
  [(22 < t.etype || isBlock t.ty, 4), (t.eb % 8 ≠ 0 || (xOp x = 4 && t.ncomp ≠ 1), 6), (!t.valid, 7)]

/-- The conditions that need a usable tensor descriptor: CLEN of a reduce-scatter, the shard of a broadcast (R301). -/
def xdLate (x : List Byte) (t : Tensor) : List (Bool × Nat) :=
  if (tdChecks x t).any (·.1) then []
  else [(xOp x = 4 && xKind x = 1 && xCount x % t.nl ≠ 0, 0x30), (xOp x = 4 && xKind x = 3 && t.nl ≤ xRoot x, 0x50)]

/-- Bytes of a row (R299). -/
def Tensor.rowBytes (t : Tensor) : Nat := prod ((t.dims t.gshape).drop 1) * t.eb / 8

/-- The local bytes an operation reads, and those it writes (R298 to R302). -/
def localReads (x : List Byte) (t : Tensor) : List (Int × Nat) :=
  let a : Int := (xLocal x : Nat)
  match xOp x with
  | 2 | 3 => [(a, xCount x * t.rowBytes)]
  | 4 => [(a, t.ownCount * xCount x * sbytes t.ty)]
  | 5 => [(a, xCount x)]
  | _ => []

def localWrites (x : List Byte) (t : Tensor) : List (Int × Nat) :=
  let n := xCount x * sbytes t.ty
  match xOp x with
  | 1 => [((xLocal x : Nat), xCount x * t.rowBytes)]
  | 4 => [((xDst x : Nat), if xKind x = 1 then t.ownCount * (xCount x / t.nl) * sbytes t.ty
      else if xKind x = 2 then t.nl * n else n)]
  | 6 => [((xLocal x : Nat), xCount x)]
  | _ => []

def idxReads (x : List Byte) : List (Int × Nat) :=
  if 1 ≤ xOp x ∧ xOp x ≤ 3 then [((xIdx x : Nat), 4 * xCount x)] else []

/-- Admission of the local bytes and the index list (R298). -/
def fabAdmit (w : Who) (x : List Byte) (t : Tensor) (lb hb : Bound) : Option Flt :=
  let lo := (xLowB x).val
  (admission w hb (xHighB x).val useER (idxReads x)).orElse fun _ =>
    (admission w lb lo useER (localReads x t)).orElse fun _ =>
      (admission w lb lo useEW (localWrites x t)).orElse fun _ =>
        admission w lb lo useFA (localReads x t ++ localWrites x t)

/-- Class 0x46 of a fabric instruction (R411). -/
def State.blockFlt (s : State) (det a off : Nat) : Flt := ⟨0x46, det, BitVec.ofNat 64 a, BitVec.ofNat 64 off, s.me.pc⟩

def State.refuseBlock (s : State) (det a : Nat) (cs : List (Bool × Nat)) : Run Unit :=
  match firstBad cs with
  | some o => s.fail (s.blockFlt det a o)
  | none => .ok ()

/-- The tensor descriptor of minors 1 to 4, read through the high BNDS register (R298). -/
def State.fabTensor (s : State) (minor : Nat) (x : List Byte) : Run (List Byte × State) :=
  if 4 < minor then .ok ([], s) else s.loadE (xHighB x) useLD (xTd x : Nat) 128 0

/-- Both descriptors of a fabric instruction, the exchange descriptor `x` read: class 0x84 comes before class 0x46
(R433), and a descriptor with a failing field is refused also where its TDESC cannot be read. -/
def State.fabDesc (s : State) (minor : Nat) (ty : ETy) (e : Int) (x : List Byte) : Run (List Byte × State) :=
  match s.fabTensor minor x with
  | .error z => do
    s.refuseBlock 1 (addr64 e) (s.xdChecks minor x [])
    .error z
  | .ok (bs, t) => do
    let td := tensorOf bs
    s.guard (minor ≤ 4 && td.etype != etyCode ty) 0x84 19 (etyCode ty) 0
    s.refuseBlock 1 (addr64 e) (s.xdChecks minor x (xdLate x td))
    s.refuseBlock 2 (xTd x) (if minor ≤ 4 then tdChecks x td else [])
    .ok (bs, t)

/-- RND and SAT of a COLL that is not a sum must be zero (R298), which CKIND tells only at issue (log entry 113). -/
def State.collMod (s : State) (i : Instr) (minor : Nat) (x : List Byte) (rnd : Rnd) (sat : Bool) : Run Unit :=
  let w := (encode i).headD 0
  let plain := minor = 4 && 2 ≤ xKind x && xKind x ≤ 5
  if plain && sat then s.fail (s.me.flt 0x80 3 w 12)
  else if plain && rnd != .rne then s.fail (s.me.flt 0x80 6 w 18)
  else .ok ()

/-- FGATH to RGET at issue (R298). With COUNT 0 the arrival is immediate, except in collectives. -/
def State.fabIssue (s : State) (i : Instr) (minor : Nat) (d : XReg) (a : BRegNo) (ty : ETy) (rnd : Rnd) (sat : Bool) :
    Run State := do
  let e := s.me.eb a 0
  s.check [s.me.alignChk e]
  s.guard (5 ≤ minor && ty != .n8) 0x84 19 (etyCode ty) 0
  let (x, s1) ← s.loadE a useLD e 128 0
  s.collMod i minor x rnd sat
  let (td, s2) ← s1.fabDesc minor ty e x
  let t := tensorOf td
  let lb := s.me.getB (xLowB x)
  let hb := s.me.getB (xHighB x)
  match fabAdmit s.who x t lb hb with
  | some f => s.fail f
  | none => pure ()
  let bar := if d = 0 then none else some (s.me.getX d).toNat
  s.check ((bar.map s.barChk).getD [])
  if xCount x = 0 ∧ minor ≠ 3 ∧ minor ≠ 4 then .ok ((s2.signalTo s.issuer bar 0 (0x52, 0#64)).retire 1)
  else do
    let op := s2.newOp
    let core := s.me.core
    let u ← op.2.takeEntries
      [entryOf s.me.id op.1 false (footprint core hb (idxReads x) ++ footprint core lb (localReads x t)),
       entryOf s.me.id op.1 true (footprint core lb (localWrites x t))]
    let ord := s.me.ordRead + (if xOp x = 1 ∨ xOp x = 6 then 1 else 0)
    let f : FabOp := ⟨op.1, s.issuer, x, td, lb, hb, ty, s.me.rnd rnd, sat, bar, s.time, none, false, false, none, 0#7, ord⟩
    let u := u.setMe { u.me with ordRead := ord }
    .ok ({ u with fabs := u.fabs ++ [f] }.retire 1)

/-- FGATH (R299). -/
def execFgath (d : XReg) (a : BRegNo) (ty : ETy) (s : State) : Res :=
  finish (.fgath d a ty) (s.fabIssue (.fgath d a ty) 1 d a ty .rne false)
/-- FSCAT (R299). -/
def execFscat (d : XReg) (a : BRegNo) (ty : ETy) (s : State) : Res :=
  finish (.fscat d a ty) (s.fabIssue (.fscat d a ty) 2 d a ty .rne false)
/-- FSCATA (R300). -/
def execFscata (d : XReg) (a : BRegNo) (m : FMod) (s : State) : Res :=
  finish (.fscata d a m) (s.fabIssue (.fscata d a m) 3 d a m.ty m.rnd m.sat)
/-- COLL (R301). -/
def execColl (d : XReg) (a : BRegNo) (m : FMod) (s : State) : Res :=
  finish (.coll d a m) (s.fabIssue (.coll d a m) 4 d a m.ty m.rnd m.sat)
/-- RPUT (R302). -/
def execRput (d : XReg) (a : BRegNo) (ty : ETy) (s : State) : Res :=
  finish (.rput d a ty) (s.fabIssue (.rput d a ty) 5 d a ty .rne false)
/-- RGET (R302). -/
def execRget (d : XReg) (a : BRegNo) (ty : ETy) (s : State) : Res :=
  finish (.rget d a ty) (s.fabIssue (.rget d a ty) 6 d a ty .rne false)

/-! ### Windows (R344, R345) -/

def State.window? (s : State) (n : Nat) : Option Window := s.wins.find? (fun w => w.n == n)

/-- Does a window's range include a device-class page (R345). -/
def winHasDev (s : State) (w : Window) : Bool :=
  !w.phys && (List.range (w.len / 4096 + 2)).any (fun i =>
    let a := min (w.base + 4096 * i) (w.base + w.len - 1)
    match devAccess s w.ctx a 1 .read with
    | .ok (b :: _, _) => b.dev
    | _ => false)

/-- Is an operation refused by a window, with the DETAIL of class 0x61 (R344, R411). `bit` is its grant: 0 read, 1
write, 2 atomic. -/
def winRefuses (s : State) (w : Window) (bit off n : Nat) (admitted rudi : Bool) : Option Nat :=
  if w.len < off + n then some 0
  else if bitsOf w.perm bit bit = 0 then some 1
  else if !admitted then some 2
  else if rudi && winHasDev s w then some 4
  else none

/-- The bytes of a window's operation, or that the leaf forbids it. A physical window is not translated (R348). -/
def winBytes (s : State) (w : Window) (off n : Nat) (need : Need) : Option (List Byt × State) :=
  if w.phys then some ((span (w.base + off) n).map (fun a => padByt a a), s)
  else
    match devAccess s w.ctx (w.base + off) n need with
    | .ok r => some r
    | .error _ => none

/-- A refused operation at a window (R423): class 0x61 to the host that set it, or, for a window that none has set, to
every host registered for health events. -/
def State.send61 (s : State) (win det off src : Nat) : State :=
  let f : Flt := ⟨0x61, det, BitVec.ofNat 64 off, BitVec.ofNat 64 win, BitVec.ofNat 64 src⟩
  match s.window? win with
  | some w => if s.hosts.any (fun h => h.1 == w.host) then s.sendRec w.host (plainRec s.time w.ctx 0#64 f) else s
  | none => ((s.hosts.filter (·.2)).map (·.1)).foldl (fun t h => t.sendRec h (plainRec s.time 0 0#64 f)) s

/-! ### Performing an operation -/

/-- A failure of an operation: its cause (R412), the address to report, index entry or SEQ, and the DETAIL of class 0x61
that the module's own window adds (R423). -/
structure FabFail where
  cause : Nat
  addr : Nat
  info2 : Nat
  own : Option Nat
  deriving DecidableEq, Repr

abbrev FabRun (α : Type) := Except FabFail (α × State)

def fabErr (k : Nat) (e : Nat × Nat) : FabFail := ⟨e.1, e.2, k, none⟩

/-- This module's rank in the operation's group, and the members' number. -/
def FabOp.rank (f : FabOp) (s : State) : Nat := ((s.group? (xGroup f.xdesc)).map (·.rank)).getD 0
/-- TAG of the records of a fabric read (R376). -/
def FabOp.logTag (f : FabOp) : Word := Machine.logTag (nodeIdOf f.iss.gang) f.iss.linidx.toNat
def FabOp.mm (f : FabOp) : Nat := xMembers f.xdesc
def FabOp.td (f : FabOp) : Tensor := tensorOf f.tdesc

/-- The window of the operation on this module, which is a member of every group that GROUPSET has defined (R344,
R352). -/
def ownWindow (s : State) (f : FabOp) (bit off n : Nat) (rudi : Bool) : Except FabFail Window :=
  match s.window? (xWin f.xdesc) with
  | none => .error ⟨18, off, 0, some 0⟩
  | some w =>
    let admitted := bitsOf w.perm 3 3 = 1 && !w.phys && (s.group? w.group).isSome
    match winRefuses s w bit off n admitted rudi with
    | some d => .error ⟨18, off, 0, some d⟩
    | none => .ok w

/-- Read from the module's own window; a reservation of the strand is touched (R215). -/
def ownRead (s : State) (f : FabOp) (off n : Nat) (rudi : Bool) : FabRun (List Byte) :=
  match ownWindow s f 0 off n rudi with
  | .error e => .error e
  | .ok w =>
    match winBytes s w off n .read with
    | none => .error ⟨18, off, 0, some 3⟩
    | some (bs, s) =>
      match bs.find? (fun b => s.bad.contains b.loc) with
      | some b => .error ⟨8 + badDetail b, off, 0, none⟩
      | none => .ok (bs.map (fun b => Memory.get s.mem b.loc), s.touch f.iss.sid (bs.map (·.loc)))

/-- Write to the module's own window; run-ahead groups of the strand become stale (R115). -/
def ownWrite (s : State) (f : FabOp) (off : Nat) (vs : List Byte) : FabRun Unit :=
  match ownWindow s f 1 off vs.length false with
  | .error e => .error e
  | .ok w =>
    match winBytes s w off vs.length .write with
    | none => .error ⟨18, off, 0, some 3⟩
    | some (bs, s) =>
      match bs.find? (fun b => s.wbad.contains b.loc) with
      | some _ => .error ⟨16, off, 0, none⟩
      | none => .ok ((), (s.pokeByts bs vs).staleFor f.iss.sid bs)

/-- All index tuples below given extents, the last dimension fastest. -/
def tuplesOf : List Nat → List (List Nat)
  | [] => [[]]
  | n :: ns => (List.range n).flatMap (fun i => (tuplesOf ns).map (i :: ·))

/-- The owner of an element and its offset in that owner's window (R296, R298). -/
def fabPlace (t : Tensor) (mm : Nat) (g : List Nat) : Nat × Nat :=
  let p := t.place g
  let r := rankOf t.nl mm p.1
  (r, (p.1 - firstShard t.nl r mm) * t.shPitch + p.2 / 8)

/-- The elements of row `x`, in linear order. -/
def rowElems (t : Tensor) (x : Nat) : List (List Nat) := (tuplesOf ((t.dims t.gshape).drop 1)).map (x :: ·)

/-- The checked rows of the index list, or the lowest entry that cannot be read or is out of range (R299, R411, R422). -/
def readIdx (s : State) (f : FabOp) : FabRun (List Nat) :=
  let x := f.xdesc
  match engReads f.iss.who f.idxBound s (idxReads x) with
  | .error e => .error (fabErr ((f.idxBound.addrs (xIdx x : Nat) (4 * xCount x)).findIdx (· == e.2) / 4) e)
  | .ok (bs, s) =>
    let n : Int := (f.td.gshape.getD 0 0 : Nat)
    let vs := (List.range (xCount x)).map (fun k =>
      let v := sfield bs (4 * k) 4
      if v < 0 ∧ field x 5 1 % 2 = 1 then v + n else v)
    match vs.findIdx? (fun v => v < 0 || n ≤ v) with
    | some k => .error ⟨19, xIdx x + 4 * k, k, none⟩
    | none => .ok (vs.map Int.toNat, s)

/-- Read local bytes of an operation, for index entry `k`. -/
def locRead (s : State) (f : FabOp) (e : Int) (n k : Nat) : FabRun (List Byte) :=
  match engRead s f.iss.who f.locBound e n with
  | .error x => .error (fabErr k x)
  | .ok r => .ok r

/-- Write local bytes; those before a failing one are performed (R417). -/
def locWrite (s : State) (f : FabOp) (e : Int) (vs : List Byte) (k : Nat) : State × Option FabFail :=
  match engWrite s f.iss.who f.iss.sid f.locBound e vs with
  | (t, none) => (t, none)
  | (t, some x) => (t, some (fabErr k x))

/-- The places of a row's elements. -/
def rowPlaces (f : FabOp) (x : Nat) : List (Nat × Nat) := (rowElems f.td x).map (fabPlace f.td f.mm)

/-- What peers do for an operation: the bytes they return, how many of its writes they perform, and the cause by which
the access after those fails. -/
structure Peers where
  bytes : List Byte
  writes : Nat
  cause : Nat
  deriving DecidableEq, Repr

/-- Gather one row: own elements through the own window, others from what the peers returned. -/
def gatherRow (f : FabOp) (own eb : Nat) : State → Peers → List (Nat × Nat) → FabRun (List Byte × Peers)
  | s, peer, [] => .ok (([], peer), s)
  | s, peer, (r, off) :: rest =>
    match (if r = own then ownRead s f off eb true
      else if peer.bytes.length < eb then .error ⟨peer.cause, off, 0, none⟩
      else .ok (peer.bytes.take eb, s)) with
    | .error e => .error e
    | .ok (bs, s) =>
      match gatherRow f own eb s (if r = own then peer else { peer with bytes := peer.bytes.drop eb }) rest with
      | .error e => .error e
      | .ok ((cs, peer), s) => .ok ((bs ++ cs, peer), s)

/-- FGATH over the rows in order (R299). -/
def gather (f : FabOp) (own : Nat) : State → Peers → Nat → List Nat → State × Option FabFail
  | s, _, _, [] => (s, none)
  | s, peer, k, x :: xs =>
    match gatherRow f own (f.td.eb / 8) s peer (rowPlaces f x) with
    | .error e => (s, some { e with info2 := k })
    | .ok ((bs, peer), t) =>
      match locWrite t f (xLocal f.xdesc + k * f.td.rowBytes : Nat) bs k with
      | (t, none) => gather f own t peer (k + 1) xs
      | r => r

/-- A marked put that arrives while this module's LOCK is clear is reported to the host of the context that owns the
window, under DETAIL 3 (R302, R424). -/
def State.lateMark (s : State) (win off : Nat) (mark : Option Word) : State :=
  match mark, s.window? win with
  | some trel, some w =>
    if s.lock then s
    else s.sendRec (if w.phys then w.host else s.hostOfCtx w.ctx)
      (plainRec s.time w.ctx 0#64 ⟨0x60, 3, BitVec.ofNat 64 off, trel, s.time⟩)
  | _, _ => s

/-- A write at a member's window: the own one, where a marked put arrives as it does at a peer, or a message to the
peer. -/
def memberWrite (s : State) (f : FabOp) (own r off : Nat) (vs : List Byte) (mark : Option Word) : FabRun Unit :=
  if r = own then (ownWrite s f off vs).map (fun u => ((), u.2.lateMark (xWin f.xdesc) off mark))
  else .ok ((), s.emit (.put (xGroup f.xdesc) r (xWin f.xdesc) off vs mark))

/-- Scatter one row: the peers perform as many of its writes as they can. -/
def scatterRow (f : FabOp) (own eb : Nat) :
    State → Peers → List Byte → List (Nat × Nat) → (State × Peers) × Option FabFail
  | s, peer, _, [] => ((s, peer), none)
  | s, peer, bs, (r, off) :: rest =>
    if r ≠ own ∧ peer.writes = 0 then ((s, peer), some ⟨peer.cause, off, 0, none⟩)
    else
      match memberWrite s f own r off (bs.take eb) none with
      | .error e => ((s, peer), some e)
      | .ok ((), s) =>
        scatterRow f own eb s (if r = own then peer else { peer with writes := peer.writes - 1 }) (bs.drop eb) rest

/-- FSCAT over the rows in order: the highest source index stays (R299). -/
def scatter (f : FabOp) (own : Nat) : State → Peers → Nat → List Nat → State × Option FabFail
  | s, _, _, [] => (s, none)
  | s, peer, k, x :: xs =>
    match locRead s f (xLocal f.xdesc + k * f.td.rowBytes : Nat) f.td.rowBytes k with
    | .error e => (s, some e)
    | .ok (bs, t) =>
      match scatterRow f own (f.td.eb / 8) t peer bs (rowPlaces f x) with
      | ((t, peer), none) => scatter f own t peer (k + 1) xs
      | ((t, _), some e) => (t, some { e with info2 := k })

/-- A put's bytes go to the peer, or to the own window (R302). -/
def sendPut (s : State) (f : FabOp) (mark : Option Word) (peer : Peers) : State × Option FabFail :=
  let x := f.xdesc
  match locRead s f (xLocal x : Nat) (xCount x) 0 with
  | .error e => (s, some e)
  | .ok (bs, t) =>
    if xPeer x ≠ f.rank s ∧ peer.writes = 0 then (t, some ⟨peer.cause, xDst x, 0, none⟩)
    else
      match memberWrite t f (f.rank s) (xPeer x) (xDst x) bs mark with
      | .error e => (t, some e)
      | .ok ((), t) => (t, none)

/-- RGET (R302). -/
def getBytes (s : State) (f : FabOp) (peer : Peers) : State × Option FabFail :=
  let x := f.xdesc
  match (if xPeer x = f.rank s then ownRead s f (xDst x) (xCount x) true
    else if peer.bytes.length < xCount x then .error ⟨peer.cause, xDst x, 0, none⟩
    else .ok (peer.bytes, s)) with
  | .error e => (s, some e)
  | .ok (bs, t) => locWrite t f (xLocal x : Nat) bs 0

/-- An operation that is not collective, performed as far as it goes: the state it leaves, and how it failed. A timed put
has been performed when it was transmitted, and may then still be refused. -/
def fabPerform (s : State) (f : FabOp) (peer : Peers) : State × Option FabFail :=
  match xOp f.xdesc with
  | 1 | 2 =>
    match readIdx s f with
    | .error e => (s, some e)
    | .ok (xs, t) => if xOp f.xdesc = 1 then gather f (f.rank s) t peer 0 xs else scatter f (f.rank s) t peer 0 xs
  | 5 =>
    if !xTimed f.xdesc then sendPut s f none peer
    else if f.sentAt.isSome && xPeer f.xdesc ≠ f.rank s && peer.writes = 0 then
      (s, some ⟨peer.cause, xDst f.xdesc, 0, none⟩)
    else (s, none)
  | 6 => getBytes s f peer
  | _ => (s, none)

def FabOp.collective (f : FabOp) : Bool := xOp f.xdesc == 3 || xOp f.xdesc == 4

/-- How many bytes the peers return for an operation: the data of a fabric read, or, of a collective, the flags that each
other member has raised, in rank order (R300). -/
def peerBytes (s : State) (f : FabOp) : Nat :=
  let own := f.rank s
  match xOp f.xdesc with
  | 1 =>
    match readIdx s f with
    | .error _ => 0
    | .ok (xs, _) => (xs.flatMap (fun x => (rowPlaces f x).filter (fun p => p.1 != own))).length * (f.td.eb / 8)
  | 6 => if xPeer f.xdesc = own then 0 else xCount f.xdesc
  | _ => if f.collective then f.mm - 1 else 0

/-- How many writes of an operation peers perform at most: one for each element of a row, or the put's. -/
def FabOp.writes (f : FabOp) : Nat := xCount f.xdesc * (rowElems f.td 0).length + 1

/-- Peers that serve the whole operation, with the bytes they return. -/
def FabOp.served (f : FabOp) (bytes : List Byte) : Peers := ⟨bytes, f.writes, 17⟩

/-- Does an operation travel on the ordered flows (R298, R352): a scatter, a collective or a put. -/
def FabOp.ordered (f : FabOp) : Bool := xOp f.xdesc == 2 || f.collective || xOp f.xdesc == 5

/-- A timed put (R302), and one that is not transmitted. -/
def FabOp.timed (f : FabOp) : Bool := xOp f.xdesc == 5 && xTimed f.xdesc
def FabOp.unsent (f : FabOp) : Bool := f.timed && f.sentAt.isNone

/-- The endpoint addresses an operation goes to. -/
def FabOp.targets (f : FabOp) (s : State) : List Nat :=
  let ms := ((s.group? (xGroup f.xdesc)).map (·.members)).getD []
  if 5 ≤ xOp f.xdesc then (ms[xPeer f.xdesc]?).toList else ms

/-- Is an operation an earlier one of the same strand or node. -/
def FabOp.before (g f : FabOp) : Bool := g.iss.sid == f.iss.sid && g.iss.gang == f.iss.gang && decide (g.op < f.op)

/-- Does TREL order put a timed put ahead of an earlier operation of its strand (R302): of a timed put of a later TREL,
and of what waits behind such a put (log entry 140). -/
def State.overtakes (s : State) (f g : FabOp) : Bool :=
  f.timed && s.fabs.any (fun k => k.unsent && (k.op == g.op || k.before g) && decide (xTrel f.xdesc < xTrel k.xdesc))

/-- Operations of the same strand or node that are ahead on an ordered flow to a common target (R298). -/
def State.ahead (s : State) (f : FabOp) : List FabOp :=
  s.fabs.filter (fun g => f.ordered && g.ordered && g.before f && (g.targets s).any (f.targets s).contains
    && (!g.timed || g.unsent) && !s.overtakes f g)

/-- Must an operation wait for one ahead of it: those perform their writes first. -/
def State.flowBehind (s : State) (f : FabOp) : Bool := !(s.ahead f).isEmpty

/-- Must a collective's contribution wait for a frame of one ahead of it. -/
def State.sendBehind (s : State) (f : FabOp) : Bool := (s.ahead f).any (fun g => g.mine.isNone)

/-- May a timed put be transmitted (R302): TIME has reached TREL, no timed put of an earlier TREL waits, and none of its
strand's frames to the target goes before it. -/
def State.putReady (s : State) (f : FabOp) : Bool :=
  f.unsent && decide (BitVec.ofNat 64 (xTrel f.xdesc) ≤ s.time)
    && !s.fabs.any (fun g => g.unsent && decide (xTrel g.xdesc < xTrel f.xdesc)) && !s.flowBehind f

/-- A timed put that may be transmitted goes ahead of untimed frames (R302), at whichever port (log entry 140). -/
def State.timedDue (s : State) : Bool := s.fabs.any s.putReady

def State.fab? (s : State) (op : Nat) : Option FabOp := s.fabs.find? (fun f => f.op == op)
def State.setFab (s : State) (f : FabOp) : State :=
  { s with fabs := s.fabs.map (fun g => if g.op = f.op then f else g) }
def State.dropFab (s : State) (f : FabOp) : State :=
  { s with fabs := s.fabs.filter (fun g => g.op != f.op) }.retireOp f.iss.core f.op

/-- The flags of a collective are raised on the issuing strand with its completion, at element index 0; an enabled one
makes a trap pending (R300, R445). -/
def State.raiseFor (s : State) (i : Issuer) (op : Nat) (ev : Ev) : State :=
  if ev = 0#7 then s
  else
    match i.sid with
    | none => s
    | some sid =>
      let s := match s.strand? sid with
        | some t => s.raiseOn t i.iaddr i.seq [(0, ev)]
        | none => s
      match trapOf i.ten i.iaddr 0 ev with
      | some f => s.pend i f op
      | none => s

/-- The head of the records of what peers return: a fabric read's ordinal (R376); for a collective's flags an ordinal that
no fabric read has, and SEQ (log entry 122). -/
def FabOp.replyHead (f : FabOp) : List Byte :=
  if f.collective then toLE 8 (2 ^ 64 - 1) ++ toLE 8 (xSeq f.xdesc) else toLE 8 f.ord

/-- Do peers return something to an operation. -/
def FabOp.answered (f : FabOp) : Bool := xOp f.xdesc == 1 || xOp f.xdesc == 6 || f.collective

/-- What the peers returned to an operation: in a replay, as its records hold it (R455). -/
def FabOp.replied (f : FabOp) (s : State) (peerData : List Byte) : List Byte :=
  if s.replay.isSome && f.answered then
    let n := f.replyHead.length
    (s.logAll.filter (fun r => r.ltype == 4 && r.tag == f.logTag && r.payload.take n == f.replyHead)).flatMap
      (·.payload.drop n)
  else peerData

/-- What peers return is recorded (R375). -/
def State.logReply (s : State) (f : FabOp) (peerData : List Byte) : State :=
  if f.answered && !peerData.isEmpty then s.logData (xWin f.xdesc) f.logTag f.replyHead peerData else s

/-- The union of the flags that the members of a collective have raised (R300): this module's and those of the others. -/
def FabOp.union (f : FabOp) (peerData : List Byte) : Ev :=
  if f.collective then peerData.foldl (fun e b => e ||| b.setWidth 7) f.evs else f.evs

/-- FABRIC_OP_COMPLETE (R298): the operation's accesses, then its arrival. A timed put has been transmitted before, a
collective applied, here and, with their flags, on the other members (R300); a due timed put goes first. -/
def execFabricOpComplete (op : Nat) (peerData : List Byte) (s : State) : Res :=
  match s.fab? op with
  | none => .next s
  | some f =>
    let peerData := f.replied s peerData
    let late := f.collective || f.timed
    if (if late then f.sentAt.isNone else s.timedDue) || s.flowBehind f || peerData.length ≠ peerBytes s f then .next s
    else
      match fabPerform s f (f.served peerData) with
      | (_, some _) => .next s
      | (t, none) =>
        let t := (t.logReply f peerData).dropFab f
        .next (((t.raiseFor f.iss f.op (f.union peerData)).signalTo f.iss f.barrier f.op (0x52, 0#64)).engineEnded f.iss)

/-! ### Collectives (R300, R301, R422) -/

/-- The codes of an element's components. -/
def codesOf (t : Tensor) (bs : List Byte) : List Nat := (List.range t.ncomp).map (elem (sbits t.ty) (ofLE bs))

/-- The linear index of an element over GSHAPE. -/
def Tensor.lin (t : Tensor) (g : List Nat) : Nat := linear g (t.dims t.gshape)

/-- Rows of a scatter-add as contributions, from entry `k` on. -/
def scatterItems (f : FabOp) : State → Nat → List Nat → FabRun (List (Nat × Nat × List Nat))
  | s, _, [] => .ok ([], s)
  | s, k, x :: xs =>
    let t := f.td
    match locRead s f (xLocal f.xdesc + k * t.rowBytes : Nat) t.rowBytes k with
    | .error e => .error e
    | .ok (bs, s) =>
      let n := t.eb / 8
      let items := (rowElems t x).zipIdx.map (fun g =>
        ((xSrc f.xdesc + k) % 2 ^ 64, t.lin g.1, codesOf t ((bs.drop (n * g.2)).take n)))
      match scatterItems f s (k + 1) xs with
      | .error e => .error e
      | .ok (r, s) => .ok (items ++ r, s)

/-- What this module brings to a collective (R300, R301), or its own failure (R422). -/
def ownItems (s : State) (f : FabOp) : FabRun (List (Nat × Nat × List Nat)) :=
  let x := f.xdesc
  let t := f.td
  if xOp x = 3 then
    match readIdx s f with
    | .error e => .error e
    | .ok (xs, s) => scatterItems f s 0 xs
  else
    let n := sbytes t.ty
    match locRead s f (xLocal x : Nat) (t.ownCount * xCount x * n) 0 with
    | .error e => .error e
    | .ok (bs, s) =>
      .ok ((List.range t.ownCount).map (fun i =>
        (0, t.ownFirst + i, (List.range (xCount x)).map (fun j => field bs ((i * xCount x + j) * n) n))), s)

/-- What this module has contributed, or would now. -/
def brought (s : State) (f : FabOp) : FabRun (List (Nat × Nat × List Nat)) :=
  match f.mine with
  | some m => .ok (m, s)
  | none => ownItems s f

/-- Do a member's fields agree with the operation (R300, R422); COUNT is one of them, although the two members of R300's
worked example have 3 and 2 (log entry 149). -/
def agrees (f : FabOp) (c : Contribution) : Bool :=
  c.xop == xOp f.xdesc && c.ckind == xKind f.xdesc && c.count == xCount f.xdesc && c.ty == f.ty && c.rnd == f.rnd
    && c.sat == f.sat && c.gshape == f.td.dims f.td.gshape

/-- Has every member arrived, once each: the own rank's entry stands for this module's place. -/
def allArrived (f : FabOp) (cs : List Contribution) : Bool :=
  cs.length == f.mm && decide ((cs.map (·.rank)).Nodup) && cs.all (fun c => c.rank < f.mm)

/-- All contributions in order of arrival. -/
def allItems (own : Nat) (mine : List (Nat × Nat × List Nat)) (cs : List Contribution) : List (Nat × Nat × List Nat) :=
  cs.flatMap (fun c => if c.rank = own then mine else c.items)

/-- Insert by source index, behind entries of the same index. -/
def insertItem (c : Nat × Nat × List Nat) : List (Nat × Nat × List Nat) → List (Nat × Nat × List Nat)
  | [] => [c]
  | d :: ds => if d.1 ≤ c.1 then d :: insertItem c ds else c :: d :: ds

def sortItems (cs : List (Nat × Nat × List Nat)) : List (Nat × Nat × List Nat) := cs.foldl (fun a c => insertItem c a) []

/-- One addition in a type that FSCATA or COLL sums (R127, R128, R300); a t2 code without a value raises V (R441). -/
def sumOp (t : ETy) (rm : Rnd) (sat : Bool) (a b : Nat) : Nat × Ev :=
  if isIntTy t then deliverInt t (intVal t a + intVal t b) sat
  else
    let x := decodeEv t a 0
    let y := decodeEv t b 0
    let r := deliver t (exactAdd x.1 y.1) rm sat 0
    (r.1, r.2 ||| x.2 ||| y.2)

/-- index_merge of one location (R138): components are added one by one. -/
def indexMerge (f : FabOp) (v : List Nat) (cs : List (Nat × Nat × List Nat)) : List Nat × Ev :=
  cs.foldl (fun acc c =>
    let r := List.zipWith (sumOp f.ty f.rnd f.sat) acc.1 c.2.2
    (r.map (·.1), r.foldl (fun e x => e ||| x.2) acc.2)) (v, 0#7)

/-- The own locations that contributions name: linear index and window offset. -/
def ownTargets (f : FabOp) (own : Nat) (cs : List (Nat × Nat × List Nat)) : List (Nat × Nat) :=
  let t := f.td
  ((tuplesOf (t.dims t.gshape)).filterMap (fun g =>
    let p := fabPlace t f.mm g
    if p.1 = own then some (t.lin g, p.2) else none)).filter (fun p => cs.any (fun c => c.2.1 == p.1))

/-- What applying a collective leaves: the state, the flags raised here, and how it failed. -/
abbrev Applied := (State × Ev) × Option FabFail

/-- Apply a scatter-add to the own locations (R300), up to one that fails (R417). -/
def applyScatter (f : FabOp) (cs : List (Nat × Nat × List Nat)) : State → Ev → List (Nat × Nat) → Applied
  | s, ev, [] => ((s, ev), none)
  | s, ev, (l, off) :: rest =>
    let t := f.td
    match ownRead s f off (t.eb / 8) false with
    | .error e => ((s, ev), some e)
    | .ok (bs, s) =>
      let r := indexMerge f (codesOf t bs) (cs.filter (fun c => c.2.1 == l))
      match ownWrite s f off (toLE (t.eb / 8) (pack (sbits t.ty) r.1)) with
      | .error e => ((s, ev), some e)
      | .ok ((), s) => applyScatter f cs s (ev ||| r.2) rest

/-- One level of canon_shard_tree (R139). -/
def shardLevel (op : Nat → Nat → Nat × Ev) : List Nat → List Nat × Ev
  | a :: b :: rest =>
    let r := op a b
    let q := shardLevel op rest
    (r.1 :: q.1, r.2 ||| q.2)
  | l => (l, 0#7)

/-- canon_shard_tree (R139); `fuel` bounds the levels. -/
def shardTree (op : Nat → Nat → Nat × Ev) : Nat → List Nat → Nat × Ev
  | 0, l => (l.headD 0, 0#7)
  | fuel + 1, l =>
    if l.length ≤ 1 then (l.headD 0, 0#7)
    else
      let a := shardLevel op l
      let b := shardTree op fuel a.1
      (b.1, a.2 ||| b.2)

/-- The operation that combines two shards' values (R301). -/
def collOp (f : FabOp) (a b : Nat) : Nat × Ev :=
  match xKind f.xdesc with
  | 4 => elemMin false f.ty a b
  | 5 => elemMin true f.ty a b
  | _ => sumOp f.ty f.rnd f.sat a b

/-- Element `i` of every shard, in shard order. -/
def shardVals (nl : Nat) (cs : List (Nat × Nat × List Nat)) (i : Nat) : List Nat :=
  (List.range nl).map (fun sh => ((cs.find? (fun c => c.2.1 == sh)).map (fun c => c.2.2.getD i 0)).getD 0)

/-- The result of a COLL: its elements and flags (R301). -/
def collResult (f : FabOp) (cs : List (Nat × Nat × List Nat)) : List Nat × Ev :=
  let t := f.td
  let n := xCount f.xdesc
  let shard (sh : Nat) : List Nat := ((cs.find? (fun c => c.2.1 == sh)).map (·.2.2)).getD []
  let red (is : List Nat) : List Nat × Ev :=
    let rs := is.map (fun i => shardTree (collOp f) t.nl (shardVals t.nl cs i))
    (rs.map (·.1), rs.foldl (fun e r => e ||| r.2) 0#7)
  match xKind f.xdesc with
  | 1 =>
    let p := n / t.nl
    ((red (List.range' (t.ownFirst * p) (t.ownCount * p))).1, (red (List.range n)).2)
  | 2 => ((List.range t.nl).flatMap shard, 0#7)
  | 3 => (shard (xRoot f.xdesc), 0#7)
  | _ => red (List.range n)

/-- A collective's accesses on this module. -/
def applyColl (s : State) (f : FabOp) (cs : List (Nat × Nat × List Nat)) : Applied :=
  if xOp f.xdesc = 3 then applyScatter f (sortItems cs) s 0#7 (ownTargets f (f.rank s) cs)
  else
    let r := collResult f cs
    let w := locWrite s f (xDst f.xdesc : Nat) (r.1.flatMap (toLE (sbytes f.ty))) 0
    ((w.1, r.2), w.2)

/-- This module's contribution as it goes to the other members. -/
def FabOp.contribution (f : FabOp) (s : State) (items : List (Nat × Nat × List Nat)) (failed : Bool) : Contribution :=
  ⟨f.rank s, xOp f.xdesc, xKind f.xdesc, xCount f.xdesc, f.ty, f.rnd, f.sat, f.td.dims f.td.gshape, items, failed⟩

/-- Send this module's contribution to the other members (R300). -/
def State.contribute (s : State) (f : FabOp) (items : List (Nat × Nat × List Nat)) (failed : Bool) : State :=
  if f.mm ≤ 1 then s else s.emit (.contribution (xGroup f.xdesc) (xSeq f.xdesc) (f.contribution s items failed))

/-- The members' contributions as Logline keeps them (log entry 122): ranks in order of arrival, items. -/
def contribBytes (own : Nat) (cs : List Contribution) : List Byte :=
  cs.flatMap (fun c =>
    let items := if c.rank = own then [] else c.items
    toLE 8 c.rank ++ toLE 8 items.length ++ items.flatMap (fun i =>
      toLE 8 i.1 ++ toLE 8 i.2.1 ++ toLE 8 i.2.2.length ++ i.2.2.flatMap (toLE 8)))

/-- Read `n` items back, with the bytes after them. -/
def readItems : Nat → List Byte → List (Nat × Nat × List Nat) × List Byte
  | 0, bs => ([], bs)
  | n + 1, bs =>
    let k := field bs 16 8
    let codes := (List.range k).map (fun i => field bs (24 + 8 * i) 8)
    let r := readItems n (bs.drop (24 + 8 * k))
    ((field bs 0 8, field bs 8 8, codes) :: r.1, r.2)

/-- Read `n` contributions to an operation back. -/
def readContribs (s : State) (f : FabOp) : Nat → List Byte → List Contribution
  | 0, _ => []
  | n + 1, bs =>
    let r := readItems (field bs 8 8) (bs.drop 16)
    { f.contribution s r.1 false with rank := field bs 0 8 }
      :: readContribs s f n r.2

/-- The head of a collective's records: ordinal 0, which no fabric read has, and SEQ. -/
def FabOp.collHead (f : FabOp) : List Byte := toLE 8 0 ++ toLE 8 (xSeq f.xdesc)

/-- The records of a collective's contributions, when they are next in a replay (R455). -/
def State.collDue (s : State) (f : FabOp) : List LogR :=
  match s.replay with
  | none => []
  | some r => (s.logFrom s.logFuel r.pos r.lseq).takeWhile
      (fun l => l.ltype == 4 && l.tag == f.logTag && l.payload.take 16 == f.collHead)

/-- What the members contributed to a collective: in a replay, as its records hold it. -/
def State.contributed (s : State) (f : FabOp) (others : List Contribution) : List Contribution :=
  if s.replay.isNone || f.mm ≤ 1 then others
  else
    match s.collDue f with
    | [] => []
    | ls => readContribs s f f.mm (ls.flatMap (·.payload.drop 16))

/-- Contributions of peers are recorded before they are applied; in a replay their records have been applied. -/
def State.logContribs (s : State) (f : FabOp) (cs : List Contribution) : State :=
  if f.mm ≤ 1 then s
  else (s.collDue f).foldl State.applied (s.logData (xWin f.xdesc) f.logTag f.collHead (contribBytes (f.rank s) cs))

/-- An operation ends with a failure (R417, R423): class 0x52 against its issuer, class 0x61 where the own window has
refused it. -/
def State.failFab (s : State) (f : FabOp) (x : FabFail) : State :=
  let s := match x.own with
    | some d => s.send61 (xWin f.xdesc) d x.addr
        (((s.group? (xGroup f.xdesc)).bind (fun g => g.members[g.rank]?)).getD 0 % 2 ^ 64)
    | none => s
  (s.dropFab f).pend f.iss ⟨0x52, x.cause, BitVec.ofNat 64 x.addr, f.iss.iaddr, BitVec.ofNat 64 x.info2⟩ f.op

/-- This module has applied its part: the other members hear the flags that it has raised (R300). -/
def State.tellFlags (s : State) (f : FabOp) (ev : Ev) : State :=
  if f.mm ≤ 1 then s else s.emit (.collFlags (xGroup f.xdesc) (xSeq f.xdesc) (f.rank s) ev)

/-- COLLECTIVE_APPLY (R300, R422): this module reads its contribution, whose read entry then retires (R112), and sends it
to the other members; once every member's contributions have arrived and agree, they are applied, and the others hear
the flags raised here. An access that fails then ends the operation here (R417). -/
def execCollectiveApply (op : Nat) (others : List Contribution) (s : State) : Res :=
  match s.fab? op with
  | none => .next s
  | some f =>
    if !f.collective || f.sentAt.isSome || s.timedDue || (f.mine.isNone && s.sendBehind f) then .next s
    else
      match brought s f with
      | .error _ => .next s
      | .ok (mine, t) =>
        let t := if f.mine.isNone then
            ((t.contribute f mine false).setFab { f with mine := some mine }).retireRead f.iss.core f.op
          else t
        let own := f.rank s
        let cs := t.contributed f others
        let peers := cs.filter (fun c => c.rank != own)
        if !allArrived f cs || !peers.all (fun c => agrees f c && !c.failed) || t.flowBehind f then .next t
        else
          let f := { f with mine := some mine }
          match applyColl (t.logContribs f cs) f (allItems own mine cs) with
          | ((t, _), some e) => .next (t.failFab f e)
          | ((t, ev), none) => .next ((t.tellFlags f ev).setFab { f with sentAt := some s.time, evs := ev })

/-- COLLECTIVE_ABORT (R422): the members disagree, another member has failed, or this one has. A member that has sent no
contribution sends, in its place on the flow, that it has failed, so that the abort reaches every member. What peers do is
no input of a replay (R455). -/
def execCollectiveAbort (op : Nat) (others : List Contribution) (s : State) : Res :=
  match s.fab? op with
  | none => .next s
  | some f =>
    if !f.collective || f.sentAt.isSome || (f.mine.isNone && (s.timedDue || s.sendBehind f)) then .next s
    else
      let t := if f.mine.isNone then s.contribute f [] true else s
      match brought s f with
      | .error e => .next (t.failFab f e)
      | .ok _ =>
        if s.replay.isNone && others.any (fun c => c.rank != f.rank s && (c.failed || !agrees f c)) then
          .next (t.failFab f ⟨20, 0, xSeq f.xdesc, none⟩)
        else .next s

/-- The contributions of a scatter-add that go to windows of other members, in order: window offset and index entry. -/
def peerItems (s : State) (f : FabOp) (items : List (Nat × Nat × List Nat)) : List (Nat × Nat) :=
  let t := f.td
  let places := (tuplesOf (t.dims t.gshape)).map (fun g => (t.lin g, fabPlace t f.mm g))
  items.zipIdx.filterMap (fun i =>
    match places.find? (fun p => p.1 == i.1.2.1) with
    | some (_, r, off) => if r = f.rank s then none else some (off, i.2 / (rowElems t 0).length)
    | none => none)

/-- The failure of a collective that a peer refuses or that does not reach it (R423): of a scatter-add, at the first
contribution after those that `p` tells; a COLL has no place in a window (log entry 150). -/
def collRefused (s : State) (f : FabOp) (p : PeerFailure) : FabFail :=
  let at' := if xOp f.xdesc = 3 then (peerItems s f (f.mine.getD [])).getD p.reach (0, 0) else (0, 0)
  ⟨if p.refused then 18 else 17, at'.1, at'.2, none⟩

/-- The failure of an operation, with what it leaves: an access of this module's fails, or a peer's (R417, R423). A
collective's contribution must have been sent to fail at a peer. -/
def fabFailure (s : State) (f : FabOp) (p : PeerFailure) : State × Option FabFail :=
  if f.collective then
    (s, if s.replay.isNone && f.mine.isSome && 1 < f.mm then some (collRefused s f p) else none)
  else if f.unsent then sendPut s f none (f.served [])
  else
    let data := f.replied s p.data
    let r := fabPerform s f
      (if s.replay.isSome then f.served data else ⟨data, p.reach, if p.refused then 18 else 17⟩)
    (r.1.logReply f data, r.2)

/-- FABRIC_OP_FAILED (R417, R422, R423): an access of this module fails, or, after the writes or the bytes that
`p` tells, a peer's refuses or cannot be reached. What has been performed stands, and what peers have returned is recorded
(R375); frames go behind a due timed put. A replay has no failing peer. -/
def execFabricOpFailed (op : Nat) (p : PeerFailure) (s : State) : Res :=
  match s.fab? op with
  | none => .next s
  | some f =>
    let r := fabFailure s f p
    match (if s.flowBehind f || (!f.timed && s.timedDue) then none else r.2) with
    | some e => .next (r.1.failFab f e)
    | none => .next s

/-- The DETAIL of class 0x60 for a timed put transmitted now: the lowest cause (R424). -/
def putDetail (s : State) (f : FabOp) : Option Nat :=
  if BitVec.ofNat 64 (xTrel f.xdesc) < f.issued then some 0
  else if f.resent then some 1
  else if 65536 < xCount f.xdesc then some 2
  else if !s.lock then some 3
  else if f.heldOver then some 4
  else none

/-- TIMED_PUT_RELEASE (R302, R424): once TIME has reached TREL the put is transmitted, in TREL order and in its place on the
flow, and its read entry retires (R112); a put that leaves its bound is reported to the host of the issuing context. -/
def execTimedPutRelease (op : Nat) (resent : Bool) (s : State) : Res :=
  match s.fab? op with
  | none => .next s
  | some f =>
    let trel := BitVec.ofNat 64 (xTrel f.xdesc)
    if !s.putReady f then .next s
    else
      let f := { f with sentAt := some s.time, resent := resent }
      match sendPut s f (some trel) (f.served []) with
      | (_, some _) => .next s
      | (t, none) =>
        let t := (t.setFab f).retireRead f.iss.core f.op
        .next (match putDetail s f with
          | some d => t.sendRec (t.hostOfCtx f.iss.ctx)
              (plainRec s.time f.iss.ctx (nodeIdOf f.iss.gang) ⟨0x60, d, BitVec.ofNat 64 (xDst f.xdesc), trel, s.time⟩)
          | none => t)

end Sys2Proof.Machine
end

