-- ==== Sys2Proof/Machine/Float.lean ====
section
/-! DEFINITION. Scalar floating point, major 0x04 (R202 to R208). -/

namespace Sys2Proof.Machine

/-- A result rounded once into f[d], with its events at index 0; under rst RNGCTR advances by 1 (R202). -/
def State.floatOp (s : State) (d : FReg) (m : FMod) (r : Real' × Ev) : Run State :=
  let c := roundTo m.ty r.1 (s.me.rnd m.rnd) m.sat (s.me.draw 0 0)
  (s.setMe ((s.me.setF d (BitVec.ofNat 64 c.1)).advance m.rnd 1)).complete (evAt 0 (r.2 ||| c.2))

/-- An exact value as the argument of a rounding. -/
def exact (r : Val × Ev) : Real' × Ev := (.val r.1, r.2)

/-- FADD (R203). -/
def execFadd (d a b : FReg) (m : FMod) (s : State) : Res :=
  finish (.fadd d a b m) (s.floatOp d m (exact (exactAdd (s.me.fval m.ty a) (s.me.fval m.ty b))))

/-- FSUB (R203). -/
def execFsub (d a b : FReg) (m : FMod) (s : State) : Res :=
  finish (.fsub d a b m) (s.floatOp d m (exact (exactAdd (s.me.fval m.ty a) (vneg (s.me.fval m.ty b)))))

/-- FMUL (R203). -/
def execFmul (d a b : FReg) (m : FMod) (s : State) : Res :=
  finish (.fmul d a b m) (s.floatOp d m (exact (exactMul (s.me.fval m.ty a) (s.me.fval m.ty b))))

/-- FDIV (R203). -/
def execFdiv (d a b : FReg) (m : FMod) (s : State) : Res :=
  finish (.fdiv d a b m) (s.floatOp d m (exact (exactDiv (s.me.fval m.ty a) (s.me.fval m.ty b))))

/-- FSQRT (R203). -/
def execFsqrt (d a : FReg) (m : FMod) (s : State) : Res :=
  finish (.fsqrt d a m) (s.floatOp d m (sqrtOf (s.me.fval m.ty a)))

/-- FMA (R203): one rounding. -/
def execFma (d a b c : FReg) (m : FMod) (s : State) : Res :=
  finish (.fma d a b c m)
    (s.floatOp d m (exact (fusedSum (s.me.fval m.ty c) [(s.me.fval m.ty a, s.me.fval m.ty b)])))

/-- FMIN and FMAX (R204): one of the operands, exactly. -/
def State.floatMin (s : State) (d a b : FReg) (t : ETy) (isMax : Bool) : Run State :=
  let r := minMax t isMax ((s.me.getF a).toNat % 2 ^ sbits t) ((s.me.getF b).toNat % 2 ^ sbits t)
  (s.setMe (s.me.setF d (BitVec.ofNat 64 r.1))).complete (evAt 0 r.2)

def execFmin (d a b : FReg) (ty : ETy) (s : State) : Res := finish (.fmin d a b ty) (s.floatMin d a b ty false)
def execFmax (d a b : FReg) (ty : ETy) (s : State) : Res := finish (.fmax d a b ty) (s.floatMin d a b ty true)

/-- FCVT (R205): between f registers, from an x register, or to an x register. -/
def execFcvt (d a : Fin 32) (src : ETy) (route : Fin 3) (m : FMod) (s : State) : Res :=
  finish (.fcvt d a src route m) (
    if route = 2 then
      let c := roundTo m.ty (.val (s.me.fval src a)) (s.me.rnd m.rnd) m.sat (s.me.draw 0 0)
      (s.setMe ((s.me.setX d (intWord m.ty c.1)).advance m.rnd 1)).complete (evAt 0 c.2)
    else
      let v := if route = 1 then ofInt (intVal src (s.me.getX a).toNat) else s.me.fval src a
      s.floatOp d m (.val v, evIf (isSnan v) evV))

/-- FCLASS (R206). -/
def execFclass (d : XReg) (a : FReg) (ty : ETy) (s : State) : Res :=
  .next (s.writeX d (BitVec.ofNat 64 (classBits ty (s.me.getF a).toNat)))

/-- FCMP (R207). -/
def execFcmp (d : XReg) (rel : Rel) (a b : FReg) (ty : ETy) (s : State) : Res :=
  finish (.fcmp d rel a b ty) (
    let u := s.me.fval ty a
    let v := s.me.fval ty b
    (s.setMe (s.me.setX d (if relHolds rel u v then 1#64 else 0#64))).complete (evAt 0 (relEv rel u v)))

/-- FMVXF (R208). -/
def execFmvxf (d : XReg) (a : FReg) (ty : ETy) (s : State) : Res :=
  .next (s.writeX d (BitVec.ofNat 64 ((s.me.getF a).toNat % 2 ^ sbits ty)))

/-- FMVFX (R208). -/
def execFmvfx (d : FReg) (a : XReg) (ty : ETy) (s : State) : Res :=
  .next (s.setMe ((s.me.setF d (BitVec.ofNat 64 ((s.me.getX a).toNat % 2 ^ sbits ty))).retire 1))

end Sys2Proof.Machine
end

