-- ==== Sys2Proof/Machine/Queues.lean ====
section
/-! DEFINITION. Queue records and rings (R49, R50), creation and destruction of queues (R67, R68, R323), faulted queues
(R407), and the admission test (R56 to R59, R372). -/

namespace Sys2Proof.Machine

/-! ### Queue records (R49) -/

def qPart (b : List Byte) : Nat := field b 4 1
def qClass (b : List Byte) : Nat := field b 5 1
def qSubRing (b : List Byte) : Nat := field b 8 8
def qSubLen (b : List Byte) : Nat := field b 0x10 4
def qSubHead (b : List Byte) : Nat := field b 0x14 4
def qSubTail (b : List Byte) : Nat := field b 0x18 4
def qCplLen (b : List Byte) : Nat := field b 0x1C 4
def qCplRing (b : List Byte) : Nat := field b 0x20 8
def qCplHead (b : List Byte) : Nat := field b 0x28 4
def qCplTail (b : List Byte) : Nat := field b 0x2C 4

/-- Difference of indices, modulo 2^32 (R49). -/
def idxSub (a b : Nat) : Nat := (a + 2 ^ 32 - b % 2 ^ 32) % 2 ^ 32
def idxNext (a : Nat) : Nat := (a + 1) % 2 ^ 32

def isPow2 (n : Nat) : Bool := 0 < n && 2 ^ Nat.log2 n == n

/-- Is a record well-formed but for what R323 compares (R49). -/
def qWell (b : List Byte) : Bool :=
  field b 0 4 == 0x00040003 && qPart b < 16 && qClass b < 8 && zeroIn b 7 1 && qSubRing b % 64 == 0
    && isPow2 (qSubLen b) && qSubLen b ≤ 4096 && isPow2 (qCplLen b) && qSubLen b ≤ qCplLen b && qCplRing b % 64 == 0
    && zeroIn b 0x30 16

def Queue.read (q : Queue) (s : State) : Option (List Byte × State) := (devRead s q.ctx q.addr 64).toOption
def Queue.put (q : Queue) (s : State) (off n v : Nat) : Option State := (devWrite s q.ctx (q.addr + off) (toLE n v)).toOption

/-- Write QSTATE where the record can be written (R67, R407). -/
def Queue.putState (q : Queue) (s : State) (v : Nat) : State := ((q.put s 6 1 v).getD s).setQueue { q with qstate := v }

/-! ### Destruction (R67, R68) -/

/-- Engine work of a node that has no strand stops (R68). -/
def State.stopEngines (s : State) (g : GangId) : State :=
  let mine (i : Issuer) : Bool := i.sid.isNone && sameNode i.gang g
  let gone := (s.fabs.filter (fun f => mine f.iss)).map (·.op)
  { s with
    fabs := s.fabs.filter (fun f => !mine f.iss)
    cores := s.cores.map (fun e => (e.1, { e.2 with
      copies := e.2.copies.filter (fun c => !mine c.iss)
      entries := e.2.entries.filter (fun x => !gone.contains x.op) }))
    clusters := s.clusters.map (fun e => (e.1, { e.2 with
      runs := e.2.runs.filter (fun r => !mine r.iss)
      wst := match e.2.wst with
        | some w => if mine w.run.iss then none else some w
        | none => none })) }

/-- Stop the dispatched nodes of a launch, which then completes with STATUS 4 (R67, R68). -/
def State.abortLaunch (s : State) (l : Launch) : State :=
  let s := (List.range l.nodes.length).foldl (fun s i =>
    let g : GangId := ⟨l.no, i, 0⟩
    if ((l.nodes[i]?).map (·.st)) == some .running then (s.discardNode g).stopEngines g else s) s
  let ns := l.nodes.map (fun n => if n.st == .done then n else { n with st := .dead })
  (s.setLaunch { l with nodes := ns, aborted := true }).settle l.no

/-- Complete an accepted launch of which no node has been dispatched with STATUS 3 (R67). -/
def State.cancelLaunch (s : State) (l : Launch) : State :=
  let s := { s with launches := s.launches.filter (fun m => m.no != l.no) }
  match s.queue? l.q with
  | some q => s.setQueue { q with cpls := q.cpls ++ [⟨l.tag, l.no, 3, 0, 0, s.time, l.sub, false⟩] }
  | none => s

/-- Has any node of a launch been dispatched. A timed node that has fired counts as one (log entry 148). -/
def Launch.begun (l : Launch) : Bool := l.nodes.any (fun n => n.st == .running || n.st == .done || 0 < n.gangs.length)

/-- The effect of a destruction on the queue's launches (R67). -/
def State.endLaunches (s : State) (qn mode : Nat) : State :=
  (s.launches.filter (fun l => l.q == qn)).foldl (fun s l =>
    if mode = 0 then s
    else if !l.begun then s.cancelLaunch l
    else if mode = 2 then s.abortLaunch l
    else s) s

/-- USERTAG of an entry completed untested: the launch record's, where it can be read. -/
def untestedTag (s : State) (q : Queue) (b : List Byte) (head : Nat) : Word :=
  match devRead s q.ctx (qSubRing b + 16 * (head % qSubLen b)) 16 with
  | .error _ => 0#64
  | .ok (e, s) =>
    match devRead s q.ctx (field e 0 8 + 0x28) 8 with
    | .ok (t, _) => BitVec.ofNat 64 (ofLE t)
    | .error _ => 0#64

/-- The mode that a queue's destruction has, 0 where none has been requested. -/
def Queue.mode (q : Queue) : Nat := (q.ending.map (·.1)).getD 0

/-- The entries covered by a destruction that have not been read (R67): those before SUBTAIL as read at the first request;
none where the ring cannot hold them (R50). -/
def Queue.covered (q : Queue) (b : List Byte) : List Nat :=
  let n := idxSub ((q.ending.map (·.2)).getD (qSubTail b)) (qSubHead b)
  if qSubLen b < n then [] else (List.range n).map (fun i => (qSubHead b + i) % 2 ^ 32)

/-- Their records under modes 1 and 2: STATUS 3, untested (R67). -/
def State.untested (s : State) (q : Queue) (b : List Byte) : List Cpl :=
  (q.covered b).map (fun i => ⟨untestedTag s q b i, 0, 3, 0, 0, s.time, i, false⟩)

/-- Destroy a queue in a mode, unless it is destroyed in a more severe one; `b` is its record, where it can be read (R67).
Under modes 1 and 2 the covered entries are completed at once. -/
def State.destroyQueue (s : State) (q : Queue) (mode : Nat) (b : Option (List Byte)) : State :=
  let m := max mode q.mode
  let tail := (q.ending.map (·.2)).getD ((b.map qSubTail).getD 0)
  let new := if m = 0 ∨ q.mode ≠ 0 then [] else (b.map (s.untested q)).getD []
  (q.putState s (2 + m)).setQueue { q with qstate := 2 + m, ending := some (m, tail), cpls := q.cpls ++ new }
    |>.endLaunches q.n m

/-- A queue whose memory fails, or whose SUBTAIL leaves its ring (R407): class 0x21, then as destroyed in mode 2. -/
def State.faultQueue (s : State) (q : Queue) (det info2 : Nat) (b : Option (List Byte)) : State :=
  if q.faulted then s
  else
    let f : Flt := ⟨0x21, det, 0#64, BitVec.ofNat 64 q.n, BitVec.ofNat 64 info2⟩
    (s.sendRec q.host (plainRec s.time q.ctx 0#64 f)).destroyQueue { q with faulted := true } 2 b

/-- Do SUBHEAD and SUBTAIL name entries that the ring cannot hold (R50). -/
def outOfRing (b : List Byte) : Bool := qSubLen b < idxSub (qSubTail b) (qSubHead b)

/-- A request for destruction (R67): a queue that is closed has ended. -/
def State.requestEnd (s : State) (q : Queue) (mode : Nat) : State :=
  if q.qstate = 0 then s
  else
    match q.ending, q.read s with
    | some _, r => s.destroyQueue q mode (r.map (·.1))
    | none, none => s.faultQueue q 0 q.addr none
    | none, some (b, s) => if outOfRing b then s.faultQueue q 3 (qSubTail b) (some b) else s.destroyQueue q mode (some b)

/-! ### Creation (R323, R348) -/

/-- The lowest free queue number (R323). -/
def State.freeQueue (s : State) : Option Nat := (List.range 256).find? (fun n => (s.queue? n).isNone)

/-- Open a queue: SUBHEAD, CPLTAIL and QSTATE are written (R323). -/
def State.openQueue (s : State) (q : Queue) : Option State :=
  match q.put s 0x14 4 0 with
  | none => none
  | some s =>
    match q.put s 0x2C 4 0 with
    | none => none
    | some s => (q.put s 6 1 1).map (fun s => { s with queues := s.queues ++ [q] })

/-! ### Nodes under the admission test (R25, R55, R56) -/

def prodN (l : List Nat) : Nat := l.foldl (· * ·) 1

/-- The gang size of a kernel node (R25); 1 for other kinds. -/
def NodeRec.gangSize (r : NodeRec) : Nat :=
  if r.kind = 0 then prodN ((r.levels.dropWhile (fun l => 2 < l.2.1)).drop 1 |>.map (·.1)) else 1

/-- S(p, k) (R48). -/
def Part.share (p : Part) (k : Nat) : Nat :=
  match k with
  | 0 => p.kernel
  | 1 => p.walker
  | 2 => p.copy
  | 3 => p.exchange
  | _ => 0

/-- W(n) (R56). -/
def NodeRec.width (r : NodeRec) (p : Part) : Nat :=
  if r.kind = 4 then 0 else r.gangSize * (min r.maxw (p.share r.kind) / r.gangSize)

/-- Dem(n) (R56). -/
def Node.demand (n : Node) (p : Part) : Nat :=
  if n.r.kind = 4 || n.st == .done || n.demoted then 0 else (n.r.budget - n.charge) + 2048 * n.r.width p

def Launch.demand (l : Launch) (p : Part) (k : Nat) : Nat :=
  ((l.nodes.filter (fun n => n.r.kind == k)).map (fun n => n.demand p)).sum

/-- EF of the nodes in index order (R57). -/
def efLoop (p : Part) (t0 : Nat) : List Node → List Nat → List Nat
  | [], ef => ef
  | n :: ns, ef =>
    let start := (n.r.preds.map (fun j => ef.getD j 0)).foldl max 0
    let v :=
      if n.r.kind = 4 then max start (ceilDiv (5 * (n.r.target.toNat - t0)) 4) + 64
      else start + 2048 + ceilDiv n.r.budget (n.r.width p)
    efLoop p t0 ns (ef ++ [v])

/-- The span of a launch in cycles (R57). -/
def Launch.span (l : Launch) (p : Part) (t0 : Nat) : Nat := (efLoop p t0 l.nodes []).foldl max 0

/-! ### The admission test (R58, R372) -/

/-- h(d): the length of the part of [t0, d] that lies in accepted holds of 1 s (R372). -/
def heldIn (holds : List Nat) (t0 d : Nat) : Nat :=
  let sorted := holds.mergeSort
  (sorted.foldl (fun (p : Nat × Nat) h =>
    let lo := max p.1 h
    let hi := min d (h + 1000000000)
    if lo < hi then (hi, p.2 + (hi - lo)) else p) (t0, 0)).2

/-- floor(1.25 × (d − t0 − h(d))). -/
def capUntil (holds : List Nat) (t0 d : Nat) : Int := 5 * ((d : Int) - t0 - heldIn holds t0 d) / 4

/-- The first condition of R58. -/
def Launch.widthsOk (l : Launch) (p : Part) : Bool :=
  l.nodes.all (fun n => n.r.kind == 4 || (0 < p.share n.r.kind && 0 < n.r.width p))

/-- The third condition of R58 over a set of launches, at the deadlines a test admits. -/
def edfOk (p : Part) (holds : List Nat) (t0 : Nat) (ls : List Launch) (at' : Nat → Bool) : Bool :=
  let ds := (ls.filter (fun l => l.deadline != 0 && !l.missed)).map (·.deadline)
  (List.range 4).all (fun k => ds.all (fun d => !at' d ||
    decide (((((ls.filter (fun l => l.deadline != 0 && !l.missed && l.deadline ≤ d)).map
      (fun l => l.demand p k)).sum : Nat) : Int) ≤ p.share k * capUntil holds t0 d)))

/-- The last condition of R58 for a launch, against the t0 of its own test; a deadline missed is no exception (R48). -/
def Launch.spanOk (l : Launch) (p : Part) (t0 : Nat) : Bool :=
  l.deadline == 0 || t0 + ceilDiv (4 * l.span p t0) 5 ≤ l.deadline

/-- The accepted launches of a partition that are not complete. -/
def State.inPart (s : State) (p : Nat) : List Launch := s.launches.filter (fun l => l.part == p)

/-- R48: do the launches of a partition still pass under a reservation, with these holds, at t0. -/
def partOk (p : Part) (holds : List Nat) (t0 : Nat) (ls : List Launch) (at' : Nat → Bool) : Bool :=
  ls.all (fun l => l.widthsOk p) && (ls.map (·.poolres)).sum ≤ p.pool && edfOk p holds t0 ls at'
    && ls.all (fun l => l.spanOk p l.t0)

/-- The smallest value below `lo + 2^n` from `lo` on at which a monotone test holds, by halves. -/
def leastFrom (test : Nat → Bool) : Nat → Nat → Option Nat
  | 0, lo => if test lo then some lo else none
  | n + 1, lo => if test (lo + 2 ^ n - 1) then leastFrom test n lo else leastFrom test n (lo + 2 ^ n)

/-- What the test gives for a launch: acceptance, or a refusal with EFD (R58, R59). The last two conditions only grow
easier as the deadline grows, so that the earliest feasible one is found by halves, up to t0 + 2^64; of one that 8 bytes
cannot hold the record has the low 8 (log entry 123). -/
def admitTest (p : Part) (holds : List Nat) (t0 : Nat) (others : List Launch) (c : Launch) : Option Nat :=
  if !c.widthsOk p || p.pool < ((others ++ [c]).map (·.poolres)).sum then some 0
  else if c.deadline = 0 then none
  else
    let passes (d : Nat) : Bool :=
      let c := { c with deadline := d }
      edfOk p holds t0 (others ++ [c]) (fun _ => true) && c.spanOk p t0
    if passes c.deadline then none else some ((leastFrom passes 64 (max 1 t0)).getD 0)

end Sys2Proof.Machine
end

