-- ==== Sys2Proof/Machine/Graph.lean ====
section
/-! DEFINITION. Graphs and queues from inside the device, major 0x18 (R320 to R323, R404), with the ends of the waits of
GLAUNCH and GDONE. -/

namespace Sys2Proof.Machine

/-- Class 0x0B (R404). -/
def Strand.queueFlt (st : Strand) (det q sub : Nat) : Flt :=
  ⟨0x0B, det, st.pc, BitVec.ofNat 64 q, BitVec.ofNat 64 sub⟩

/-- A queue named by an x register: one of the context's, and open (R320). -/
def State.ownQueue (s : State) (n sub : Nat) : Run Queue :=
  match s.queue? n with
  | none => s.fail (s.me.queueFlt 0 n sub)
  | some q =>
    if q.ctx ≠ s.me.ctx then s.fail (s.me.queueFlt 0 n sub)
    else if q.qstate ≠ 1 then s.fail (s.me.queueFlt 1 n sub)
    else .ok q

/-- The queue's record; where it cannot be read the queue is faulted (R407) and is open no longer. -/
def State.ownRecord (s : State) (q : Queue) (sub : Nat) : Run (List Byte × State) :=
  match q.read s with
  | some r => .ok r
  | none => .error (.flt (s.me.queueFlt 1 q.n sub) s.me.pc (s.faultQueue q 0 q.addr none))

/-- Run-ahead groups of the strand loaded from bytes that its submission writes become stale (R115). -/
def State.staleAt (s : State) (q : Queue) (a n : Nat) : State :=
  match devAccess s q.ctx a n .write with
  | .ok (bs, _) => s.setMe (s.me.staleBytes bs)
  | .error _ => s

/-- The entry and the new SUBTAIL of GLAUNCH; the error is DETAIL and address of class 0x21. -/
def submit (s : State) (q : Queue) (b : List Byte) (rec' : Nat) : Except (Nat × Nat) State :=
  let slot := qSubRing b + 16 * (qSubTail b % qSubLen b)
  match devWrite s q.ctx slot (toLE 8 rec' ++ toLE 8 0) with
  | .error (_, a) => .error (1, a)
  | .ok s =>
    match q.put s 0x18 4 (idxNext (qSubTail b)) with
    | none => .error (0, q.addr + 0x18)
    | some s => .ok ((s.staleAt q slot 16).staleAt q (q.addr + 0x18) 4)

/-- GLAUNCH (R321): a release at fabric scope, then the entry and SUBTAIL at once; it waits while the ring is full. -/
def execGlaunch (d : XReg) (a : BRegNo) (b : XReg) (s : State) : Res :=
  finish (.glaunch d a b) do
    let e := s.me.eb a 0
    s.check [s.me.alignChk e]
    let (_, s1) ← s.orFail (access s s.who (s.me.getB a) a.val useLD e 64 0)
    let q ← s.ownQueue (s.me.getX b).toNat 0
    s.release .rel
    let (r, s2) ← s1.ownRecord q 0
    if qSubLen r ≤ idxSub (qSubTail r) (qSubHead r) then .error (.block s)
    else
      match submit s2 q r (addr64 e) with
      | .ok t => .ok (t.writeX d (BitVec.ofNat 64 (qSubTail r)))
      | .error (det, x) =>
        .error (.flt (s.me.queueFlt 1 q.n 0) s.me.pc (s2.faultQueue q det x (some r)))

/-- The result of a submission index whose completion record has been written (R322); `b` is the queue's record. An index
that SUBHEAD has not passed has none, whatever an earlier launch under that index gave. -/
def Queue.result (q : Queue) (b : List Byte) (i : Nat) : Option Nat :=
  if idxSub i (qSubHead b) < idxSub (qSubTail b) (qSubHead b) then none
  else (q.written.find? (fun w => w.1 == i)).map (·.2)

/-- The operands of GDONE and GQUERY: a queue and a submission index below SUBTAIL (R404 DETAIL 4); the result that the
index has. -/
def State.submitted (s : State) (a b : XReg) : Run (Option Nat) := do
  let n := (s.me.getX a).toNat
  let i := (s.me.getX b).toNat
  let q ← s.ownQueue n i
  let (r, _) ← s.ownRecord q i
  if 2 ^ 32 ≤ i ∨ 2 ^ 31 ≤ idxSub (qSubTail r) (idxNext i) then s.fail (s.me.queueFlt 4 n i) else .ok (q.result r i)

/-- GDONE (R322): an acquire at fabric scope. -/
def execGdone (d a b : XReg) (s : State) : Res :=
  finish (.gdone d a b) do
    let v ← s.submitted a b
    match v with
    | some v => .ok (s.setMe ((s.me.staleAll.setX d (BitVec.ofNat 64 v)).retire 1))
    | none => .error (.block s)

/-- GQUERY (R322). -/
def execGquery (d a b : XReg) (s : State) : Res :=
  finish (.gquery d a b) do
    let v ← s.submitted a b
    match v with
    | some v => .ok (s.setMe ((s.me.staleAll.setX d (BitVec.ofNat 64 v)).retire 1))
    | none => .ok (s.writeX d 0xFFFFFFFFFFFFFFFF#64)

/-- Partition and class of the strand's launch (R323). -/
def State.myPart (s : State) : Nat × Nat :=
  match s.launch? s.me.gang.launch with
  | some l => (l.part, l.cls)
  | none => (0, 0)

/-- QNEW (R323). -/
def execQnew (d : XReg) (a : BRegNo) (s : State) : Res :=
  finish (.qnew d a) do
    let e := s.me.eb a 0
    s.check [s.me.alignChk e]
    let (r, s1) ← s.loadE a useLD e 64 0
    let (bs, _) ← s1.orFail (access s1 s1.who (s1.me.getB a) a.val useST e 64 0)
    if s1.conflicts bs true then .error (.hold s) else pure ()
    let (p, c) := s.myPart
    if qPart r ≠ p ∨ qClass r < c ∨ qSubTail r ≠ 0 ∨ qCplHead r ≠ 0 ∨ qWell r = false then
      s.fail (s.me.queueFlt 2 0 0)
    else
      match s.freeQueue with
      | none => .ok (s1.writeX d 0xFFFFFFFFFFFFFFFF#64)
      | some n => do
        let q : Queue := ⟨n, s.me.ctx, s.hostOfCtx s.me.ctx, true, addr64 e, qPart r, qClass r, 0, 1, none, false, 0, [], []⟩
        let t ← s1.storeE a useST (e + 0x14) (toLE 4 0) 0
        let t ← t.storeE a useST (e + 0x2C) (toLE 4 0) 0
        let t ← t.storeE a useST (e + 6) (toLE 1 1) 0
        .ok ({ t with queues := t.queues ++ [q] }.writeX d (BitVec.ofNat 64 n))

/-- QDEL (R67, R323): only a queue created by the context's own QNEW. -/
def execQdel (a : XReg) (mode : Fin 3) (s : State) : Res :=
  finish (.qdel a mode) do
    let n := (s.me.getX a).toNat
    let q ← s.ownQueue n 0
    if q.byCtx = false then s.fail (s.me.queueFlt 3 n 0)
    else
      let t := s.retire 1
      .ok (t.requestEnd q mode.val)

/-! ### Events -/

/-- A GLAUNCH that waits for ring space issues again (R321). -/
def execGlaunchRingSpace (sid : Nat) (s : State) : Res :=
  s.awake sid fun i t =>
    match i with
    | .glaunch d a b => some (execGlaunch d a b t)
    | _ => none

/-- A waiting GDONE goes on (R322). -/
def execGdoneWake (sid : Nat) (s : State) : Res :=
  s.awake sid fun i t =>
    match i with
    | .gdone d a b => some (execGdone d a b t)
    | _ => none

end Sys2Proof.Machine
end

