-- ==== Sys2Proof/Machine/Loader.lean ====
section
/-! DEFINITION. Code objects (R333 to R335), symbol resolution (R337), mapping and pinning (R336, R87) and binding
tables (R338, R339): the context load, with the causes of a failed one (R408). -/

namespace Sys2Proof.Machine

/-! ### Code objects (R333 to R335, R338) -/

/-- A symbol entry (R334): its name, binding, section and value. -/
structure Sym where
  name : List Byte
  binding : Nat
  sect : Nat
  value : Nat
  deriving DecidableEq, Repr

/-- A relocation entry (R335). -/
structure Reloc where
  off : Nat
  kind : Nat
  sym : Nat
  addend : Nat
  deriving DecidableEq, Repr

/-- A binding entry (R338). -/
structure BindE where
  sym : Nat
  breg : Nat
  view : Nat
  perm : Nat
  offset : Int
  len : Nat
  deriving DecidableEq, Repr

def coTextOff (b : List Byte) : Nat := field b 8 4
def coTextLen (b : List Byte) : Nat := field b 0x0C 4
def coDataOff (b : List Byte) : Nat := field b 0x10 4
def coDataLen (b : List Byte) : Nat := field b 0x14 4
def coBindOff (b : List Byte) : Nat := field b 0x18 4
def coNBind (b : List Byte) : Nat := field b 0x1C 4
def coSymOff (b : List Byte) : Nat := field b 0x20 4
def coNSym (b : List Byte) : Nat := field b 0x24 4
def coRelOff (b : List Byte) : Nat := field b 0x28 4
def coNRel (b : List Byte) : Nat := field b 0x2C 4
def coStrOff (b : List Byte) : Nat := field b 0x30 4
def coStrLen (b : List Byte) : Nat := field b 0x34 4

/-- A zero-terminated name of the string table. -/
def coName (b : List Byte) (off : Nat) : List Byte :=
  (((b.drop (coStrOff b)).take (coStrLen b)).drop off).takeWhile (· != 0#8)

def coSyms (b : List Byte) : List Sym :=
  (List.range (coNSym b)).map (fun i =>
    let o := coSymOff b + 16 * i
    ⟨coName b (field b o 4), field b (o + 4) 1, field b (o + 5) 1, field b (o + 8) 8⟩)

def coRels (b : List Byte) : List Reloc :=
  (List.range (coNRel b)).map (fun i =>
    let o := coRelOff b + 24 * i
    ⟨field b o 4, field b (o + 4) 1, field b (o + 8) 4, field b (o + 16) 8⟩)

def coBinds (b : List Byte) : List BindE :=
  (List.range (coNBind b)).map (fun i =>
    let o := coBindOff b + 32 * i
    ⟨field b o 4, field b (o + 4) 1, field b (o + 5) 1, field b (o + 6) 2, sfield b (o + 8) 8, field b (o + 16) 8⟩)

/-- Does a section start 64-byte aligned and lie within the object. -/
def sectIn (b : List Byte) (off len : Nat) : Bool := off % 64 == 0 && off + len ≤ b.length

def symOk (b : List Byte) (i : Nat) : Bool :=
  let o := coSymOff b + 16 * i
  let bnd := field b (o + 4) 1
  let sect := field b (o + 5) 1
  let v := field b (o + 8) 8
  field b o 4 < coStrLen b && zeroIn b (o + 6) 2 && bnd ≤ 3
    && (if bnd = 3 then sect == 0 && v == 0
        else (sect == 1 && v ≤ coTextLen b) || (sect == 2 && v ≤ coDataLen b))

def relOk (b : List Byte) (i : Nat) : Bool :=
  let o := coRelOff b + 24 * i
  let off := field b o 4
  zeroIn b (o + 5) 3 && zeroIn b (o + 12) 4 && field b (o + 8) 4 < coNSym b && off % 8 == 0
    && (if field b (o + 4) 1 = 0 then off + 8 ≤ coDataLen b
        else field b (o + 4) 1 == 1 && off + 16 ≤ coTextLen b)

def bindOk (b : List Byte) (i : Nat) : Bool :=
  let o := coBindOff b + 32 * i
  let r := field b (o + 4) 1
  field b o 4 < coNSym b && bitsOf r 6 4 == 0 && (r == 0 || 128 ≤ r) && field b (o + 5) 1 ≤ 2 && field b (o + 6) 2 < 512
    && zeroIn b (o + 24) 8

def BindE.isEx (e : BindE) : Bool := e.perm.testBit 2

/-- No register minted twice, and exactly one entry with EX (R164, R338). -/
def bindsOk (es : List BindE) : Bool :=
  let regs := (es.filter (fun e => 128 ≤ e.breg)).map (·.breg)
  regs.eraseDups.length == regs.length && (es.filter BindE.isEx).length == 1

/-- Is a code object well formed (R408 cause 3). -/
def objOk (b : List Byte) : Bool :=
  64 ≤ b.length && field b 0 4 == 0x0004000A && field b 4 1 == 4 && [8, 16, 32].contains (field b 5 1)
    && field b 6 1 ≤ 8 && field b 7 1 + field b 6 1 ≤ field b 5 1
    && sectIn b (coTextOff b) (coTextLen b) && coTextLen b % 8 == 0 && sectIn b (coDataOff b) (coDataLen b)
    && sectIn b (coBindOff b) (32 * coNBind b) && 1 ≤ coNBind b && coNBind b ≤ 1024
    && sectIn b (coSymOff b) (16 * coNSym b) && sectIn b (coRelOff b) (24 * coNRel b)
    && sectIn b (coStrOff b) (coStrLen b) && field b 0x38 1 ≤ 1 && zeroIn b 0x39 7
    && (List.range (coNSym b)).all (symOk b) && (List.range (coNRel b)).all (relOk b)
    && (List.range (coNBind b)).all (bindOk b) && bindsOk (coBinds b)

/-! ### Symbols (R337) -/

/-- A code object with its load addresses. -/
structure Placed where
  bytes : List Byte
  textVa : Nat
  dataVa : Nat
  textPa : Nat
  dataPa : Nat
  deriving DecidableEq, Repr

def Placed.addrOf (o : Placed) (y : Sym) : Nat := (if y.sect = 1 then o.textVa else o.dataVa) + y.value

/-- The definitions of a name with a binding, in load order: the object's place and the address. -/
def defsOf (os : List Placed) (binding : Nat) (name : List Byte) : List (Nat × Nat) :=
  ((List.range os.length).zip os).flatMap (fun (i, o) =>
    ((coSyms o.bytes).filter (fun y => y.binding == binding && y.name == name)).map (fun y => (i, o.addrOf y)))

/-- The address of a global name (R337). -/
def globalOf (os : List Placed) (hs : List HostSym) (name : List Byte) : Option Nat :=
  match hs.find? (fun h => h.name == name) with
  | some h => some h.addr.toNat
  | none =>
    match defsOf os 1 name, defsOf os 2 name with
    | (_, a) :: _, _ => some a
    | [], (_, a) :: _ => some a
    | [], [] => none

/-- The address of a name used in an object: a local symbol of its own comes first. -/
def nameOf (os : List Placed) (hs : List HostSym) (o : Placed) (name : List Byte) : Option Nat :=
  match (coSyms o.bytes).find? (fun y => y.binding == 0 && y.name == name) with
  | some y => some (o.addrOf y)
  | none => globalOf os hs name

/-- The place of the first object with a second strong definition of a name (R337, R408 cause 1). Two host symbols of one
name are such definitions too, and come before every object (log entry 125). -/
def doubleDef (os : List Placed) (hs : List HostSym) : Option Nat :=
  let strong := ((List.range os.length).zip os).flatMap (fun (i, o) =>
    ((coSyms o.bytes).filter (fun y => y.binding == 1)).map (fun y => (i, y.name)))
  let rec go (seen : List (List Byte)) : List (Nat × List Byte) → Option Nat
    | [] => none
    | (i, n) :: rest => if seen.contains n then some i else go (n :: seen) rest
  if (hs.map (·.name)).eraseDups.length < hs.length then some 0 else go (hs.map (·.name)) strong

/-- The place of the first object with an undefined reference (R408 cause 2). -/
def undefinedRef (os : List Placed) (hs : List HostSym) : Option Nat :=
  (((List.range os.length).zip os).find? (fun (_, o) =>
    (coSyms o.bytes).any (fun y => y.binding == 3 && (nameOf os hs o y.name).isNone))).map (·.1)

def symAddr (os : List Placed) (hs : List HostSym) (o : Placed) (i : Nat) : Nat :=
  match (coSyms o.bytes)[i]? with
  | some y => (nameOf os hs o y.name).getD 0
  | none => 0

/-! ### Relocation (R335) -/

def patch (bs : List Byte) (off : Nat) (new : List Byte) : List Byte :=
  bs.take off ++ new ++ bs.drop (off + new.length)

/-- S + ADDEND into 8 bytes of data, or into the LID at a text offset (R201, R335). -/
def relocate (v : Nat) (r : Reloc) (td : List Byte × List Byte) : List Byte × List Byte :=
  if r.kind = 0 then (td.1, patch td.2 r.off (toLE 8 v))
  else
    let w := field td.1 r.off 8
    let c := field td.1 (r.off + 8) 8
    let w' := w / 4 * 4 + bitsOf v 63 62
    let c' := c / 2 ^ 62 * 2 ^ 62 + bitsOf v 61 0
    (patch td.1 r.off (toLE 8 w' ++ toLE 8 c'), td.2)

/-- Text and data of an object as loaded. -/
def Placed.sections (os : List Placed) (hs : List HostSym) (o : Placed) : List Byte × List Byte :=
  (coRels o.bytes).foldl
    (fun td r => relocate ((symAddr os hs o r.sym + r.addend) % 2 ^ 64) r td)
    ((o.bytes.drop (coTextOff o.bytes)).take (coTextLen o.bytes),
     (o.bytes.drop (coDataOff o.bytes)).take (coDataLen o.bytes))

/-! ### Mapping (R80, R336) -/

/-- The entry of a 4 KiB leaf that the loader writes: ORD 1, TIER HBM, W and X as given. -/
def leafWord (pa : Nat) (w x : Bool) : Nat :=
  pa + 2 * 4 + 2 ^ 59 + (if w then 2 ^ 57 else 0) + (if x then 2 ^ 56 else 0)

/-- Map a page: missing tables come from the frames at hand. The error is a failure to place (R408 cause 5), where an
entry cannot be read too. -/
def mapPage (va pa : Nat) (w x : Bool) : Nat → Nat → Nat → State → List Nat → Option (State × List Nat)
  | 0, _, _, _, _ => none
  | fuel + 1, level, table, s, frames =>
    let ent := table + 16 * (va / 2 ^ levelShift level % levelMask level)
    let w0 := field (s.readP ent 16) 0 8
    let w1 := field (s.readP ent 16) 8 8
    let kind := bitsOf w0 3 2
    if !s.readable ent 16 then none
    else if level = 4 then
      if kind = 0 then some (s.writeP ent (toLE 8 (leafWord pa w x) ++ toLE 8 0), frames) else none
    else if kind = 0 then
      match frames with
      | [] => none
      | f :: rest =>
        if f % 2 ^ 13 ≠ 0 ∨ !(inHbm f 8192 || inLp f 8192) ∨ hitsReserved s f 8192 then none
        else
          let s := s.writeP f (List.replicate 8192 0#8)
          mapPage va pa w x fuel (level + 1) f (s.writeP ent (toLE 8 (f + 4) ++ toLE 8 0)) rest
    else if kind = 1 then
      match tableOf level w0 w1 with
      | .ok (_, t) => mapPage va pa w x fuel (level + 1) t s frames
      | .error _ => none
    else none

/-- The pages of a section: virtual and physical addresses. -/
def pagesOf (va len pa : Nat) : List (Nat × Nat) :=
  if len = 0 then []
  else
    let lo := va / 4096 * 4096
    (List.range (ceilDiv (va + len - lo) 4096)).map (fun i => (lo + 4096 * i, pa + 4096 * i))

/-- Map the pages of a section. -/
def mapAll (t0 : Nat) (w x : Bool) : List (Nat × Nat) → State → List Nat → Option (State × List Nat)
  | [], s, fs => some (s, fs)
  | (va, pa) :: rest, s, fs =>
    match mapPage va pa w x 5 0 t0 s fs with
    | some (s, fs) => mapAll t0 w x rest s fs
    | none => none

/-- May a section's bytes lie here: in HBM, page-aligned, clear of what no leaf maps (R83, R336). -/
def paOk (s : State) (va len pa : Nat) : Bool :=
  let n := 4096 * (pagesOf va len pa).length
  len == 0 || (pa % 4096 == 0 && inHbm pa n && !hitsReserved s pa n && va + len ≤ 2 ^ 56)

/-- The physical ranges of an object's pages. -/
def Placed.ranges (o : Placed) : List (Nat × Nat) :=
  [(o.textPa, 4096 * (pagesOf o.textVa (coTextLen o.bytes) o.textPa).length),
   (o.dataPa, 4096 * (pagesOf o.dataVa (coDataLen o.bytes) o.dataPa).length)]

/-- Are ranges disjoint, and disjoint from those of `used`. -/
def apart (used : List (Nat × Nat)) : List (Nat × Nat) → Bool
  | [] => true
  | r :: rest => (used ++ rest).all (fun u => !overlap r.1 r.2 u.1 u.2) && apart used rest

/-- The place of the first object whose pages overlap those of an earlier one, a new table, a table in use, or a page that
another context holds pinned. -/
def collides (used : List (Nat × Nat)) : Nat → List Placed → Option Nat
  | _, [] => none
  | i, o :: rest => if apart used o.ranges then collides (o.ranges ++ used) (i + 1) rest else some i

/-! ### What a context maps (R80, R85) -/

/-- The entries of a table of `n` that hold anything. -/
def liveEntries (s : State) (table n : Nat) : List Nat :=
  ((s.mem.filter (fun c => table ≤ c.1 && c.1 < table + 16 * n)).map (fun c => (c.1 - table) / 16)).eraseDups

/-- The tables from one on, as ranges, and the leaves under them; `va` is the first address that the table covers. -/
def explore (s : State) : Nat → Nat → Nat → Nat → List (Nat × Nat) × List Page
  | 0, _, _, _ => ([], [])
  | fuel + 1, level, table, va =>
    let n := levelMask level
    (liveEntries s table n).foldl (fun acc i =>
      let w0 := field (s.readP (table + 16 * i) 16) 0 8
      let w1 := field (s.readP (table + 16 * i) 16) 8 8
      let a := va + i * 2 ^ levelShift level
      if bitsOf w0 3 2 = 0 then acc
      else if bitsOf w0 3 2 = 2 then
        match leafOf s level a (a / 2 ^ levelShift level) (table + 16 * i) w0 w1 with
        | .ok p => (acc.1, acc.2 ++ [p])
        | .error _ => acc
      else
        match tableOf level w0 w1 with
        | .ok (next, t) => (acc.1 ++ (explore s fuel next t a).1, acc.2 ++ (explore s fuel next t a).2)
        | .error _ => acc) ([(table, 16 * n)], [])

def Ctx.explored (c : Ctx) (s : State) : List (Nat × Nat) × List Page := explore s 6 0 c.t0 0

/-- The physical ranges that `n` addresses from `a` on reach through a page; of a split page, its halves. -/
def Page.reach (p : Page) (a n : Nat) : List (Nat × Nat) :=
  let lo := max a p.va
  let hi := min (a + n) (p.va + p.size)
  if hi ≤ lo then []
  else
    match p.pa2 with
    | none => [(p.pa + (lo - p.va), hi - lo)]
    | some q => [(p.pa, p.size / 2), (q, p.size / 2)]

/-- How many addresses a bound spans from BASE on: with a view, whose LEN counts view bytes, twice LEN (R76). -/
def Bind.span (b : Bind) : Nat := if bitsOf b.perm.toNat 11 10 = 0 then b.len.toNat else 2 * b.len.toNat

/-- The physical ranges that a bound covers through the leaves of its context. -/
def Bind.covers (leaves : List Page) (b : Bind) : List (Nat × Nat) := leaves.flatMap (fun p => p.reach b.base.toNat b.span)

/-- Does a bound cover a page table, whichever context's it is (R85). -/
def coversTable (tables : List (Nat × Nat)) (leaves : List Page) (b : Bind) : Bool :=
  (b.covers leaves).any (fun r => tables.any (fun t => overlap r.1 r.2 t.1 t.2))

/-- What the bounds of the contexts loaded so far cover. -/
def State.bounded (s : State) : List (Nat × Nat) :=
  s.ctxs.flatMap (fun x =>
    let leaves := (x.explored s).2
    x.objs.flatMap (fun o => o.binds.flatMap (fun b => b.covers leaves)))

/-- The physical pages that contexts hold pinned (R87). -/
def State.pinned (s : State) : List (Nat × Nat) :=
  s.ctxs.flatMap (fun x => x.pins.filterMap (fun p =>
    match translate s x.n p.1 .fetch with
    | .ok (g, _) => some (g.loc p.1, p.2)
    | .error _ => none))

/-- Does a bound end within the aperture of its BASE (R77). -/
def Bind.fits (b : Bind) : Bool := b.base.toNat + b.len.toNat ≤ (b.base.toNat / 2 ^ 56 + 1) * 2 ^ 56

/-- Map one object and copy its bytes; none when it cannot be placed. -/
def placeObj (t0 : Nat) (os : List Placed) (hs : List HostSym) (o : Placed) (s : State) (fs : List Nat) :
    Option (State × List Nat) :=
  let b := o.bytes
  let (text, data) := o.sections os hs
  if !paOk s o.textVa text.length o.textPa || !paOk s o.dataVa data.length o.dataPa then none
  else
    match mapAll t0 ((field b 0x38 1).testBit 0) true (pagesOf o.textVa text.length o.textPa) s fs with
    | none => none
    | some (s, fs) =>
      match mapAll t0 true false (pagesOf o.dataVa data.length o.dataPa) s fs with
      | none => none
      | some (s, fs) =>
        some ((s.writeP (o.textPa + o.textVa % 4096) text).writeP (o.dataPa + o.dataVa % 4096) data, fs)

/-- Place the objects in load order; the error is the place of the one that fails. -/
def placeAll (t0 : Nat) (os : List Placed) (hs : List HostSym) : Nat → List Placed → State → List Nat → Except Nat State
  | _, [], s, _ => .ok s
  | i, o :: rest, s, fs =>
    match placeObj t0 os hs o s fs with
    | some (s, fs) => placeAll t0 os hs (i + 1) rest s fs
    | none => .error i

/-! ### The load (R336, R339, R408) -/

/-- A binding entry with its symbol resolved; the EX entry covers the code region (R339). -/
def BindE.bind (e : BindE) (addr lo hi : Nat) : Bind :=
  let base := if e.isEx then BitVec.ofNat 64 lo else BitVec.ofInt 64 ((addr : Int) + e.offset)
  ⟨if 128 ≤ e.breg then some (Fin.ofNat 16 (e.breg % 16)) else none, BitVec.ofNat 16 (e.perm + e.view * 2 ^ 10), base,
    BitVec.ofNat 64 (if e.isEx then hi - lo else e.len)⟩

/-- The EX entry names a range within its object's text (R339). -/
def exOk (os : List Placed) (hs : List HostSym) (o : Placed) : Bool :=
  (coBinds o.bytes).all (fun e => !e.isEx ||
    (let a := (symAddr os hs o e.sym : Int) + e.offset
     decide ((o.textVa : Int) ≤ a ∧ a + e.len ≤ (o.textVa : Int) + coTextLen o.bytes)))

def Placed.obj (os : List Placed) (hs : List HostSym) (lo hi : Nat) (o : Placed) : Obj where
  image := o.bytes
  textVa := o.textVa
  textLen := coTextLen o.bytes
  dataVa := o.dataVa
  dataLen := coDataLen o.bytes
  vregs := field o.bytes 5 1
  bufg := field o.bytes 6 1
  bufv := field o.bytes 7 1
  binds := (coBinds o.bytes).map (fun e => e.bind (symAddr os hs o e.sym) lo hi)
  entries := ((coSyms o.bytes).filter (fun y => y.binding == 1 && y.sect == 1 && y.value < coTextLen o.bytes)).map o.addrOf

/-- The place of the first object that cannot be read (cause 4) or is malformed (cause 3). -/
def badItem : Nat → List LoadItem → Option (Nat × Nat)
  | _, [] => none
  | i, x :: rest =>
    match x.image with
    | none => some (i, 4)
    | some b => if objOk b then badItem (i + 1) rest else some (i, 3)

/-- The name of the fault handler's symbol (R400). -/
def handlerName : List Byte := "fault_handler".toUTF8.toList.map (fun c => BitVec.ofNat 8 c.toNat)

/-- The fault handler: a strong global text symbol of that name (R400). -/
def handlerAt (os : List Placed) : Option Nat :=
  os.findSome? (fun o => ((coSyms o.bytes).find? (fun y => y.binding == 1 && y.sect == 1 && y.name == handlerName)).map o.addrOf)

/-- Translate and pin the text pages (R87). The error is the place of the object whose page has no translation, or still
one of before, cached, to other memory: it cannot be placed (R408 cause 5). -/
def pinAll (n : Nat) : List (Nat × Nat × Nat) → State → Except Nat State
  | [], s => .ok s
  | (i, va, pa) :: rest, s =>
    match translate s n va .fetch with
    | .ok (g, s) => if g.loc va = pa then pinAll n rest s else .error i
    | .error _ => .error i

/-- The place of the first object with a bound that leaves its aperture (R77) or covers a page table of any context (R85):
such an object is malformed, cause 3 (log entry 139). -/
def badBind (tables : List (Nat × Nat)) (leaves : List Page) (os : List Obj) : Option Nat :=
  os.findIdx? (fun o => o.binds.any (fun b => !b.fits || coversTable tables leaves b))

/-- Load code objects into a context: the state after it, or the failing object's place and the cause (R408). -/
def loadCtx (s : State) (c : Ctx) (items : List LoadItem) (hs : List HostSym) (frames : List Nat) :
    Except (Nat × Nat) State :=
  match badItem 0 items with
  | some e => .error e
  | none =>
    let os : List Placed := items.map (fun x => ⟨x.image.getD [], x.textVa, x.dataVa, x.textPa.getD 1, x.dataPa.getD 1⟩)
    match doubleDef os hs, undefinedRef os hs with
    | some i, _ => .error (i, 1)
    | none, some i => .error (i, 2)
    | none, none =>
      match ((List.range os.length).zip os).find? (fun (_, o) => !exOk os hs o) with
      | some (i, _) => .error (i, 3)
      | none =>
        let fresh := frames.map (fun f => (f, 8192))
        let tables := s.ctxs.flatMap (fun x => (x.explored s).1)
        match (match collides (fresh ++ tables ++ s.pinned) 0 os with
          | some i => .error i
          | none => if apart (tables ++ s.pinned ++ s.bounded) fresh then placeAll c.t0 os hs 0 os s frames else .error 0 : Except Nat State) with
        | .error i => .error (i, 5)
        | .ok t =>
          let texts := os.filter (fun o => 0 < coTextLen o.bytes)
          let lo := ((texts.map (·.textVa)).min?).getD 0
          let hi := (texts.map (fun o => o.textVa + coTextLen o.bytes)).foldl max lo
          let pages := ((List.range os.length).zip os).flatMap (fun (i, o) =>
            (pagesOf o.textVa (coTextLen o.bytes) o.textPa).map (fun p => (i, p)))
          let c := { c with
            objs := os.map (fun o => o.obj os hs lo hi)
            pins := pages.map (fun p => (p.2.1, 4096))
            codeLo := lo
            codeHi := hi
            handler := handlerAt os }
          match badBind (t.ctxs.flatMap (fun x => (x.explored t).1)) (c.explored t).2 c.objs with
          | some i => .error (i, 3)
          | none =>
            match pinAll c.n pages (t.setCtx c) with
            | .ok u => .ok u
            | .error i => .error (i, 5)

end Sys2Proof.Machine
end

