-- ==== Sys2Proof/Machine/Host.lean ====
section
/-! DEFINITION. The command endpoint and the management lane (R343, R346 to R348, R365), commands 0x01 to 0x0D, remote
operations on windows (R344, R345, R423), PTP (R354 to R356) and connection setup (R342). -/

namespace Sys2Proof.Machine

/-! ### Commands (R346, R347) -/

/-- STATUS, VAL0 and VAL1 of a reply (R347). -/
structure Reply where
  status : Nat
  v0 : Word
  v1 : Word
  deriving DecidableEq, Repr

def done : Reply := ⟨0, 0#64, 0#64⟩
def malformed : Reply := ⟨1, 0#64, 0#64⟩
def refusedState : Reply := ⟨2, 0#64, 0#64⟩

/-- A reply, on the lane where the command came there (R365). -/
def State.answer (s : State) (c : Cmd) (r : Reply) : State := s.emit (.reply c.src c.lane c.tag r.status r.v0 r.v1)

/-- Is a context loaded, which it is from its creation to its end (R188, log entry 71). -/
def State.loaded (s : State) : Bool := !s.ctxs.isEmpty

def State.registered (s : State) (h : Nat) : Bool := s.hosts.any (fun x => x.1 == h)

/-- Opcodes that the lane accepts once boot has succeeded, IDENT apart (R365). -/
def laneOp (opc : Nat) : Bool := [0x10, 0x12, 0x1A, 0x1B, 0x14].contains opc

/-- Opcodes answered after a unit is lost with no spare (R448). -/
def lostOp (opc : Nat) : Bool := [0x01, 0x02, 0x10, 0x12, 0x18, 0x19, 0x1A, 0x1B].contains opc

/-- Does the module hear a command (R343, R365, R367, R448): on the lane, or on endpoint 0 from a registered host. The lane
is heard for IDENT at every moment, and from boot on for every opcode; during a replay what comes on a port stays
unheard, for inputs come from Logline (R455). -/
def State.hears (s : State) (opc : Nat) (c : Cmd) : Bool :=
  if c.lane then opc == 1 || s.boot == .up || (s.boot == .maintenance && lostOp opc)
  else
    c.endp == 0 && s.registered c.src && s.replay.isNone &&
      match s.boot with
      | .up => true
      | .maintenance => lostOp opc
      | .waiting | .stopped | .down => false

/-- The command message as it arrived, for Logline (R376). -/
def cmdBytes (c : Cmd) (opc : Nat) : List Byte :=
  toLE 4 c.fmt.toNat ++ toLE 2 opc ++ toLE 2 c.rsv.toNat ++ toLE 8 c.tag.toNat ++ toLE 4 c.ctx.toNat ++ toLE 4 c.plen.toNat
    ++ toLE 8 c.arg0.toNat ++ toLE 8 c.arg1.toNat ++ toLE 8 c.arg2.toNat ++ toLE 8 c.arg3.toNat ++ toLE 8 c.arg4.toNat
    ++ c.payload

def cmdArgs (c : Cmd) : List Word := [c.arg0, c.arg1, c.arg2, c.arg3, c.arg4]

/-- Is a command well formed (R346, R348): its header, the payload length its opcode gives, zero in the arguments it does
not name, and a context exactly where it names one. -/
def cmdOk (c : Cmd) (s : State) (named : List Nat) (usesCtx : Bool) (plen : Nat) : Bool :=
  c.fmt == 0x0004000C#32 && c.rsv == 0#16 && c.plen.toNat == c.payload.length && c.payload.length == plen && plen ≤ 4032
    && ((List.range 5).zip (cmdArgs c)).all (fun a => named.contains a.1 || a.2 == 0#64)
    && (if usesCtx then (s.ctx? c.ctx.toNat).isSome else c.ctx == 0#32)

/-- A command: it is recorded, performed if well formed, and answered (R346, R347, R375). On the lane an opcode that the
lane does not accept replies STATUS 1 (R365). A command that answers later gives no reply here. -/
def State.serve (s : State) (opc : Nat) (named : List Nat) (usesCtx : Bool) (plen : Nat) (c : Cmd)
    (f : State → State × Option Reply) : Res :=
  if !s.hears opc c then .next s
  else
    let t := s.logOf 1 (if c.lane then lanePort else c.port) 0 c.tag (cmdBytes c opc)
    if (c.lane && opc != 1 && !laneOp opc) || !cmdOk c s named usesCtx plen then .next (t.answer c malformed)
    else
      match f t with
      | (u, some r) => .next (u.answer c r)
      | (u, none) => .next u

/-- A command of a reserved opcode: it is recorded, and answered with STATUS 1 (R347, R348). -/
def State.reserved (s : State) (opc : Nat) (c : Cmd) : Res := s.serve opc [] false 0 c (fun s => (s, some malformed))

/-- A command that leaves only a reply or a new state. -/
def reply (r : Reply) (s : State) : State × Option Reply := (s, some r)

/-! ### IDENT, PHYSWIN, contexts (R348) -/

/-- IDENT. -/
def execIdent (c : Cmd) (s : State) : Res := s.serve 0x01 [] false 0 c (reply ⟨0, s.decver, Config.serial⟩)

def State.setWindow (s : State) (w : Window) : State := { s with wins := w :: s.wins.filter (fun v => v.n != w.n) }

/-- PHYSWIN: physical memory outside the safe tier, to this host only. -/
def execPhyswin (c : Cmd) (s : State) : Res :=
  s.serve 0x02 [0, 1, 2] false 0 c (fun s =>
    let a := c.arg0.toNat
    let n := c.arg1.toNat
    if 1023 < c.arg2.toNat ∨ n = 0 ∨ !(inHbm a n || inLp a n) then reply malformed s
    else reply done (s.setWindow ⟨c.arg2.toNat, 0, c.src, a, n, 7, 0, true⟩))

def hits (r : Option (Nat × Nat)) (a n : Nat) : Bool :=
  match r with
  | some (b, k) => overlap a n b k
  | none => false

/-- CTXNEW (R47, R348). -/
def execCtxnew (c : Cmd) (s : State) : Res :=
  s.serve 0x03 [0, 1, 2, 3] false 0 c (fun s =>
    let t0 := c.arg0.toNat
    let p := c.arg2.toNat
    let n := c.arg3.toNat
    let bad := t0 % 4096 ≠ 0 || !(inHbm t0 4096 || inLp t0 4096) || 2 ^ 16 ≤ c.arg1.toNat || p % 64 ≠ 0 || !inLp p n
      || hits s.ckArea p n || hits s.logArea p n || s.ctxs.any (fun k => overlap p n k.poolBase k.poolLen)
    match (if bad then none else ((List.range 255).map (· + 1)).find? (fun k => (s.ctx? k).isNone)) with
    | none => reply malformed s
    | some k =>
      let x : Ctx := ⟨k, c.src, t0, c.arg1.toNat, p, n, [], [], 0, 0, [], none⟩
      reply ⟨0, BitVec.ofNat 64 k, 0#64⟩ { s with ctxs := s.ctxs ++ [x] })

/-- CTXLOAD (R336, R408): the load list's objects, as the module reads them from the host. -/
def execCtxload (c : Cmd) (items : List LoadItem) (syms : List HostSym) (tables : List Nat) (s : State) : Res :=
  s.serve 0x04 [0, 1] true 0 c (fun s =>
    let s := s.logBrought ⟨items, syms, tables, []⟩
    match s.ctx? c.ctx.toNat with
    | none => reply malformed s
    | some x =>
      if !x.objs.isEmpty then reply refusedState s
      else if items.isEmpty ∨ 64 < items.length then reply malformed s
      else
        match loadCtx s x items syms tables with
        | .ok t => reply done t
        | .error (i, cause) => reply ⟨3, BitVec.ofNat 64 i, BitVec.ofNat 64 cause⟩ s)

/-- A context and all that belongs to it goes. -/
def State.dropCtx (s : State) (n : Nat) : State :=
  let mine (t : Strand) : Bool := t.exists? && t.ctx == n
  { s with
    ctxs := s.ctxs.filter (fun x => x.n != n)
    me := if mine s.me then Strand.blank else s.me
    strands := s.strands.filter (fun t => !mine t)
    queues := s.queues.filter (fun q => q.ctx != n)
    wins := s.wins.filter (fun w => w.phys || w.ctx != n)
    launches := s.launches.filter (fun l => l.ctx != n) }

/-- CTXEND (R348, R408): a context frozen by a replay ends whatever it holds (R455). -/
def execCtxend (c : Cmd) (s : State) : Res :=
  s.serve 0x05 [] true 0 c (fun s =>
    let n := c.ctx.toNat
    if !s.frozen && (s.queues.any (fun q => q.ctx == n) || s.wins.any (fun w => !w.phys && w.ctx == n)) then
      reply refusedState s
    else
      let t := s.dropCtx n
      reply done { t with frozen := t.frozen && !t.ctxs.isEmpty })

/-- Does a cached entry cover an address of a range. -/
def TlbE.covers (t : TlbE) (a n : Nat) : Bool := overlap (t.key * 2 ^ levelShift t.level) (2 ^ levelShift t.level) a n

/-- TLBINV (R85): entries over the range go, but for the leaves of pinned pages (R87). -/
def execTlbinv (c : Cmd) (s : State) : Res :=
  s.serve 0x06 [0, 1] true 0 c (fun s =>
    match s.ctx? c.ctx.toNat with
    | none => reply malformed s
    | some x =>
      let keep (t : TlbE) : Bool :=
        (c.arg1 != 0#64 && !t.covers c.arg0.toNat c.arg1.toNat)
          || (bitsOf t.w0 3 2 == 2 && x.pins.any (fun p => t.covers p.1 p.2))
      reply done (s.setCtx { x with tlb := x.tlb.filter keep }))

/-! ### Partitions and queues (R48, R49, R67, R323, R348) -/

/-- Module capacities of R48. -/
def capacity : Part := ⟨2048, 64, 2048, 4, 16384⟩

def Part.le (a b : Part) : Bool :=
  a.kernel ≤ b.kernel && a.walker ≤ b.walker && a.copy ≤ b.copy && a.exchange ≤ b.exchange && a.pool ≤ b.pool

def Part.add (a b : Part) : Part :=
  ⟨a.kernel + b.kernel, a.walker + b.walker, a.copy + b.copy, a.exchange + b.exchange, a.pool + b.pool⟩

/-- PARTSET (R48). -/
def execPartset (c : Cmd) (s : State) : Res :=
  s.serve 0x07 [0, 1, 2, 3, 4] false 0 c (fun s =>
    let n := c.arg0.toNat
    let w := c.arg4.toNat
    if 15 < n ∨ bitsOf w 15 8 ≠ 0 ∨ bitsOf w 63 32 ≠ 0 then reply malformed s
    else
      let p : Part := ⟨c.arg1.toNat, c.arg2.toNat, c.arg3.toNat, bitsOf w 7 0, bitsOf w 31 16⟩
      let sum := (List.range 16).foldl (fun a i => a.add (if i = n then p else s.part i)) Part.reset
      if sum.le capacity && partOk p s.holds s.time.toNat (s.inPart n) (fun _ => true) then
        reply done { s with parts := tabSet s.parts n p }
      else reply ⟨0, 1#64, 0#64⟩ s)

/-- QCREATE (R323, R348, R350). -/
def execQcreate (c : Cmd) (s : State) : Res :=
  s.serve 0x08 [0, 1] true 0 c (fun s =>
    let n := c.ctx.toNat
    let a := c.arg0.toNat
    match s.ctx? n, devRead s n a 64 with
    | some x, .ok (b, t) =>
      if a % 64 ≠ 0 || !qWell b || !x.partMask.testBit (qPart b) || qSubTail b ≠ 0 || qCplHead b ≠ 0 then reply malformed s
      else
        match s.freeQueue with
        | none => reply ⟨0, 0xFFFFFFFFFFFFFFFF#64, 0#64⟩ s
        | some k =>
          match t.openQueue ⟨k, n, c.src, false, a, qPart b, qClass b, c.arg1.toNat, 1, none, false, 0, [], []⟩ with
          | some u => reply ⟨0, BitVec.ofNat 64 k, 0#64⟩ u
          | none => reply malformed s
    | _, _ => reply malformed s)

/-- QDESTROY (R67). -/
def execQdestroy (c : Cmd) (s : State) : Res :=
  s.serve 0x09 [0, 1] false 0 c (fun s =>
    match s.queue? c.arg0.toNat with
    | some q => if 2 < c.arg1.toNat then reply malformed s else reply done (s.requestEnd q c.arg1.toNat)
    | none => reply malformed s)

/-! ### Windows, groups, the clock, hosts (R344, R352, R354, R364) -/

/-- WINSET (R344). -/
def execWinset (c : Cmd) (s : State) : Res :=
  s.serve 0x0A [0, 1, 2, 3, 4] true 0 c (fun s =>
    let base := c.arg1.toNat
    let n := c.arg2.toNat
    if 1023 < c.arg0.toNat ∨ 16 ≤ c.arg3.toNat ∨ 2 ^ 16 ≤ c.arg4.toNat ∨ 2 ^ 56 < base + n then reply malformed s
    else reply done (s.setWindow ⟨c.arg0.toNat, c.ctx.toNat, c.src, base, n, c.arg3.toNat, c.arg4.toNat, false⟩))

/-- WINCLR: operations on the window have been performed as they came. -/
def execWinclr (c : Cmd) (s : State) : Res :=
  s.serve 0x0B [0] false 0 c (fun s => reply done { s with wins := s.wins.filter (fun w => w.n != c.arg0.toNat) })

/-- GROUPSET (R352): its payload is M addresses of 16 bytes. -/
def execGroupset (c : Cmd) (s : State) : Res :=
  let m := c.arg1.toNat
  s.serve 0x0C [0, 1, 2, 3] false (16 * m) c (fun s =>
    if m = 0 ∨ 252 < m ∨ m ≤ c.arg2.toNat ∨ 2 ^ 16 ≤ c.arg0.toNat then reply malformed s
    else
      let g : FGroup := ⟨c.arg0.toNat, c.arg2.toNat, c.arg3, (List.range m).map (fun i => field c.payload (16 * i) 16)⟩
      reply done { s with groups := g :: s.groups.filter (fun h => h.n != g.n) })

/-- CLOCKSET (R354). -/
def execClockset (c : Cmd) (s : State) : Res :=
  s.serve 0x0D [0, 1, 2, 3] false 0 c (fun s =>
    if 127 < c.arg0.toNat ∨ 1 < c.arg1.toNat ∨ 2 ^ 12 ≤ c.arg2.toNat ∨ 1 < c.arg3.toNat then reply malformed s
    else if s.loaded then reply refusedState s
    else reply done { s with
      ptpDomain := c.arg0.toNat, bc := c.arg1 == 1#64, ptpPorts := c.arg2.toNat, ptpPeer := c.arg3 == 1#64 })

/-- HOSTREG (R364, R365). -/
def execHostreg (c : Cmd) (s : State) : Res :=
  s.serve 0x10 [0, 1] false 0 c (fun s =>
    let h := c.arg0.toNat
    let rest := s.hosts.filter (fun x => x.1 != h)
    if 3 < c.arg1.toNat then reply malformed s
    else reply done { s with hosts := if c.arg1.toNat.testBit 1 then rest else rest ++ [(h, c.arg1.toNat.testBit 0)] })

/-- A send on endpoint 1, or from a host that is not registered (R343): no command, no reply. -/
def execSendDiscarded (_c : Cmd) (s : State) : Res := .next s

/-! ### Remote operations on windows (R344, R345, R423) -/

/-- Is the initiator admitted (R344): the host that set the window, or a member of its group under the group bit. -/
def State.mayInitiate (s : State) (w : Window) (src : Nat) : Bool :=
  src == w.host || (!w.phys && w.perm.testBit 3
    && ((s.groups.find? (fun g => g.n == w.group)).map (fun g => g.members.contains src)).getD false)

/-- An operation's bytes, or its refusal (R344, R345). A physical window has no leaf. During a replay every operation is
refused (R455). -/
def State.windowOp (s : State) (r : Remote) (bit n : Nat) (need : Need) : Except Nat (List Byt × State) :=
  if s.replay.isSome then .error 2
  else
    match s.window? r.win with
    | none => .error 0
    | some w =>
      match winRefuses s w bit r.off n (s.mayInitiate w r.src) (r.svc == .rudi) with
      | some d => .error d
      | none =>
        match winBytes s w r.off n need with
        | some x => .ok x
        | none => .error 3

/-- A refused operation: it is not performed, and class 0x61 goes to the window's host (R423). -/
def State.refuseOp (s : State) (r : Remote) (det : Nat) : State :=
  (s.send61 r.win det r.off (r.src % 2 ^ 64)).emit (.refuse r.src)

/-- A remote write (R344, R345); `mark` is the TREL that a timed put carries. -/
def execRemoteWrite (r : Remote) (data : List Byte) (mark : Option Word) (s : State) : Res :=
  if !s.booted then .next s
  else
    match s.windowOp r 1 data.length .write with
    | .error d => .next (s.refuseOp r d)
    | .ok (bs, t) =>
      let t := (t.logOf 2 r.port r.win (BitVec.ofNat 64 r.off) data).logPlace (bs.map (·.loc))
      .next (((t.pokeByts bs data).lateMark r.win r.off mark).emit (.ack r.src []))

/-- A remote read: an uncorrectable byte cannot be returned, so that the leaf's refusal stands for it (R344). -/
def execRemoteRead (r : Remote) (len : Nat) (s : State) : Res :=
  if !s.booted then .next s
  else
    match s.windowOp r 0 len .read with
    | .error d => .next (s.refuseOp r d)
    | .ok (bs, t) =>
      if bs.any (fun b => t.bad.contains b.loc) then .next (s.refuseOp r 3)
      else .next (t.emit (.ack r.src (bs.map (fun b => Memory.get t.mem b.loc))))

/-- The new value of a remote atomic, if one is written (R342). -/
def atomicNew (op : RAtomic) (old v w : Word) : Option Word :=
  match op with
  | .fetchAdd => some (old + v)
  | .swap => some v
  | .cswap => if old = v then some w else none

/-- The operands of a remote atomic as Logline records them: the operation first (log entry 10). -/
def atomicOperands (op : RAtomic) (v w : Word) : List Byte :=
  match op with
  | .fetchAdd => toLE 8 0 ++ toLE 8 v.toNat
  | .swap => toLE 8 1 ++ toLE 8 v.toNat
  | .cswap => toLE 8 2 ++ toLE 8 v.toNat ++ toLE 8 w.toNat

/-- A remote atomic on a naturally aligned 8-byte word; one that is not aligned is not an operation of R342 and is not
granted (log entry 79). -/
def execRemoteAtomic (r : Remote) (op : RAtomic) (v w : Word) (s : State) : Res :=
  if !s.booted then .next s
  else if s.replay.isNone && ((s.window? r.win).map (fun x => decide ((x.base + r.off) % 8 ≠ 0))).getD false then
    .next (s.refuseOp r 1)
  else
    match s.windowOp r 2 8 .write with
    | .error d => .next (s.refuseOp r d)
    | .ok (bs, t) =>
      if bs.any (fun b => t.bad.contains b.loc) then .next (s.refuseOp r 3)
      else
        let old := BitVec.ofNat 64 (ofLE (bs.map (fun b => Memory.get t.mem b.loc)))
        let t := t.logOf 3 r.port r.win (BitVec.ofNat 64 r.off) (atomicOperands op v w ++ toLE 8 old.toNat)
          |>.logPlace (bs.map (·.loc))
        let t := match atomicNew op old v w with
          | some x => t.pokeByts bs (toLE 8 x.toNat)
          | none => t
        .next (t.emit (.ack r.src (toLE 8 old.toNat)))

/-! ### PTP (R354 to R356) -/

/-- The rate in force: while a context is loaded, within 500 parts per million of a cycle's 0.8 ns (R355). -/
def clampRate (loaded : Bool) (r : Int) : Nat :=
  if loaded then (max 7996000000 (min 8004000000 r)).toNat else r.toNat

/-- PTP_MESSAGE: the servo sets the rate (in 10^−10 ns a cycle) and EBOUND, and LOCK where TIME is within the bounds;
regaining the lock is event 0x04 (R356, R363). -/
def execPtpMessage (rate : Int) (ebound : Nat) (locked : Bool) (s : State) : Res :=
  let e : BitVec 32 := BitVec.ofNat 32 (min ebound 0xFFFFFFFF)
  let t := { s with rate := clampRate s.loaded rate, ebound := e, lock := s.lock || locked }
  .next (if locked && !s.lock then t.health 4 0 (e.setWidth 64) else t)

/-- PTP_LOCK_LOST: LOCK clears, event 0x03 carries the last EBOUND (R356). -/
def execPtpLockLost (s : State) : Res :=
  .next (if s.lock then { s with lock := false }.health 3 0 (s.ebound.setWidth 64) else s)

/-- CONNECTION_SETUP (R342): a request for a feature that the table does not list as supported (0 to 8 here: RUD, ROD,
RUDI, network-signalled congestion control, trimming, send, remote write, remote read, remote atomic) is refused. -/
def execConnectionSetup (src feature : Nat) (s : State) : Res :=
  .next (if s.booted && 8 < feature then s.emit (.refuse src) else s)

end Sys2Proof.Machine
end

