-- ==== Sys2Proof/Machine/ScalarMem.lean ====
section
/-! DEFINITION. Scalar memory and atomics, major 0x06 (R213 to R216). -/

namespace Sys2Proof.Machine

/-- The effective address of a WM word whose index names an x register (R75, R213). -/
def Strand.eaM (st : Strand) (m : WM) : Int := st.ea m.bnd m.idx m.scale m.off

/-- Natural alignment, class 0x84 DETAIL 3 or 6 (R439). -/
def misaligned (e : Int) (n : Nat) : Bool := e % (n : Int) != 0

/-- The value of an address in FINFO1. -/
def addrNat (e : Int) : Nat := (e % (2 ^ 64 : Int)).toNat

/-- Read, compute and write in one atomic access of `n` bytes (R214, R289): `f` gives the bytes to write from the old
ones, and `none` where nothing is written. -/
def State.rmwE (s : State) (b : BRegNo) (e : Int) (n i : Nat) (f : List Byte → Option (List Byte)) :
    Run (List Byte × State) := do
  let (bs, t) ← s.orFail (access s s.who (s.me.getB b) b.val useAT e n i)
  if s.conflicts bs true then .error (.hold s)
  else
    let old ← s.orFail (readByts t s.who b.val useAT i bs)
    match f old with
    | none => .ok (old, t)
    | some new =>
      let u := t.pokeByts bs new
      .ok (old, u.setMe (u.me.staleBytes bs))

/-- LD (R213). -/
def execLd (m : WM) (s : State) : Res :=
  finish (.ld m) do
    let o ← s.order m.bnd useLD [(s.me.eaM m, sbytes m.ty)] m.ord
    let (bs, t) ← s.loadE m.bnd useLD (s.me.eaM m) (sbytes m.ty) 0
    .ok ((t.acquire o).writeX m.data (extend m.ty bs))

/-- ST (R213). -/
def execSt (m : WM) (s : State) : Res :=
  finish (.st m) do
    let o ← s.order m.bnd useST [(s.me.eaM m, sbytes m.ty)] m.ord
    let t ← s.storeE m.bnd useST (s.me.eaM m) (toLE (sbytes m.ty) (s.me.getX m.data).toNat) 0
    .ok ((t.acquire o).retire 1)

/-- FLD (R213). -/
def execFld (m : WM) (s : State) : Res :=
  finish (.fld m) do
    let o ← s.order m.bnd useLD [(s.me.eaM m, sbytes m.ty)] m.ord
    let (bs, t) ← s.loadE m.bnd useLD (s.me.eaM m) (sbytes m.ty) 0
    let u := t.acquire o
    .ok (u.setMe ((u.me.setF m.data (BitVec.ofNat 64 (ofLE bs))).retire 1))

/-- FST (R213). -/
def execFst (m : WM) (s : State) : Res :=
  finish (.fst m) do
    let o ← s.order m.bnd useST [(s.me.eaM m, sbytes m.ty)] m.ord
    let t ← s.storeE m.bnd useST (s.me.eaM m) (toLE (sbytes m.ty) (s.me.getF m.data).toNat) 0
    .ok ((t.acquire o).retire 1)

/-- The locations of the 64-byte block of an address (R215). -/
def State.blockLocs (s : State) (a : Nat) : List Nat :=
  match resolve s.who .read false (span (a / 64 * 64) 64) s none [] with
  | .ok (bs, _) => bs.map (·.loc)
  | .error _ => []

/-- LR (R215). -/
def execLr (m : WM) (s : State) : Res :=
  finish (.lr m) do
    let e := s.me.eaM m
    let n := sbytes m.ty
    s.guard (misaligned e n) 0x84 3 (addrNat e) 0
    let o ← s.order m.bnd useLD [(e, n)] m.ord
    let (bs, t) ← s.loadE m.bnd useLD e n 0
    let a := (s.me.getB m.bnd).addrOf e
    let u := t.acquire o
    let r : Reservation := ⟨keyOf s.me.core a / 64, n, t.blockLocs a⟩
    .ok (({ u with me := { u.me with resv := some r } }).writeX m.data (extend m.ty bs))

/-- Does the strand hold the reservation that an SC needs (R215): blocks are compared as R112 compares addresses (log entry
118). -/
def Strand.holds (st : Strand) (a n : Nat) : Bool :=
  match st.resv with
  | some r => r.block == a / 64 && r.size == n
  | none => false

/-- SC (R215). -/
def execSc (m : WM) (s : State) : Res :=
  finish (.sc m) do
    let e := s.me.eaM m
    let n := sbytes m.ty
    s.guard (misaligned e n) 0x84 3 (addrNat e) 0
    let o ← s.order m.bnd useST [(e, n)] m.ord
    if s.me.holds (keyOf s.me.core ((s.me.getB m.bnd).addrOf e)) n then
      let t ← s.storeE m.bnd useST e (toLE n (s.me.getX m.data).toNat) 0
      let u := t.acquire o
      .ok (({ u with me := { u.me with resv := none } }).writeX m.data 0#64)
    else
      let (_, t) ← s.orFail (access s s.who (s.me.getB m.bnd) m.bnd.val useST e n 0)
      let u := t.acquire o
      .ok (({ u with me := { u.me with resv := none } }).writeX m.data 1#64)

/-- f(M, V) of R214 on codes of `w` bits. -/
def amoFn (op : BitVec 3) (w m v : Nat) : Nat :=
  match op.toNat with
  | 0 => v
  | 1 => (m + v) % 2 ^ w
  | 2 => m &&& v
  | 3 => m ||| v
  | 4 => m ^^^ v
  | 5 => if signedOf w m < signedOf w v then m else v
  | 6 => if signedOf w m < signedOf w v then v else m
  | _ => max m v

/-- AMO (R214). -/
def execAmo (d : XReg) (b : BRegNo) (x : XReg) (op : BitVec 3) (ord : MOrd) (sc : Scope) (ty : ETy) (off : BitVec 18)
    (s : State) : Res :=
  finish (.amo d b x op ord sc ty off) do
    let e := s.me.eb b off.toInt
    let n := sbytes ty
    s.guard (misaligned e n) 0x84 3 (addrNat e) 0
    let o ← s.order b useAT [(e, n)] ord
    let v := (s.me.getX x).toNat % 2 ^ sbits ty
    let (old, t) ← s.rmwE b e n 0 (fun m => some (toLE n (amoFn op (sbits ty) (ofLE m) v)))
    .ok ((t.acquire o).writeX d (extend ty old))

/-- PREF (R216): the access is checked and nothing changes. -/
def execPref (b : BRegNo) (idx : XReg) (scale : BitVec 3) (off : BitVec 18) (s : State) : Res :=
  finish (.pref b idx scale off) do
    let _ ← s.orFail (access s s.who (s.me.getB b) b.val useLD (s.me.ea b idx scale off) 1 0)
    .ok (s.retire 1)

end Sys2Proof.Machine
end

