-- ==== Sys2Proof/Machine/VecData.lean ====
section
/-! DEFINITION. Vector data, major 0x0A (R226 to R232, R457): conversion, quantisation, moves, reductions by the
canonical tree (R135) and scans. -/

namespace Sys2Proof.Machine

/-! ### Destinations of block type -/

/-- A register of a block type after an interruption: the codes and scale bytes of the blocks done so far; `n` is VL. -/
def VReg.partB (old : VReg) (t : ETy) (n : Nat) (codes scales : List Nat) : VReg :=
  let base := old.part t codes
  if scales.isEmpty then base
  else
    let off := 8 * scaleAt t n
    let nb := 8 * scales.length
    let v := base.nat
    ⟨BitVec.ofNat 65536 (v % 2 ^ off + pack 8 scales <<< off + (v >>> (off + nb)) <<< (off + nb)),
      max base.hw (ceilDiv (scaleAt t n + scales.length) 64)⟩

/-- Write codes 0 to `hi − 1` and, for a block type, the scale bytes of their blocks. -/
def Strand.putV (st : Strand) (d : VRegNo) (t : ETy) (codes scales : List Nat) : Strand :=
  if codes.length = st.vl then st.setV d ((st.getV d).full t st.blk codes scales)
  else st.setV d ((st.getV d).partB t st.vl codes scales)

/-- The scale byte of block `j` of a register. -/
def Strand.scale (st : Strand) (t : ETy) (r : VRegNo) (j : Nat) : Nat := scaleOf t st.vl (st.getV r).nat j

/-! ### Conversion (R226, R228) -/

/-- VCVT and VDEQ: decode, then round once. `g` is the group length. -/
def State.convert (s : State) (d a : VRegNo) (src : ETy) (m : VMod) (g : Nat) : Run State := do
  s.vchk [d, a] [m.ty, src] []
  let st := s.me
  s.elementwise d m.ty g m.mask m.keep m.rnd (fun i =>
    deliver m.ty (converted (st.val src a i)) (st.rnd m.rnd) m.sat (st.draw i 0))

/-- VCVT (R226, R232). -/
def execVcvt (d a : VRegNo) (src : ETy) (m : VMod) (s : State) : Res :=
  finish (.vcvt d a src m)
    (s.convert d a src m (s.me.grp (max (sbits src) (sbits m.ty)) (d = a && sbits src ≠ sbits m.ty)))

/-- VDEQ (R228): it stops at block boundaries only (R232). -/
def execVdeq (d a : VRegNo) (src : ETy) (m : VMod) (s : State) : Res :=
  finish (.vdeq d a src m) (s.convert d a src m (max s.me.blk (s.me.grp (sbits m.ty) (d = a))))

/-! ### Quantisation (R227) -/

/-- Mx of R227. -/
def maxOfKind (t : ETy) (kind : Nat) : Nat :=
  if t = .b8 then 448 else match kind with
    | 0 => 7 | 1 => 6 | 2 => 64 | _ => 12

/-- ceil(log2(m / Mx)) for a positive m. -/
def ceilLog2 (m : Q) (mx : Nat) : Int :=
  let g := magLog (.rat m.num.natAbs m.exp (m.den * mx))
  if qlt ⟨mx, g, 1⟩ ⟨m.num.natAbs, m.exp, m.den⟩ then g + 1 else g

/-- The greatest magnitude among finite values, as a rational. -/
def maxFinite (vs : List Val) : Q :=
  vs.foldl (fun m v => match v with
    | .fin q =>
      let a : Q := ⟨q.num.natAbs, q.exp, q.den⟩
      if qlt m a then a else m
    | _ => m) ⟨0, 0, 1⟩

/-- Round |x| between two neighbours of a column, `lo` with code `k`: the code taken (R126). -/
def pickCode (neg : Bool) (x lo hi : Q) (k : Nat) (rm : Rnd) (dr : Draw) : Nat :=
  let w := qadd hi (qneg lo)
  let u := qadd x (qneg lo)
  let twice : Q := ⟨u.num * 2, u.exp, u.den⟩
  let up : Bool := match rm with
    | .rtz => false
    | .rup => !neg
    | .rdn => neg
    | .rna => !qlt twice w
    | .rst =>
      -- the neighbour of smaller value is lo for a positive x and −hi for a negative one
      let d : Q := ⟨w.num * dr, w.exp - 32, w.den⟩
      if neg then !qlt d (qadd w (qneg u)) else qlt d u
    | _ => if qlt w twice then true else if qlt twice w then false else k % 2 = 1
  if up then k + 1 else k

/-- The nearest code of a b4 column (R124, R227), with its events. -/
def quantB4 (kind : Nat) (v : Val) (rm : Rnd) (dr : Draw) : Nat × Ev :=
  match v with
  | .nan _ => (0, 0#7)
  | .inf neg => (if kind = 0 then (if neg then 9 else 7) else (if neg then 15 else 7), evS ||| evI)
  | .zero z => (if kind ≠ 0 ∧ z = .neg then 8 else 0, 0#7)
  | .fin q =>
    if kind = 0 then
      if qlt ⟨7, 0, 1⟩ q then (7, evS ||| evI)
      else if qlt q ⟨-8, 0, 1⟩ then (8, evS ||| evI)
      else
        let r := roundToInt (.val v) rm dr
        (intCode 4 r.1, evIf (!r.2) evI)
    else
      let neg : Bool := q.num < 0
      let x : Q := ⟨q.num.natAbs, q.exp, q.den⟩
      let col (k : Nat) : Q := let c := b4Val kind k; ⟨c.1, c.2, 1⟩
      let s := if neg then 8 else 0
      if qlt (col 7) x then (s + 7, evS ||| evI)
      else
        let k := ((List.range 8).filter (fun k => !qlt x (col k))).length - 1
        if qlt (col k) x then (s + pickCode neg x (col k) (col (k + 1)) k rm dr, evI) else (s + k, 0#7)

/-- One block of VQUANT: scale byte, codes and events; `i0` is the index of its first element. -/
def quantBlock (t : ETy) (kind : Nat) (rm : Rnd) (sat : Bool) (dr : Nat → Draw) (i0 : Nat) (vs : List Val) :
    Nat × List Nat × Evs :=
  let nanScale := if t = .b8 then 255 else kind * 64 + 63
  let zeros := vs.map (fun _ => 0)
  if vs.any isNan then
    (nanScale, zeros, (vs.zipIdx.filter (fun v => isSnan v.1)).map (fun v => (i0 + v.2, evV)))
  else if vs.any isInf && !sat then
    (nanScale, zeros, [(i0 + (vs.findIdx isInf), evO ||| evI)])
  else
    let m := maxFinite vs
    let lim : Int := if t = .b8 then 127 else 31
    let e : Int := if m.num = 0 then 0 else max (-lim) (min lim (ceilLog2 m (maxOfKind t kind)))
    let rs := vs.zipIdx.map (fun v =>
      let x := scaleVal v.1 (-e)
      if t = .b8 then roundTo .e4m3 (.val x) rm sat (dr (i0 + v.2)) else quantB4 kind x rm (dr (i0 + v.2)))
    ((e + lim).toNat + (if t = .b8 then 0 else kind * 64), rs.map (·.1),
      rs.zipIdx.flatMap (fun r => evAt (i0 + r.2) r.1.2))

/-- VQUANT (R227, R232): whole blocks. -/
def execVquant (d a : VRegNo) (ty : ETy) (rnd : Rnd) (sat : Bool) (src : ETy) (kind : BitVec 2) (s : State) : Res :=
  finish (.vquant d a ty rnd sat src kind) do
    s.vchk [d, a] [ty, src] []
    let st := s.me
    if st.vl = 0 then s.completeV []
    else
      let l := st.blk
      let hi := st.upto (max l (st.grp (sbits src) (d = a))) st.vl
      let j0 := st.esr / l
      let bs := (List.range' j0 (hi / l - j0)).map (fun j =>
        quantBlock ty kind.toNat (st.rnd rnd) sat (fun i => st.draw i 0) (j * l)
          ((List.range' (j * l) l).map (fun i => (st.val src a i).1)))
      let codes := (List.range st.esr).map (st.code ty d) ++ bs.flatMap (fun b => b.2.1)
      let scales := (List.range j0).map (st.scale ty d) ++ bs.map (·.1)
      let evs := bs.flatMap (fun b => b.2.2)
      let done := st.putV d ty codes scales
      if hi = st.vl then (s.setMe (done.advance rnd st.vl)).completeV evs
      else .ok ((s.setMe done).interrupt evs hi none)

/-! ### Classes and comparisons (R229) -/

/-- VCLASS. -/
def execVclass (d a : VRegNo) (ty : ETy) (mask : MRegNo) (keep : Bool) (s : State) : Res :=
  finish (.vclass d a ty mask keep) do
    s.vchk [d, a] [ty] []
    let st := s.me
    s.elementwise d ty (groupLen (sbits ty)) mask keep .rne (fun i => (classBits ty (st.code ty a i), 0#7))

/-- A relation of two codes of a type of F or I (R207, R229). -/
def relCodes (t : ETy) (r : Rel) (a b : Nat) : Bool × Ev :=
  if isF t then (relHolds r (decodeVal t a) (decodeVal t b), relEv r (decodeVal t a) (decodeVal t b))
  else (relHolds r (ofInt (intVal t a)) (ofInt (intVal t b)), 0#7)

/-- VCMP; into its own mask it is never interrupted (R232). -/
def execVcmp (d : MRegNo) (rel : Rel) (a b : VRegNo) (ty : ETy) (mask : MRegNo) (keep : Bool) (s : State) : Res :=
  finish (.vcmp d rel a b ty mask keep) do
    s.vchk [a, b] [ty] []
    let st := s.me
    s.maskwise d (st.grp (sbits ty) (d = mask)) mask keep 0 (fun i =>
      let r := relCodes ty rel (st.code ty a i) (st.code ty b i)
      (if r.1 then 1 else 0, r.2))

/-! ### Moves (R229, R457) -/

/-- Where an element of a move comes from: zero bits, its own old value, an element of a register, a scalar for every
element (whose block gets scale 0), or a scalar for one element (whose block keeps its scale). -/
inductive Move where
  | zero | keep | from (r : VRegNo) (k : Nat) | splat (c : Nat) | poke (c : Nat)
  deriving DecidableEq, Repr

def Strand.moved (st : Strand) (d : VRegNo) (t : ETy) (i : Nat) : Move → Nat
  | .zero => 0
  | .keep => st.code t d i
  | .from r k => st.code t r k
  | .splat c | .poke c => c % 2 ^ sbits t

/-- The scale byte of destination block `j`, from where its first element came (R457). -/
def Strand.movedScale (st : Strand) (d : VRegNo) (t : ETy) (j : Nat) : Move → Nat
  | .zero | .splat _ => 0
  | .keep | .poke _ => st.scale t d j
  | .from r k => st.scale t r (k / st.blk)

/-- A move of elements: `f` gives where each comes from. -/
def State.moves (s : State) (d : VRegNo) (t : ETy) (g : Nat) (f : Nat → Move) : Run State :=
  let st := s.me
  if st.vl = 0 then s.completeV []
  else
    let hi := st.upto g st.vl
    let src (i : Nat) : Move := if i < st.esr then .keep else f i
    let codes := (List.range hi).map (fun i => st.moved d t i (src i))
    let scales := if isBlock t then
        (List.range (ceilDiv hi st.blk)).map (fun j => st.movedScale d t j (src (j * st.blk)))
      else []
    let done := s.setMe (st.putV d t codes scales)
    if hi = st.vl then done.completeV [] else .ok (done.interrupt [] hi none)

/-- An inactive element of a masked move (R220). -/
def rest (keep : Bool) : Move := if keep then .keep else .zero

/-- VSEL. -/
def execVsel (d a b : VRegNo) (ty : ETy) (mask : MRegNo) (s : State) : Res :=
  finish (.vsel d a b ty mask) do
    s.vchk [d, a, b] [ty] []
    let st := s.me
    s.moves d ty (groupLen (sbits ty)) (fun i => .from (if st.mbit mask i then a else b) i)

/-- VMV; without a type it takes VTYPE's. -/
def State.vmv (s : State) (d a : VRegNo) (t : ETy) (mask : MRegNo) (keep : Bool) : Run State := do
  s.vchk [d, a] [t] []
  let st := s.me
  s.moves d t (groupLen (sbits t)) (fun i => if st.active? mask i then .from a i else rest keep)

def execVmv (d a : VRegNo) (ty : Option ETy) (mask : MRegNo) (keep : Bool) (s : State) : Res :=
  finish (.vmv d a ty mask keep) (s.vmv d a (ty.getD s.me.vty) mask keep)

/-- VSPLAT of a scalar's low bits. -/
def State.vsplat (s : State) (d : VRegNo) (c : Nat) (t : ETy) : Run State := do
  s.vchk [d] [t] []
  s.moves d t (groupLen (sbits t)) (fun _ => .splat c)

def execVsplat (d : VRegNo) (a : Fin 32) (fromF : Bool) (ty : ETy) (s : State) : Res :=
  finish (.vsplat d a fromF ty) (s.vsplat d (if fromF then s.me.getF a else s.me.getX a).toNat ty)

/-- VSLIDE; in place it is never interrupted (R232). -/
def execVslide (d a : VRegNo) (b : XReg) (ty : ETy) (mask : MRegNo) (keep : Bool) (s : State) : Res :=
  finish (.vslide d a b ty mask keep) do
    s.vchk [d, a] [ty] []
    let st := s.me
    s.moves d ty (st.grp (sbits ty) (d = a)) (fun i =>
      if st.active? mask i then
        let k : Int := i + st.sx b
        if 0 ≤ k ∧ k < st.vl then .from a k.toNat else .zero
      else rest keep)

/-- The width of an element (R120): the 6-bit types leave two bits of their byte unused. -/
def widthOf : ETy → Nat
  | .e3m2 | .e2m3 => 6
  | t => sbits t

/-- VPERM; in place it is never interrupted (R232). -/
def execVperm (d a b : VRegNo) (ty : ETy) (mask : MRegNo) (keep : Bool) (s : State) : Res :=
  finish (.vperm d a b ty mask keep) do
    s.vchk [d, a, b] [ty] []
    let st := s.me
    s.moves d ty (st.grp (sbits ty) (d = a || d = b)) (fun i =>
      if st.active? mask i then
        let k := st.code ty b i % 2 ^ widthOf ty
        if k < st.vl then .from a k else .zero
      else rest keep)

/-- VCOMP: the active elements to the front; RESUME carries how many have been written (R232). -/
def execVcomp (d a : VRegNo) (ty : ETy) (mask : MRegNo) (s : State) : Res :=
  finish (.vcomp d a ty mask) do
    s.vchk [d, a] [ty] []
    let st := s.me
    if st.vl = 0 then s.completeV []
    else
      let hi := st.upto (st.grp (sbits ty) (d = a)) st.vl
      let n := if st.esr = 0 then 0 else (st.resume.getD 0#128).toNat
      let cs := (List.range n).map (st.code ty d)
        ++ ((List.range' st.esr (hi - st.esr)).filter (st.active? mask)).map (st.code ty a)
      if hi = st.vl then
        (s.setMe (st.setV d ((st.getV d).full ty st.blk (cs ++ List.replicate (st.vl - cs.length) 0) []))).completeV []
      else .ok ((s.setMe (st.setV d ((st.getV d).part ty cs))).interrupt [] hi (some (BitVec.ofNat 128 cs.length)))

/-- A code in a register: integer types by signedness (R229); a code of t2, fr16, b8 or b4 with zeros above it (log entry
120). -/
def codeWord (t : ETy) (c : Nat) : Word :=
  if isSigned t then BitVec.ofInt 64 (signedOf (sbits t) c) else BitVec.ofNat 64 c

/-- VMVX (R229); like every instruction of major 0x0A that R232 does not except, it can be interrupted (R40). -/
def execVmvx (toV : Bool) (useF : Bool) (d a : Fin 32) (b : XReg) (ty : ETy) (s : State) : Res :=
  finish (.vmvx toV useF d a b ty) do
    let st := s.me
    let k := (st.getX b).toNat
    if toV then
      s.vchk [d] [ty] []
      let c := (if useF then st.getF a else st.getX a).toNat
      s.moves d ty (groupLen (sbits ty)) (fun i => if i = k then .poke c else .keep)
    else
      s.vchk [a] [ty] []
      let v := if k < st.vl then codeWord ty (st.code ty a k) else 0#64
      let hi := st.upto (groupLen (sbits ty)) st.vl
      if hi < st.vl then .ok (s.interrupt [] hi none)
      else (s.setMe (if useF then st.setF d v else st.setX d v)).completeV []

/-! ### The canonical tree (R135) -/

/-- A leaf or node of the tree: its code and the lowest present element under it, or absent. -/
abbrev Leaf := Option (Nat × Nat)

/-- Join two nodes; an addition's events are raised at the lowest element under it. -/
def joinLeaf (op : Nat → Nat → Nat × Ev) (l r : Leaf) : Leaf × Evs :=
  match l, r with
  | some (x, i), some (y, _) => let c := op x y; (some (c.1, i), evAt i c.2)
  | some p, none => (some p, [])
  | none, r => (r, [])

/-- One level: neighbours in pairs. -/
def treeLevel (op : Nat → Nat → Nat × Ev) : List Leaf → List Leaf × Evs
  | l :: r :: ls =>
    let j := joinLeaf op l r
    let k := treeLevel op ls
    (j.1 :: k.1, j.2 ++ k.2)
  | ls => (ls, [])

/-- The half-tree over eight leaves. -/
def tree8 (op : Nat → Nat → Nat × Ev) (ls : List Leaf) : Leaf × Evs :=
  let a := treeLevel op ls
  let b := treeLevel op a.1
  let c := treeLevel op b.1
  ((c.1.headD none), a.2 ++ b.2 ++ c.2)

/-- canon_tree16, with the half-tree of leaves 0 to 7 where it has been carried over (R135). -/
def tree16 (op : Nat → Nat → Nat × Ev) (half : Option Leaf) (ls : List Leaf) : Leaf × Evs :=
  let l := match half with
    | some h => (h, [])
    | none => tree8 op (ls.take 8)
  let r := tree8 op (ls.drop 8)
  let j := joinLeaf op l.1 r.1
  (j.1, l.2 ++ r.2 ++ j.2)

/-- Add a group's result to the running value; an absent group contributes nothing. -/
def addGroup (op : Nat → Nat → Nat × Ev) (acc : Nat) (g : Leaf) : Nat × Evs :=
  match g with
  | some (v, i) => let c := op acc v; (c.1, evAt i c.2)
  | none => (acc, [])

/-- The accumulation type of VREDS (R230). -/
def redTy (t : ETy) : ETy := if isF t then t else if isSigned t then .i64 else .n64

/-- A rounded addition in the accumulation type (R135). -/
def addIn (t : ETy) (rm : Rnd) (sat : Bool) (a b : Nat) : Nat × Ev := elemAdd t rm sat 0 a b

/-- The leaf of element `k`, converted to the accumulation type. -/
def Strand.leaf (st : Strand) (t : ETy) (a : VRegNo) (m : MRegNo) (k : Nat) : Leaf :=
  if st.active? m k then
    some (if isF t then st.code t a k else intCode 64 (intVal t (st.code t a k)), k)
  else none

def Strand.leaves (st : Strand) (t : ETy) (a : VRegNo) (m : MRegNo) (g : Nat) : List Leaf :=
  (List.range 16).map (fun j => st.leaf t a m (16 * g + j))

/-- The half-tree that RESUME carries when ESR lies inside a group. -/
def Strand.carriedHalf (st : Strand) (m : MRegNo) : Option Leaf :=
  if st.esr % 16 = 8 then
    let g := st.esr / 16
    some (((List.range 8).find? (fun j => st.active? m (16 * g + j))).map
      (fun j => (bitsOf (st.resume.getD 0#128).toNat 127 64, 16 * g + j)))
  else none

/-- The running value: the initial operand, or RESUME's low 8 bytes. -/
def Strand.running (st : Strand) (init : Nat) : Nat :=
  if st.esr = 0 then init else bitsOf (st.resume.getD 0#128).toNat 63 0

/-- RESUME at an interruption at element `hi`: the running value and, inside a group, the half-tree (R135). -/
def carryOf (op : Nat → Nat → Nat × Ev) (acc hi : Nat) (ls : List Leaf) : BitVec 128 × Evs :=
  if hi % 16 = 8 then
    let h := tree8 op (ls.take 8)
    (BitVec.ofNat 128 (acc + (match h.1 with | some (v, _) => v | none => 0) * 2 ^ 64), h.2)
  else (BitVec.ofNat 128 acc, [])

/-- Read an initial operand of VREDS, VREDM or VSCAN; write the result. -/
def Strand.redIn (st : Strand) (t : ETy) (c : Fin 32) : Nat :=
  if isF t then (st.getF c).toNat % 2 ^ sbits t else (st.getX c).toNat

def Strand.redOut (st : Strand) (t : ETy) (d : Fin 32) (v : Nat) : Strand :=
  if isF t then st.setF d (BitVec.ofNat 64 v) else st.setX d (BitVec.ofNat 64 v)

/-- canon_vreds from ESR on (R135). `own lo hi` are events that elements `lo` to `hi − 1` raise by themselves. -/
def State.reduce (s : State) (d : Fin 32) (a : VRegNo) (c : Fin 32) (t : ETy) (m : MRegNo)
    (op : Nat → Nat → Nat × Ev) (own : Nat → Nat → Evs) : Run State :=
  let st := s.me
  let hi := st.upto (groupLen (sbits t)) st.vl
  let g0 := st.esr / 16
  let gEnd := if hi = st.vl then ceilDiv hi 16 else hi / 16
  let r := (List.range' g0 (gEnd - g0)).foldl (fun (acc : Nat × Evs) g =>
    let tr := tree16 op (if g = g0 then st.carriedHalf m else none) (st.leaves t a m g)
    let ad := addGroup op acc.1 tr.1
    (ad.1, acc.2 ++ tr.2 ++ ad.2)) (st.running (st.redIn t c), own st.esr hi)
  if hi = st.vl then (s.setMe (st.redOut t d r.1)).completeV r.2
  else
    let k := carryOf op r.1 hi (st.leaves t a m (hi / 16))
    .ok (s.interrupt (r.2 ++ k.2) hi (some k.1))

/-- VREDS (R230). -/
def execVreds (d : Fin 32) (a : VRegNo) (c : Fin 32) (ty : ETy) (rnd : Rnd) (sat : Bool) (mask : MRegNo) (s : State) :
    Res :=
  finish (.vreds d a c ty rnd sat mask) do
    s.vchk [a] [ty] (s.me.dynChk rnd)
    s.reduce d a c ty mask (addIn (redTy ty) (s.me.rnd rnd) sat) (fun _ _ => [])

/-- The smaller or larger of two values, without its event. -/
def minVal (isMax : Bool) (t : ETy) (a b : Nat) : Nat × Ev := ((elemMin isMax t a b).1, 0#7)

/-- The events of VREDM: V at every active element from `lo` to `hi − 1` that is a signalling NaN, and, where the value
they are joined to is one, at the first of them (R130, R133; log entry 22). -/
def Strand.nanEvs (st : Strand) (t : ETy) (a : VRegNo) (m : MRegNo) (init lo hi : Nat) : Evs :=
  let act := (List.range' lo (hi - lo)).filter (st.active? m)
  let sig (x : Nat) : Bool := isF t && isSnan (decodeVal t x)
  (act.take 1).flatMap (fun i => evAt i (evIf (sig init) evV)) ++
    act.flatMap (fun i => evAt i (evIf (sig (st.code t a i)) evV))

/-- VREDM (R230). -/
def execVredm (d : Fin 32) (a : VRegNo) (c : Fin 32) (ty : ETy) (isMax : Bool) (mask : MRegNo) (s : State) : Res :=
  finish (.vredm d a c ty isMax mask) do
    s.vchk [a] [ty] []
    s.reduce d a c ty mask (minVal isMax (redTy ty)) (s.me.nanEvs ty a mask (s.me.running (s.me.redIn ty c)))

/-- One group of VSCAN: the results of its elements from `lo` to `hi − 1`, the new running value, the events; an element
that keeps its value is not computed (`skip`). Without keep an inactive element is computed, and its rounding raises its
events, as R231 has it (log entry 146). The group's own addition takes place when all its elements are done
(`fin`). -/
def scanGroup (op : Nat → Nat → Nat × Ev) (out : Nat → Nat × Ev) (skip : Nat → Bool) (fin : Bool) (g lo hi : Nat) (half : Option Leaf) (ls : List Leaf)
    (acc : Nat) : List (Nat × Nat) × Nat × Evs :=
  let first := max lo (16 * g)
  let rs := (List.range' first (min hi (16 * g + 16) - first)).map (fun i =>
    let tr := tree16 op half (ls.zipIdx.map (fun p => if 16 * g + p.2 ≤ i then p.1 else none))
    let y := match tr.1 with
      | some (v, _) => let c := op acc v; (c.1, evAt i c.2)
      | none => (acc, [])
    let c := out y.1
    ((i, c.1), if skip i then [] else tr.2 ++ y.2 ++ evAt i c.2))
  let tr := tree16 op half ls
  let ad := addGroup op acc tr.1
  (rs.map (·.1), if fin then ad.1 else acc, rs.flatMap (·.2) ++ if fin then tr.2 ++ ad.2 else [])

/-- VSCAN (R231). -/
def execVscan (d a : VRegNo) (c : Fin 32) (m : VMod) (s : State) : Res :=
  finish (.vscan d a c m) do
    s.vchk [d, a] [m.ty] (s.me.dynChk m.rnd)
    let st := s.me
    if st.vl = 0 then s.completeV []
    else
      let t := m.ty
      let rm := st.rnd m.rnd
      let op := addIn (redTy t) rm m.sat
      let out (y : Nat) : Nat × Ev :=
        if isF t then deliver t (converted (decodeVal t y, 0#7)) rm m.sat 0 else deliverInt t (intVal (redTy t) y) m.sat
      let hi := st.upto (groupLen (sbits t)) st.vl
      let g0 := st.esr / 16
      let gs := List.range' g0 (ceilDiv hi 16 - g0)
      let r := gs.foldl (fun (acc : List (Nat × Nat) × Nat × Evs) g =>
        let x := scanGroup op out (fun i => m.keep && !st.active? m.mask i) (hi = st.vl || 16 * g + 16 ≤ hi) g st.esr hi
          (if g = g0 then st.carriedHalf m.mask else none) (st.leaves t a m.mask g) acc.2.1
        (acc.1 ++ x.1, x.2.1, acc.2.2 ++ x.2.2)) ([], st.running (st.redIn t c), [])
      let codes := (List.range st.esr).map (st.code t d)
        ++ r.1.map (fun p => if m.keep && !st.active? m.mask p.1 then st.code t d p.1 else p.2)
      let done := s.setMe (st.putV d t codes [])
      if hi = st.vl then done.completeV r.2.2
      else
        let k := carryOf op r.2.1 hi (st.leaves t a m.mask (hi / 16))
        .ok (done.interrupt (r.2.2 ++ k.2) hi (some k.1))

end Sys2Proof.Machine
end

