-- ==== Sys2Proof/Machine/VecMem.lean ====
section
/-! DEFINITION. Vector memory, major 0x0B (R233 to R238, R413, R416, R458): the element groups shared with the vector
atomics, loads and stores, and the run-ahead strip queue. -/

namespace Sys2Proof.Machine

/-! ### Element groups (R413) -/

/-- One element's access: its index as ESR counts it, its address and its bytes. -/
structure Acc where
  k : Nat
  e : Int
  n : Nat
  deriving DecidableEq, Repr

/-- The admission of an element's access: checked and translated and, for a read, correctable. -/
def admitted (b : BRegNo) (use : Nat) (rd : Bool) (u : Acc) (s : State) : Except Flt (List Byt × State) :=
  match access s s.who (s.me.getB b) b.val use u.e u.n u.k with
  | .error f => .error f
  | .ok (bs, t) =>
    match (if rd then readByts t s.who b.val use u.k bs else .ok []) with
    | .error f => .error f
    | .ok _ => .ok (bs, t)

/-- Admit the accesses of a group in index order. The first failure ends the list. -/
def admitAccs (adm : Acc → State → Except Flt (List Byt × State)) :
    List Acc → State → List (Acc × List Byt) → List (Acc × List Byt) × State × Option (Nat × Flt)
  | [], s, ok => (ok.reverse, s, none)
  | u :: us, s, ok =>
    match adm u s with
    | .error f => (ok.reverse, s, some (u.k, f))
    | .ok (bs, t) => admitAccs adm us t ((u, bs) :: ok)

/-- Does an access lie on a device-class page, whether or not it is admitted. -/
def devAt (b : Bound) (s : State) (u : Acc) : Bool :=
  (b.addrs u.e u.n).any (fun a =>
    match (s.ctx? s.me.ctx).map (fun c => pageOf s c a) with
    | some (.ok (p, _)) => decide (a < 2 ^ 56) && p.dev
    | _ => false)

/-- Perform groups in order until one fails: the results by index, newest first, and where ESR is left. On idempotent
pages nothing of the failing group is performed; where `dev` says that the whole group of the failing element, with what
an earlier turn has done of it, holds an element on a device page, every element before the failing one is (R413).
`first` is the first element of a group. -/
def runGroups {α : Type} (adm : Acc → State → Except Flt (List Byt × State)) (first : Nat → Nat)
    (dev : Nat → State → Bool) (perform : Acc → List Byt → State → State × α) :
    List (List Acc) → State → List (Nat × α) → State × List (Nat × α) × Option (Nat × Flt)
  | [], s, r => (s, r, none)
  | us :: gs, s, r =>
    let a := admitAccs adm us s []
    let go (l : List (Acc × List Byt)) (s : State) : State × List (Nat × α) :=
      l.foldl (fun p x => let q := perform x.1 x.2 p.1; (q.1, (x.1.k, q.2) :: p.2)) (s, r)
    match a.2.2 with
    | none => let p := go a.1 a.2.1; runGroups adm first dev perform gs p.1 p.2
    | some (k, f) =>
      if dev k s then
        let p := go a.1 a.2.1
        (p.1, p.2, some (k, f))
      else (a.2.1, r, some (first k, f))

/-- Does an access of these groups conflict with a transfer of the strand (R112). -/
def State.accConflict (s : State) (b : BRegNo) (use : Nat) (write : Bool) (us : List Acc) : Bool :=
  !(s.core s.me.core).entries.isEmpty &&
    us.any (fun u =>
      match access s s.who (s.me.getB b) b.val use u.e u.n u.k with
      | .ok (bs, _) => s.conflicts bs write
      | .error _ => false)

/-- Accesses by groups of `g`, in order. -/
def groupsOf (g : Nat) (lo hi : Nat) (f : Nat → Option Acc) : List (List Acc) :=
  ((List.range' (lo / g) (ceilDiv hi g - lo / g)).map (fun j =>
    ((List.range' (max lo (j * g)) (min hi (j * g + g) - max lo (j * g))).filterMap f)))

/-! ### Loads and stores (R233, R458) -/

/-- Where a vector load or store stops, ESR's value: all its codes and then, for a block type, its scale bytes. -/
def Strand.memHi (st : Strand) (g total : Nat) : Nat :=
  match st.stopAt with
  | some k =>
    let q := min (k / g * g) st.vl
    if st.esr < q ∧ q < total then q else total
  | none => total

/-- The groups of a form: `ad` is the address of a code's first byte, `e1` that of the scale bytes. -/
def Strand.memGroups (st : Strand) (t : ETy) (g hi : Nat) (ad : Nat → Int) (e1 : Int) : List (List Acc) :=
  let codes := groupsOf g st.esr (min hi st.vl) (fun i => some ⟨i, ad i, max 1 (sbytes t)⟩)
  let scales := if st.vl < hi then
      [(List.range' (max st.esr st.vl) (hi - max st.esr st.vl)).map (fun k => ⟨k, e1 + (k - st.vl : Nat), 1⟩)]
    else []
  codes ++ scales

/-- The first element of the group of an index. -/
def Strand.memFirst (st : Strand) (g k : Nat) : Nat := if st.vl ≤ k then st.vl else k / g * g

/-- The accesses of the whole group of an index. -/
def Strand.memGroup (st : Strand) (t : ETy) (g : Nat) (ad : Nat → Int) (e1 : Int) (total k : Nat) : List Acc :=
  if st.vl ≤ k then (List.range' st.vl (total - st.vl)).map (fun k => ⟨k, e1 + (k - st.vl : Nat), 1⟩)
  else (List.range' (k / g * g) (min st.vl (k / g * g + g) - k / g * g)).map (fun i => ⟨i, ad i, max 1 (sbytes t)⟩)

/-- The total count of a form: codes and scale bytes. -/
def Strand.memTotal (st : Strand) (t : ETy) : Nat := st.vl + (if isBlock t then st.vl / st.blk else 0)

/-- A load's destination with its results so far; `hi` elements are done. -/
def Strand.loaded (st : Strand) (d : VRegNo) (t : ETy) (hi : Nat) (rs : List (Nat × Nat)) : Strand :=
  let val (k : Nat) : Nat :=
    match rs.find? (fun r => r.1 == k) with
    | some r => r.2
    | none => if st.vl ≤ k then st.scale t d (k - st.vl) else st.code t d k
  let codes := (List.range (min hi st.vl)).map val
  let scales := (List.range' st.vl (hi - st.vl)).map val
  if hi = st.memTotal t then st.setV d ((st.getV d).full t st.blk codes scales)
  else st.setV d ((st.getV d).partB t st.vl codes scales)

/-- The ordering code of a vector load or store: of all its elements, also of those an earlier turn has performed (R104,
R109). -/
def State.orderMem (s : State) (m : WM) (use : Nat) (ad : Nat → Int) (e1 : Int) : Run MOrd :=
  let st := s.me
  let us := ({ st with esr := 0 }).memGroups m.ty 1 (st.memTotal m.ty) ad e1
  s.order m.bnd use (us.flatten.map (fun u => (u.e, u.n))) m.ord

/-- A vector load: `g` is the group length, `e0` the address element 0 packs from. -/
def State.vload (s : State) (m : WM) (g : Nat) (ad : Nat → Int) (e1 : Int) : Run State := do
  let o ← s.orderMem m useLD ad e1
  let st := s.me
  let t := m.ty
  if st.vl = 0 then (s.acquire o).completeV []
  else
    let hi := st.memHi g (st.memTotal t)
    let gs := st.memGroups t g hi ad e1
    if s.accConflict m.bnd useLD false gs.flatten then .error (.hold s)
    else
      let dev (k : Nat) (s : State) : Bool := (st.memGroup t g ad e1 (st.memTotal t) k).any (devAt (st.getB m.bnd) s)
      let r := runGroups (admitted m.bnd useLD true) (st.memFirst g) dev
        (fun u bs s =>
          let v := ofLE (bs.map (fun b => Memory.get s.mem b.loc))
          (s, if st.vl ≤ u.k then v else (v >>> (u.k * sbits t % 8)) % 2 ^ sbits t)) gs s []
      let u := r.1
      match r.2.2 with
      | some (k, f) =>
        let w := u.setMe { st.loaded m.data t k r.2.1 with esr := k, stopAt := none }
        .error (.flt f w.me.pc w)
      | none =>
        let w := u.setMe (st.loaded m.data t hi r.2.1)
        if hi = st.memTotal t then (w.acquire o).completeV [] else .ok (w.interrupt [] hi none)

/-- Store one element: a byte that holds narrower elements keeps the others (R101). -/
def storeUnit (t : ETy) (n : Nat) (code : Nat → Nat) (u : Acc) (bs : List Byt) (s : State) : State × Nat :=
  let c := code u.k
  let v := if sbits t < 8 ∧ u.k < n then
      let old := ofLE (bs.map (fun b => Memory.get s.mem b.loc))
      let sh := u.k * sbits t % 8
      old - (elem (sbits t) (old >>> sh) 0) <<< sh + c <<< sh
    else c
  let w := s.pokeByts bs (toLE u.n v)
  (w.setMe (w.me.staleBytes bs), 0)

/-- A vector store. -/
def State.vstore (s : State) (m : WM) (g : Nat) (ad : Nat → Int) (e1 : Int) : Run State := do
  let o ← s.orderMem m useST ad e1
  let st := s.me
  let t := m.ty
  if st.vl = 0 then (s.acquire o).completeV []
  else
    let hi := st.memHi g (st.memTotal t)
    let gs := st.memGroups t g hi ad e1
    if s.accConflict m.bnd useST true gs.flatten then .error (.hold s)
    else
      let code (k : Nat) : Nat := if st.vl ≤ k then st.scale t m.data (k - st.vl) else st.code t m.data k
      let dev (k : Nat) (s : State) : Bool := (st.memGroup t g ad e1 (st.memTotal t) k).any (devAt (st.getB m.bnd) s)
      let r := runGroups (admitted m.bnd useST false) (st.memFirst g) dev (storeUnit t st.vl code) gs s []
      let u := r.1
      match r.2.2 with
      | some (k, f) =>
        let w := u.setMe { u.me with esr := k, stopAt := none }
        .error (.flt f w.me.pc w)
      | none =>
        if hi = st.memTotal t then (u.acquire o).completeV [] else .ok (u.interrupt [] hi none)

/-- E0 and P of R233. -/
def Strand.e0 (st : Strand) (m : WM) : Int := st.eb m.bnd m.off.toInt
def Strand.elemPitch (st : Strand) (m : WM) : Int := st.sx m.idx * 2 ^ m.scale.toNat

/-- Element addresses of the contiguous, strided, indexed and tile forms (R233). -/
def Strand.adUnit (st : Strand) (m : WM) (i : Nat) : Int := st.e0 m + st.elemPitch m + (i * sbits m.ty / 8 : Nat)
def Strand.adScale (st : Strand) (m : WM) : Int := st.adUnit m st.vl
def Strand.adStride (st : Strand) (m : WM) (i : Nat) : Int := st.e0 m + i * st.elemPitch m
def Strand.adIndex (st : Strand) (m : WM) (i : Nat) : Int :=
  st.e0 m + intVal .i32 (st.code .i32 m.idx i) * 2 ^ m.scale.toNat
def Strand.adTile (st : Strand) (m : WM) (i : Nat) : Int :=
  let c := 64 / sbytes m.ty
  st.e0 m + (i / c : Nat) * st.elemPitch m + (i % c * sbytes m.ty : Nat)

/-- VLD. -/
def execVld (m : WM) (s : State) : Res :=
  finish (.vld m) do
    s.vchk [m.data] [m.ty] []
    s.vload m (groupLen (sbits m.ty)) (s.me.adUnit m) (s.me.adScale m)

/-- VST. -/
def execVst (m : WM) (s : State) : Res :=
  finish (.vst m) do
    s.vchk [m.data] [m.ty] []
    s.vstore m (groupLen (sbits m.ty)) (s.me.adUnit m) (s.me.adScale m)

/-- VLDS. -/
def execVlds (m : WM) (s : State) : Res :=
  finish (.vlds m) do
    s.vchk [m.data] [m.ty] []
    s.vload m (groupLen (sbits m.ty)) (s.me.adStride m) 0

/-- VSTS. -/
def execVsts (m : WM) (s : State) : Res :=
  finish (.vsts m) do
    s.vchk [m.data] [m.ty] []
    s.vstore m (groupLen (sbits m.ty)) (s.me.adStride m) 0

/-- VLDX: indices are i32, the widest type may be theirs (R41). In place on its index register and stopped, it goes on
with the indices that stand there then (log entry 27). -/
def execVldx (m : WM) (s : State) : Res :=
  finish (.vldx m) do
    s.vchk [m.data, m.idx] [m.ty, .i32] []
    s.vload m (groupLen (max 32 (sbits m.ty))) (s.me.adIndex m) 0

/-- VSTX. -/
def execVstx (m : WM) (s : State) : Res :=
  finish (.vstx m) do
    s.vchk [m.data, m.idx] [m.ty, .i32] []
    s.vstore m (groupLen (max 32 (sbits m.ty))) (s.me.adIndex m) 0

/-- VLDT. -/
def execVldt (m : WM) (s : State) : Res :=
  finish (.vldt m) do
    s.vchk [m.data] [m.ty] []
    s.vload m (groupLen (sbits m.ty)) (s.me.adTile m) 0

/-- VSTT. -/
def execVstt (m : WM) (s : State) : Res :=
  finish (.vstt m) do
    s.vchk [m.data] [m.ty] []
    s.vstore m (groupLen (sbits m.ty)) (s.me.adTile m) 0

/-! ### The run-ahead strip queue (R236 to R238, R416) -/

/-- The first device-page byte of a range, checked through the page of every 2 KiB of it; the error is class 0x41. -/
def streamPages (s : State) (b : Bound) (bno : BRegNo) : List (Int × Nat) → Except Flt (Option Nat × State)
  | [] => .ok (none, s)
  | (e, n) :: rest =>
    match access s s.who b bno.val useLD e 1 0 with
    | .error f => .error f
    | .ok (_, t) =>
      match access t s.who b bno.val useLD (e + n - 1) 1 0 with
      | .error f => .error f
      | .ok (_, u) =>
        let first := ((List.range n).find? (fun i =>
          match access u s.who b bno.val useLD (e + (i : Nat)) 1 0 with
          | .ok (bs, _) => bs.any (·.dev)
          | .error _ => false)).map (fun i => b.addrOf (e + (i : Nat)))
        match first with
        | some a => .ok (some a, u)
        | none => streamPages u b bno rest

/-- The 2 KiB pieces of a range. -/
def pieces2k (e : Int) (n : Nat) : List (Int × Nat) :=
  (List.range (ceilDiv n 2048)).map (fun i => (e + (2048 * i : Nat), min 2048 (n - 2048 * i)))

/-- Group `j` of a stream at its start. -/
def groupAt (start : Int) (sl n sw j : Nat) : Group :=
  ⟨start + (j * sl * sw : Nat), min sl (n - j * sl), j * sl < n, false, false, []⟩

/-- SLQ (R236, R416). -/
def execSlq (m : WM) (s : State) : Res :=
  finish (.slq m) do
    let st := s.me
    s.check (st.lenChk m.ty ++ [(st.vl == 0, st.flt 0x82 3 st.vl 0), (st.bufGroups == 0, st.flt 0x84 21 0 0)])
    s.guard st.inMatrix 0x09 6 8 0
    let n := (st.getX m.data).toNat
    let sw := sbytes m.ty
    let e := st.eaM m
    let o ← s.order m.bnd useLD ((pieces2k e (n * sw)).map (fun p => (p.1, 1))) m.ord
    let b := st.getB m.bnd
    match admission s.who b m.bnd.val useLD [(e, n * sw)] with
    | some f => s.fail f
    | none =>
      let (dev, t) ← s.orFail (streamPages s b m.bnd (pieces2k e (n * sw)))
      match dev with
      | some a => s.fail ⟨0x43, 0, BitVec.ofNat 64 a, accessWord 0 m.bnd.val useLD 0, st.pc⟩
      | none =>
        let u := t.acquire o
        let hw := ceilDiv (st.vl * sw) 64
        let v := vecOf 32 (fun i =>
          let r := st.v.toList.getD i VReg.zero
          if st.bufFirst ≤ i ∧ i < st.bufFirst + st.bufGroups then
            ⟨BitVec.ofNat 65536 (r.nat % 2 ^ (512 * hw)), hw⟩ else r)
        let q : Stream := ⟨e, n, st.vl * sw, st.vl, m.ty, b, m.bnd, 0,
          (List.range st.bufGroups).map (groupAt e st.vl n sw)⟩
        .ok (u.setMe ({ u.me with v := v, stream := if n = 0 then none else some q }.retire 1))

/-- The bytes of a strip, or the failure of its load with the first failing byte (R416): one that has no translation, or,
before it, one that cannot be corrected. -/
def State.stripBytes (s : State) (q : Stream) (g : Group) : Except Flt (List Byt × List Byte × State) :=
  let as := q.bound.addrs g.src (g.len * sbytes q.ty)
  let half : Bool := q.bound.view ≠ 0
  let fail (c d a l : Nat) : Flt :=
    ⟨c, d, BitVec.ofNat 64 a, accessWord ((as.findIdx (· == a)) / sbytes q.ty) q.bno.val useLD l, s.me.pc⟩
  let bad (t : State) (bs : List Byt) : Option Flt :=
    ((if t.bad.isEmpty then none else bs.find? (fun b => t.bad.contains b.loc))).map (fun b => fail 0x42 (badDetail b) b.addr 0)
  match resolve s.who .read half as s none [] with
  | .error (d, l, a) =>
    match resolve s.who .read half (as.takeWhile (· != a)) s none [] with
    | .ok (bs, t) => .error ((bad t bs).getD (fail 0x41 d a l))
    | .error _ => .error (fail 0x41 d a l)
  | .ok (bs, t) =>
    match bad t bs with
    | some f => .error f
    | none => .ok (bs, bs.map (fun b => Memory.get t.mem b.loc), t)

/-- A strip in its buffer register. -/
def Strand.fillBuf (st : Strand) (q : Stream) (j : Nat) (bs : List Byte) : Strand :=
  let r : VRegNo := Fin.ofNat 32 (st.bufFirst + j)
  let old := st.getV r
  st.setV r ⟨BitVec.ofNat 65536 (ofLE bs), max old.hw (ceilDiv (q.slen * sbytes q.ty) 64)⟩

/-- A strip load completes into its buffer, or a stale buffer is reloaded (R236, R237): the first that is due. A failure
waits for the SLQTAKE (R416). -/
def execSlqStripLoad (sid : Nat) (s : State) : Res :=
  match s.select sid with
  | none => .next s
  | some t =>
    match t.me.stream with
    | none => .next s
    | some q =>
      let n := q.groups.length
      let order := (List.range n).map (fun i => (q.nextBuf + i) % n)
      match order.find? (fun j => match q.groups[j]? with
          | some g => g.assigned && (!g.loaded || g.stale)
          | none => false) with
      | none => .next s
      | some j =>
        match q.groups[j]? with
        | none => .next s
        | some g =>
          match t.stripBytes q g with
          | .error _ => .next s
          | .ok (ls, bs, u) =>
            let g := { g with loaded := true, stale := false, locs := ls.map (·.loc) }
            .next (u.setMe { u.me.fillBuf q j bs with stream := some { q with groups := q.groups.set j g } })

/-- SLQTAKE (R237): with no strip left it returns 0; a buffer that is not loaded or is stale is loaded first.
R237 has the destination be no buffer group; where the word names one, that register takes the strip (log entry 147). -/
def State.slqtake (s : State) (d : VRegNo) (a b : XReg) : Run Strand :=
  match s.me.stream with
  | none => .ok { (s.me.setX a 0#64).setX b 0#64 with vl := 0 }
  | some q =>
    match q.groups[q.nextBuf]? with
    | none => .ok { (s.me.setX a 0#64).setX b 0#64 with vl := 0, stream := none }
    | some g =>
      let k := g.len
      let sw := sbytes q.ty
      let old := (s.me.getV (Fin.ofNat 32 (s.me.bufFirst + q.nextBuf))).nat % 2 ^ (8 * k * sw)
      match (match s.stripBytes q g with
        | .error f => if g.loaded && !g.stale then .ok ([], old) else .error f
        | .ok (bs, vs, _) => .ok (bs, if g.loaded && !g.stale then old else ofLE vs) : Except Flt (List Byt × Nat)) with
      | .error f => s.fail f
      | .ok (bs, img) =>
        if s.conflicts bs false then .error (.hold s)
        else
          let n := q.groups.length
          let left := q.remain - k
          let later := n * q.slen
          let g' : Group := ⟨g.src + (n * q.stride : Nat), min q.slen (q.remain - later), later < q.remain, false, false, []⟩
          let q' : Stream := { q with
            next := q.next + (q.stride : Nat), remain := left, nextBuf := (q.nextBuf + 1) % n,
            groups := q.groups.set q.nextBuf g' }
          let st := { s.me with vl := k, stream := if left = 0 then none else some q' }
          let st := st.setV d ⟨BitVec.ofNat 65536 img, ceilDiv (k * sw) 64⟩
          .ok ((st.setX a (BitVec.ofNat 64 k)).setX b (BitVec.ofNat 64 left))

/-- SLQTAKE. -/
def execSlqtake (d : VRegNo) (a b : XReg) (s : State) : Res :=
  finish (.slqtake d a b) do
    s.vchk [d] [] []
    let st ← s.slqtake d a b
    .ok (s.setMe (st.retire 1))

end Sys2Proof.Machine
end

