-- ==== Sys2Proof/Machine/VecAtomic.lean ====
section
/-! DEFINITION. Vector atomics, the group sleep, and accumulation windows, major 0x0C (R288 to R294, R116, R137). -/

namespace Sys2Proof.Machine

/-- E_i of R288. -/
def Strand.adAtom (st : Strand) (b : BRegNo) (k : VRegNo) (scale : BitVec 3) (i : Nat) : Int :=
  st.eb b (intVal .i32 (st.code .i32 k i) * 2 ^ scale.toNat)

/-- Admission of an atomic's element: natural alignment first, class 0x84 DETAIL 6 (R431, R439). -/
def atomAdm (b : BRegNo) (use : Nat) (u : Acc) (s : State) : Except Flt (List Byt × State) :=
  if misaligned u.e u.n then .error (s.me.flt 0x84 6 (addrNat u.e) u.k) else admitted b use true u s

/-- The results of a run as the destination's codes: inactive elements are zero bits. -/
def Strand.atomCodes (st : Strand) (t : ETy) (d : VRegNo) (hi : Nat) (rs : List (Nat × (Nat × Ev))) : List Nat :=
  (List.range hi).map (fun i =>
    if i < st.esr then st.code t d i
    else match rs.find? (fun r => r.1 == i) with
      | some r => r.2.1
      | none => 0)

/-- Destination of an atomic with elements below `hi` done. -/
def Strand.atomDone (st : Strand) (t : ETy) (d : Option VRegNo) (hi : Nat) (rs : List (Nat × (Nat × Ev))) : Strand :=
  match d with
  | none => st
  | some d => st.putV d t (st.atomCodes t d hi rs) []

/-- Events of a run, by index. -/
def runEvs (rs : List (Nat × (Nat × Ev))) : Evs := rs.flatMap (fun r => evAt r.1 r.2.2)

/-- End of a run of groups: a fault leaves ESR as R413 states, an interruption as R41, completion acquires (R116). -/
def State.endRun (o : MOrd) (t : ETy) (d : Option VRegNo) (n hi : Nat)
    (r : State × List (Nat × (Nat × Ev)) × Option (Nat × Flt)) (done : State → State) : Run State :=
  match r.2.2 with
  | some (k, f) =>
    let w := r.1.setMe (r.1.me.atomDone t d k r.2.1)
    let w := w.interrupt (runEvs r.2.1) k none
    .error (.flt f w.me.pc w)
  | none =>
    let w := r.1.setMe (r.1.me.atomDone t d hi r.2.1)
    if hi = n then ((done w).acquire o).completeV (runEvs r.2.1) else .ok (w.interrupt (runEvs r.2.1) hi none)

/-- One atomic access of an element: the old value, and what is written (R289, R290). -/
def rmwUnit (n : Nat) (f : Nat → Nat → Option Nat × Ev) (u : Acc) (bs : List Byt) (s : State) : State × (Nat × Ev) :=
  let old := ofLE (bs.map (fun b => Memory.get s.mem b.loc))
  match f u.k old with
  | (some v, e) =>
    let t := s.pokeByts bs (toLE n v)
    (t.setMe (t.me.staleBytes bs), old, e)
  | (none, e) => (s, old, e)

/-- The accesses of the active elements of a vector atomic. -/
def Strand.atomAcc (st : Strand) (b : BRegNo) (k : VRegNo) (m : AMod) (i : Nat) : Option Acc :=
  if st.active? m.mask i then some ⟨i, st.adAtom b k m.scale i, sbytes m.ty⟩ else none

/-- VAMO and VCAS: the active elements, in groups. In place on its index register and stopped, it goes on with the indices
that stand there then (log entry 27). -/
def State.vatomic (s : State) (d : VRegNo) (b : BRegNo) (k : VRegNo) (m : AMod)
    (f : Nat → Nat → Option Nat × Ev) : Run State := do
  let st := s.me
  let acc := st.atomAcc b k m
  let o ← s.order b useAT (((List.range st.vl).filterMap acc).map (fun u => (u.e, u.n))) m.ord
  let t := m.ty
  if st.vl = 0 then (s.acquire o).completeV []
  else
    let g := groupLen (max 32 (sbits t))
    let hi := st.upto g st.vl
    let gs := groupsOf g st.esr hi acc
    if s.accConflict b useAT true gs.flatten then .error (.hold s)
    else
      let dev (k : Nat) (s : State) : Bool :=
        ((List.range' (k / g * g) (min st.vl (k / g * g + g) - k / g * g)).filterMap acc).any (devAt (st.getB b) s)
      State.endRun o t (some d) st.vl hi
        (runGroups (atomAdm b useAT) (fun i => i / g * g) dev (rmwUnit (sbytes t) f) gs s []) id

/-- f(M, V) of VAMO (R289). -/
def vamoFn (op : BitVec 3) (t : ETy) (rm : Rnd) (sat : Bool) (m v : Nat) : Nat × Ev :=
  if isF t then elemAdd t rm sat 0 m v
  else match op.toNat with
    | 0 => (v, 0#7)
    | 1 => deliverInt t (intVal t m + intVal t v) sat
    | 2 => (m &&& v, 0#7)
    | 3 => (m ||| v, 0#7)
    | 4 => (m ^^^ v, 0#7)
    | 5 => elemMin false t m v
    | _ => elemMin true t m v

/-- VAMO (R289). -/
def execVamo (d : VRegNo) (b : BRegNo) (k c : VRegNo) (op : BitVec 3) (m : AMod) (s : State) : Res :=
  finish (.vamo d b k c op m) do
    s.vchk [d, k, c] [m.ty, .i32] (s.me.dynChk m.rnd)
    let st := s.me
    s.vatomic d b k m (fun i old =>
      let r := vamoFn op m.ty (st.rnd m.rnd) m.sat old (st.code m.ty c i)
      (some r.1, r.2))

/-- VCAS (R290): d[i] is the expected value, bit for bit. -/
def execVcas (d : VRegNo) (b : BRegNo) (k c : VRegNo) (m : AMod) (s : State) : Res :=
  finish (.vcas d b k c m) do
    s.vchk [d, k, c] [m.ty, .i32] []
    let st := s.me
    s.vatomic d b k m (fun i old =>
      (if old = st.code m.ty d i then some (st.code m.ty c i) else none, 0#7))

/-- GCSLEEP (R291): it blocks while every watched word equals its expected value. -/
def execGcsleep (b : BRegNo) (k c : VRegNo) (ty : ETy) (mask : MRegNo) (scale : BitVec 3) (s : State) : Res :=
  finish (.gcsleep b k c ty mask scale) do
    s.vchk [k, c] [ty, .i32] []
    let st := s.me
    let us := (List.range st.vl).filterMap (fun i =>
      if st.active? mask i then some ⟨i, st.adAtom b k scale i, sbytes ty⟩ else none)
    if s.accConflict b useLD false us then .error (.hold s)
    else
      let a := admitAccs (atomAdm b useLD) us s []
      match a.2.2 with
      | some (_, f) => s.fail f
      | none =>
        let t := a.2.1
        let differs := a.1.any (fun x => ofLE (x.2.map (fun y => Memory.get t.mem y.loc)) ≠ st.code ty c x.1.k)
        if differs || us.isEmpty then .ok (t.retire 1) else .error (.block t)

/-- A sleeping GCSLEEP looks at its words again (R291). -/
def execGcsleepWake (sid : Nat) (s : State) : Res :=
  s.awake sid fun i t =>
    match i with
    | .gcsleep b k c ty mask scale => some (execGcsleep b k c ty mask scale t)
    | _ => none

/-! ### Accumulation windows (R292 to R294) -/

/-- WS of R292. -/
def winStride (n sw : Nat) : Nat := ceil64 (n * sw) + ceil64 (ceilDiv n 8)

/-- Bytes of a set's storage, header and windows. -/
def setBytes (n w sw : Nat) : Nat := 64 + w * winStride n sw

/-- Bytes of local scratch as an access sees them. -/
def scratchByts (core a n : Nat) : List Byt :=
  (List.range n).map (fun i => padByt (a + i) (locOf core a + i))

/-- Write local scratch as plain stores of the strand. -/
def State.scratchPut (s : State) (a : Nat) (vs : List Byte) : State :=
  let bs := scratchByts s.me.core a vs.length
  let t := s.pokeByts bs vs
  t.setMe (t.me.staleBytes bs)

/-- Is a storage address usable (R439 DETAIL 7). -/
def storageOk (a n : Nat) : Bool := apertureOf a == some .scratch && a % 64 == 0 && bitsOf a 17 0 + n ≤ 2 ^ 18

/-- AWIN (R292); the set takes one interlock entry, which conflicts with nothing. -/
def execAwin (d : XReg) (b : BRegNo) (w : BitVec 6) (m : FMod) (s : State) : Res :=
  finish (.awin d b w m) do
    s.check (s.me.dynChk m.rnd)
    let ty := m.ty
    let st := s.me
    let r := st.getB b
    let sw := sbytes ty
    let nw := w.toNat
    let n := (min ((r.base.toNat + r.len.toNat : Int) - r.addr.toNat) 16384) / (sw : Int)
    let a := (st.getX d).toNat
    s.guard (!([1, 2, 4, 8, 16].contains nw)) 0x84 7 nw 0
    s.guard (n < 1) 0x84 7 (addrNat n) 0
    s.guard (!storageOk a (setBytes n.toNat nw sw)) 0x84 7 a 0
    s.guard (r.addr.toNat % sw ≠ 0) 0x84 7 r.addr.toNat 0
    s.guard st.windows.isSome 0x84 7 a 0
    let n := n.toNat
    let size := setBytes n nw sw
    if s.conflicts (scratchByts st.core a size) true || !s.entryRoom 1 then .error (.hold s)
    else
      let hd := toLE 8 r.addr.toNat ++ toLE 4 n ++ toLE 1 nw ++ toLE 1 (etyCode ty) ++ zeros 50
      let t := s.scratchPut a (hd ++ zeros (size - 64))
      let t := t.addEntries [⟨st.id, t.nextOp, true, 1, 0, true, false⟩]
      .ok ({ t with
        nextOp := t.nextOp + 1
        me := { t.me with windows := some ⟨a, r.addr.toNat, n, nw, ty⟩ }.retire 1 })

/-- Where value and presence bit of bin `k` in window `l` lie, from the storage's address. -/
def Windows.valAt (q : Windows) (l k : Nat) : Nat :=
  q.storage + 64 + l * winStride q.n (sbytes q.ty) + k * sbytes q.ty
def Windows.bitAt (q : Windows) (l k : Nat) : Nat :=
  q.storage + 64 + l * winStride q.n (sbytes q.ty) + ceil64 (q.n * sbytes q.ty) + k / 8

/-- The storage bytes that window `l` holds for bin `k`, correctable or class 0x42. -/
def winAdm (q : Windows) (use i : Nat) (ls : List Nat) (k : Nat) (b : BRegNo) (s : State) : Except Flt (List Byt) :=
  let bs := ls.flatMap (fun l =>
    scratchByts s.me.core (q.valAt l k) (sbytes q.ty) ++ scratchByts s.me.core (q.bitAt l k) 1)
  match readByts s s.who b.val use i bs with
  | .error f => .error f
  | .ok _ => .ok bs

/-- A value of a window, or none when its presence bit is clear. -/
def Windows.value (q : Windows) (s : State) (l k : Nat) : Option Nat :=
  let rd (a n : Nat) : Nat := ofLE (s.readP (locOf s.me.core a) n)
  if (rd (q.bitAt l k) 1).testBit (k % 8) then some (rd (q.valAt l k) (sbytes q.ty)) else none

/-- AACC (R293). -/
def execAacc (b : BRegNo) (k c : VRegNo) (m : AMod) (s : State) : Res :=
  finish (.aacc b k c m) do
    s.vchk [k, c] [m.ty, .i32] (s.me.dynChk m.rnd)
    let st := s.me
    match st.windows with
    | none => s.fail (st.flt 0x84 8 0 0)
    | some q =>
      s.guard (q.ty ≠ m.ty) 0x84 8 (etyCode m.ty) 0
      let sw := sbytes m.ty
      let e (i : Nat) : Int := st.adAtom b k m.scale i
      let out (i : Nat) : Bool := e i < q.wbase || (q.wbase + q.n * sw : Nat) ≤ e i
      let act := (List.range' st.esr (st.vl - st.esr)).filter (st.active? m.mask)
      match act.find? out with
      | some i => s.fail (st.flt 0x84 8 (addrNat (e i)) i)
      | none =>
        s.release m.ord
        if st.vl = 0 then (s.acquire m.ord).completeV []
        else if s.conflicts (scratchByts st.core q.storage (setBytes q.n q.w sw)) true then .error (.hold s)
        else
          let g := groupLen (max 32 (sbits m.ty))
          let hi := st.upto g st.vl
          let gs := groupsOf g st.esr hi (fun i => if st.active? m.mask i then some ⟨i, e i, sw⟩ else none)
          let bin (u : Acc) : Nat := ((u.e - q.wbase) / (sw : Int)).toNat
          let adm (u : Acc) (s : State) : Except Flt (List Byt × State) :=
            if misaligned u.e u.n then .error (s.me.flt 0x84 6 (addrNat u.e) u.k)
            else match (s.me.getB b).refuses useAT u.e u.n with
              | some (d, a) => .error ⟨0x40, d, BitVec.ofNat 64 a, accessWord u.k b.val useAT 0, s.me.pc⟩
              | none =>
                match winAdm q useLD u.k [u.k % q.w] (bin u) b s with
                | .error f => .error f
                | .ok bs => .ok (bs, s)
          let perform (u : Acc) (_ : List Byt) (s : State) : State × (Nat × Ev) :=
            let l := u.k % q.w
            let kk := bin u
            let v := st.code m.ty c u.k
            match q.value s l kk with
            | some old =>
              let r := elemAdd m.ty (st.rnd m.rnd) m.sat 0 old v
              (s.scratchPut (q.valAt l kk) (toLE sw r.1), 0, r.2)
            | none =>
              let p := ofLE (s.readP (locOf st.core (q.bitAt l kk)) 1)
              ((s.scratchPut (q.valAt l kk) (toLE sw v)).scratchPut (q.bitAt l kk) (toLE 1 (p ||| 2 ^ (kk % 8))), 0, 0#7)
          State.endRun m.ord m.ty none st.vl hi (runGroups adm (fun i => i / g * g) (fun _ _ => false) perform gs s []) id

/-- The set closes: its storage is zero, its interlock entry retires (R294). -/
def State.closeWindows (q : Windows) (s : State) : State :=
  let t := s.scratchPut q.storage (zeros (setBytes q.n q.w (sbytes q.ty)))
  let c := t.core t.me.core
  let t := t.setCore t.me.core { c with entries := c.entries.filter (fun e => !(e.free && e.sid == t.me.id)) }
  t.setMe { t.me with windows := none }

/-- AMERGE (R294, R137): bins are its elements, merged in lane order. -/
def execAmerge (b : BRegNo) (c : XReg) (ty : ETy) (rnd : Rnd) (sat : Bool) (ord : MOrd) (sc : Scope) (s : State) : Res :=
  finish (.amerge b c ty rnd sat ord sc) do
    s.check (s.me.dynChk rnd)
    let st := s.me
    match st.windows with
    | none => s.fail (st.flt 0x84 8 0 0)
    | some q =>
      s.guard (q.ty ≠ ty) 0x84 8 (etyCode ty) 0
      s.guard ((st.getB b).addr.toNat ≠ q.wbase) 0x84 8 (st.getB b).addr.toNat 0
      s.guard ((st.getX c).toNat ≠ q.storage) 0x84 8 (st.getX c).toNat 0
      let sw := sbytes ty
      let g := groupLen (sbits ty)
      let hi := st.upto g q.n
      let lanes := List.range q.w
      let bin (k : Nat) : Option Acc :=
        if lanes.any (fun l => (q.value s l k).isSome) then some ⟨k, q.wbase + (k * sw : Nat), sw⟩ else none
      let gs := groupsOf g st.esr hi bin
      let o ← s.order b useAT (gs.flatten.map (fun u => (u.e, u.n))) ord
      if s.accConflict b useAT true gs.flatten
        || s.conflicts (scratchByts st.core q.storage (setBytes q.n q.w sw)) true then .error (.hold s)
      else
        let adm (u : Acc) (s : State) : Except Flt (List Byt × State) :=
          match winAdm q useLD u.k lanes u.k b s with
          | .error f => .error f
          | .ok _ => admitted b useAT true u s
        let merge (u : Acc) (bs : List Byt) (s : State) : State × (Nat × Ev) :=
          rmwUnit sw (fun k old =>
            let r := (lanes.filterMap (fun l => q.value s l k)).foldl (fun (acc : Nat × Ev) v =>
              let x := elemAdd ty (st.rnd rnd) sat 0 acc.1 v
              (x.1, acc.2 ||| x.2)) (old, 0#7)
            (some r.1, r.2)) u bs s
        let dev (k : Nat) (s : State) : Bool := (groupsOf g (k / g * g) (min q.n (k / g * g + g)) bin).flatten.any (devAt (st.getB b) s)
        State.endRun o ty none q.n hi (runGroups adm (fun i => i / g * g) dev merge gs s []) (State.closeWindows q)

end Sys2Proof.Machine
end

