-- ==== Sys2Proof/Machine/Kv.lean ====
section
/-! DEFINITION. The attention cache, major 0x17 (R317 to R319). -/

namespace Sys2Proof.Machine

/-- ADDR of bA + 4t. -/
def Strand.counterAt (st : Strand) (a : BRegNo) (t : Int) : Int := st.eb a (4 * t)

/-- The increment of a weight (R318): a clamp raises S. -/
def kvStep (t : ETy) (code : Nat) (rm : Rnd) (d : Draw) : Nat × Ev :=
  let v := decodeEv t code 0
  let p := exactMul v.1 (ofInt 65536)
  let r := roundClamp 32 0 0xFFFFFFFF evS (.val p.1) rm d
  (r.1, v.2 ||| p.2 ||| r.2)

/-- A counter after an increment: it saturates at 0xFFFF_FFFF (R318). -/
def kvAdd (old u : Nat) : Nat × Ev := if 0xFFFFFFFF < old + u then (0xFFFFFFFF, evS) else (old + u, 0#7)

/-- KVACC (R318): every element is admitted before any counter changes, since the instruction is not interruptible. -/
def execKvacc (a : BRegNo) (b : VRegNo) (c : XReg) (ty : ETy) (rnd : Rnd) (mask : MRegNo) (s : State) : Res :=
  finish (.kvacc a b c ty rnd mask) do
    s.vchk [b] [ty] (s.me.dynChk rnd)
    let st := s.me
    let us := (List.range st.vl).filterMap (fun i =>
      if st.active? mask i then some ⟨i, st.counterAt a (st.sx c + (i : Nat)), 4⟩ else none)
    if s.accConflict a useAT true us then .error (.hold s)
    else
      match admitAccs (admitted a useAT true) us s [] with
      | (_, _, some (_, f)) => s.fail f
      | (ok, t, none) =>
        let r := ok.foldl (fun (p : State × Evs) x =>
          let u := kvStep ty (st.code ty b x.1.k) (st.rnd rnd) (st.draw x.1.k 0)
          let w := kvAdd (ofLE (x.2.map (fun y => Memory.get p.1.mem y.loc))) u.1
          let q := p.1.pokeByts x.2 (toLE 4 w.1)
          (q.setMe (q.me.staleBytes x.2), p.2 ++ evAt x.1.k (u.2 ||| w.2))) (t, [])
        (r.1.setMe (r.1.me.advance rnd st.vl)).complete r.2

/-- The candidates of KVEVICT from token `t` on, `k` of them: the smallest counter and its lowest token (R319). -/
def State.kvScan (a : BRegNo) : Nat → Nat → Option (Nat × Nat) → State → Run (Option (Nat × Nat) × State)
  | 0, _, best, s => .ok (best, s)
  | k + 1, t, best, s => do
    let (bs, s) ← s.loadE a useLD (s.me.counterAt a t) 4 0
    let v := ofLE bs
    let best := match best with
      | some (m, i) => if v < m then some (v, t) else some (m, i)
      | none => some (v, t)
    State.kvScan a k (t + 1) best s

/-- KVEVICT (R319). -/
def execKvevict (d : XReg) (a : BRegNo) (b c : XReg) (s : State) : Res :=
  finish (.kvevict d a b c) do
    let n := (s.me.getX b).toNat
    let pin := bitsOf (s.me.getX c).toNat 31 0
    let rec' := bitsOf (s.me.getX c).toNat 63 32
    let (best, t) ← State.kvScan a (n - rec' - pin) pin none s
    .ok (t.writeX d (match best with
      | some (_, i) => BitVec.ofNat 64 i
      | none => 0xFFFFFFFFFFFFFFFF#64))

end Sys2Proof.Machine
end

