-- ==== Sys2Proof/Machine/Mask.lean ====
section
/-! DEFINITION. Masks and the mask stack, major 0x0D (R239 to R241). -/

namespace Sys2Proof.Machine

/-- Write the bits below VL of a mask register; VL = 0 writes nothing (R220, R239). -/
def Strand.writeM (st : Strand) (d : MRegNo) (f : Nat → Bool) : Strand :=
  if st.vl = 0 then st else st.setM d ((List.range st.vl).map f)

/-- A mask instruction that writes a mask. -/
def State.maskOp (s : State) (d : MRegNo) (f : Nat → Bool) : Res := .next (s.setMe ((s.me.writeM d f).retire 1))

def execMand (d a b : MRegNo) (s : State) : Res := s.maskOp d (fun i => s.me.mbit a i && s.me.mbit b i)
def execMor (d a b : MRegNo) (s : State) : Res := s.maskOp d (fun i => s.me.mbit a i || s.me.mbit b i)
def execMxor (d a b : MRegNo) (s : State) : Res := s.maskOp d (fun i => s.me.mbit a i != s.me.mbit b i)
def execMnot (d a : MRegNo) (s : State) : Res := s.maskOp d (fun i => !s.me.mbit a i)

/-- The indices below VL whose bit is set, in ascending order. -/
def Strand.setBits (st : Strand) (m : MRegNo) : List Nat := (List.range st.vl).filter (st.mbit m)

/-- MPOPC. -/
def execMpopc (d : XReg) (a : MRegNo) (s : State) : Res :=
  .next (s.writeX d (BitVec.ofNat 64 (s.me.setBits a).length))

/-- MFIRST: all ones when no bit is set. -/
def execMfirst (d : XReg) (a : MRegNo) (s : State) : Res :=
  .next (s.writeX d (match s.me.setBits a with
    | i :: _ => BitVec.ofNat 64 i
    | [] => 0xFFFFFFFFFFFFFFFF#64))

/-- MMOVX: 64 bits from bit 64k; bits at and above VL read 0. -/
def execMmovx (d : XReg) (a : MRegNo) (b : XReg) (s : State) : Res :=
  let k := 64 * (s.me.getX b).toNat
  .next (s.writeX d (BitVec.ofNat 64 (bitsToNat
    ((List.range (min 64 (s.me.vl - k))).map (fun j => s.me.mbit a (k + j))))))

/-- MSETX: 64 bits from bit 64k; the other bits below VL stay. With 64k ≥ VL nothing is written (R240). -/
def execMsetx (d : MRegNo) (a b : XReg) (s : State) : Res :=
  let k := 64 * (s.me.getX b).toNat
  if s.me.vl ≤ k then .next (s.setMe (s.me.retire 1))
  else s.maskOp d (fun i => if k ≤ i ∧ i < k + 64 then (s.me.getX a).getLsbD (i - k) else s.me.mbit d i)

/-- MPUSH (R241). -/
def execMpush (a : MRegNo) (s : State) : Res :=
  finish (.mpush a) do
    let t ← s.pushMs ⟨s.me.vl, BitVec.ofNat 32768 (bitsToNat ((List.range s.me.vl).map (s.me.mbit a)))⟩
    .ok (t.retire 1)

/-- MPOP (R241): bits at and above the entry's count are clear. -/
def execMpop (d : MRegNo) (s : State) : Res :=
  finish (.mpop d) do
    let (e, t) ← s.popMs
    .ok (t.setMe ((t.me.writeM d (fun i => i < e.n && e.bits.getLsbD i)).retire 1))

end Sys2Proof.Machine
end

