-- ==== Sys2Proof/Machine/Pair.lean ====
section
/-! DEFINITION. Pair words (R181 to R183): the half in slot A, named by the constructor, with the scalar half of slot B.
Both read their operands first; a pair is one instruction, so that it is never interrupted inside. -/

namespace Sys2Proof.Machine

/-- Destination and value of a scalar half, from the registers as they stand (R181). -/
def HalfB.result (h : HalfB) (st : Strand) : XReg × Word :=
  let r (d a b : XReg) (f : Word → Word → Word) : XReg × Word := (d, f (st.getX a) (st.getX b))
  match h with
  | .add d a b => r d a b valAdd
  | .sub d a b => r d a b valSub
  | .and d a b => r d a b valAnd
  | .or d a b => r d a b valOr
  | .xor d a b => r d a b valXor
  | .shl d a b => r d a b valShl
  | .shr d a b => r d a b valShr
  | .slt d a b => r d a b valSlt
  | .addi d a i => (d, valAdd (st.getX a) (i.signExtend 64))
  | .shli d a n => (d, valShl (st.getX a) (n.setWidth 64))
  | .shri d a n => (d, valShr (st.getX a) (n.setWidth 64))
  | .li d i => (d, i.signExtend 64)

/-- The scalar half of slot B takes effect, with the operands it read in `old`. -/
def State.putHalf (t : State) (o : HalfB) (old : Strand) : State :=
  t.setMe (t.me.setX (HalfB.result o old).1 (HalfB.result o old).2)

/-- Slot A's effect `f` with slot B's: where slot A faults or waits neither takes effect (R183); an arithmetic trap is
taken after the pair (R444). -/
def State.pairWith (s : State) (o : HalfB) (f : State → Run State) : Run State :=
  match f (s.setMe { s.me with esr := 0, stopAt := none }) with
  | .ok t => .ok (t.putHalf o s.me)
  | .error (.flt g pc t) => .error (.flt g pc (if g.cls = 0x90 then t.putHalf o s.me else s))
  | .error e => .error e

/-- A pair of two scalar halves. -/
def State.pairScalar (s : State) (h o : HalfB) : Res :=
  .next ((s.writeX (HalfB.result h s.me).1 (HalfB.result h s.me).2).putHalf o s.me)

/-- The modifiers of a half (R180, R181). -/
def halfMod (t : ETy) : VMod := ⟨t, .rne, false, 0, false⟩

/-- A vector half over VTYPE's type; one that the full instruction does not allow is class 0x84 DETAIL 22 (R181). -/
def State.pairVec (s : State) (d a b : VRegNo) (full : Instr) (f : ETy → Nat → Nat → Nat → Nat × Ev) : Run State := do
  let t := s.me.vty
  s.vchk [d, a, b] [t] [(!full.wf, s.me.flt 0x84 22 s.me.vtype.toNat 0)]
  s.varith d [d, a, b] (halfMod t) (fun i => f t i (s.me.code t a i) (s.me.code t b i))

/-- E of the LD and ST halves (R181). -/
def Strand.pairEa (st : Strand) (b : BRegNo) (a : XReg) (i : BitVec 11) : Int :=
  st.eb b (st.sx a * 8 + 8 * i.toInt)

/-- Slot A holds ADD. -/
def execPairAdd (d a b : XReg) (o : HalfB) (s : State) : Res := s.pairScalar (.add d a b) o

/-- Slot A holds SUB. -/
def execPairSub (d a b : XReg) (o : HalfB) (s : State) : Res := s.pairScalar (.sub d a b) o

/-- Slot A holds AND. -/
def execPairAnd (d a b : XReg) (o : HalfB) (s : State) : Res := s.pairScalar (.and d a b) o

/-- Slot A holds OR. -/
def execPairOr (d a b : XReg) (o : HalfB) (s : State) : Res := s.pairScalar (.or d a b) o

/-- Slot A holds XOR. -/
def execPairXor (d a b : XReg) (o : HalfB) (s : State) : Res := s.pairScalar (.xor d a b) o

/-- Slot A holds SHL. -/
def execPairShl (d a b : XReg) (o : HalfB) (s : State) : Res := s.pairScalar (.shl d a b) o

/-- Slot A holds SHR. -/
def execPairShr (d a b : XReg) (o : HalfB) (s : State) : Res := s.pairScalar (.shr d a b) o

/-- Slot A holds SLT. -/
def execPairSlt (d a b : XReg) (o : HalfB) (s : State) : Res := s.pairScalar (.slt d a b) o

/-- Slot A holds ADDI. -/
def execPairAddi (d a : XReg) (i : BitVec 15) (o : HalfB) (s : State) : Res := s.pairScalar (.addi d a i) o

/-- Slot A holds SHLI. -/
def execPairShli (d a : XReg) (n : BitVec 6) (o : HalfB) (s : State) : Res := s.pairScalar (.shli d a n) o

/-- Slot A holds SHRI. -/
def execPairShri (d a : XReg) (n : BitVec 6) (o : HalfB) (s : State) : Res := s.pairScalar (.shri d a n) o

/-- Slot A holds LI. -/
def execPairLi (d : XReg) (i : BitVec 15) (o : HalfB) (s : State) : Res := s.pairScalar (.li d i) o

/-- Slot A holds LD, .i64 plain. -/
def execPairLd (d a : XReg) (b : BRegNo) (i : BitVec 11) (o : HalfB) (s : State) : Res :=
  finish (.pairLd d a b i o) (s.pairWith o fun s => do
    let (bs, t) ← s.loadE b useLD (s.me.pairEa b a i) 8 0
    .ok (t.writeX d (extend .i64 bs)))

/-- Slot A holds ST, .i64 plain. -/
def execPairSt (d a : XReg) (b : BRegNo) (i : BitVec 11) (o : HalfB) (s : State) : Res :=
  finish (.pairSt d a b i o) (s.pairWith o fun s => do
    let t ← s.storeE b useST (s.me.pairEa b a i) (toLE 8 (s.me.getX d).toNat) 0
    .ok (t.retire 1))

/-- Slot A holds VADD. -/
def execPairVadd (d a b : VRegNo) (o : HalfB) (s : State) : Res :=
  finish (.pairVadd d a b o) (s.pairWith o fun s =>
    s.pairVec d a b (.vadd d a b (halfMod s.me.vty)) (fun t _ x y => elemAdd t .rne false 0 x y))

/-- Slot A holds VSUB. -/
def execPairVsub (d a b : VRegNo) (o : HalfB) (s : State) : Res :=
  finish (.pairVsub d a b o) (s.pairWith o fun s =>
    s.pairVec d a b (.vsub d a b (halfMod s.me.vty)) (fun t _ x y => elemSub t .rne false 0 x y))

/-- Slot A holds VMUL. -/
def execPairVmul (d a b : VRegNo) (o : HalfB) (s : State) : Res :=
  finish (.pairVmul d a b o) (s.pairWith o fun s =>
    s.pairVec d a b (.vmul d a b (halfMod s.me.vty)) (fun t _ x y => elemMul t .rne false 0 x y))

/-- Slot A holds VMIN. -/
def execPairVmin (d a b : VRegNo) (o : HalfB) (s : State) : Res :=
  finish (.pairVmin d a b o) (s.pairWith o fun s =>
    s.pairVec d a b (.vmin d a b (halfMod s.me.vty)) (fun t _ x y => elemMin false t x y))

/-- Slot A holds VMAX. -/
def execPairVmax (d a b : VRegNo) (o : HalfB) (s : State) : Res :=
  finish (.pairVmax d a b o) (s.pairWith o fun s =>
    s.pairVec d a b (.vmax d a b (halfMod s.me.vty)) (fun t _ x y => elemMin true t x y))

/-- Slot A holds VMV. -/
def execPairVmv (d a : VRegNo) (o : HalfB) (s : State) : Res :=
  finish (.pairVmv d a o) (s.pairWith o fun s => s.vmv d a s.me.vty 0 false)

/-- Slot A holds VSPLAT. -/
def execPairVsplat (d : VRegNo) (a : XReg) (o : HalfB) (s : State) : Res :=
  finish (.pairVsplat d a o) (s.pairWith o fun s => s.vsplat d (s.me.getX a).toNat s.me.vty)

/-- Slot A holds SLQTAKE. -/
def execPairSlqtake (d : VRegNo) (a b : XReg) (o : HalfB) (s : State) : Res :=
  finish (.pairSlqtake d a b o) (s.pairWith o fun s => do
    s.vchk [d] [] []
    let st ← s.slqtake d a b
    .ok (s.setMe (st.retire 1)))

/-- Slot A holds BARR. -/
def execPairBarr (a : XReg) (o : HalfB) (s : State) : Res :=
  finish (.pairBarr a o) (s.pairWith o fun s => s.barr a)

/-- Slot A holds BWAIT: while it waits, slot B waits too. -/
def execPairBwait (a b : XReg) (o : HalfB) (s : State) : Res :=
  finish (.pairBwait a b o) (s.pairWith o fun s => s.bwait a b)

/-- A waiting BWAIT, alone or in a pair, looks at its object again (R275, R276). -/
def execBwaitWake (sid : Nat) (s : State) : Res :=
  s.awake sid fun i t =>
    match i with
    | .bwait a b => some (execBwait a b t)
    | .pairBwait a b o => some (execPairBwait a b o t)
    | _ => none

end Sys2Proof.Machine
end

