-- ==== Sys2Proof/Machine/Launch.lean ====
section
/-! DEFINITION. Leeway: launch records and node records (R52 to R54, R22, R340, R406), reading a submission and its
decision (R50, R58 to R60, R375, R455), completion records and the end of a queue (R50, R51, R67, R350, R407). -/

namespace Sys2Proof.Machine

/-! ### Launch records (R52) -/

def lrNodes (b : List Byte) : Nat := field b 4 4
def lrDeadline (b : List Byte) : Nat := field b 8 8
def lrNodeTab (b : List Byte) : Nat := field b 0x10 8
def lrPredTab (b : List Byte) : Nat := field b 0x18 8
def lrNPred (b : List Byte) : Nat := field b 0x20 4
def lrPool (b : List Byte) : Nat := field b 0x24 2
def lrTag (b : List Byte) : Word := BitVec.ofNat 64 (field b 0x28 8)

/-- Is a header well-formed (R52). -/
def lrOk (b : List Byte) : Bool :=
  field b 0 4 == 0x00040002 && 1 ≤ lrNodes b && lrNodes b ≤ 65536 && lrNodeTab b % 64 == 0 && 1 ≤ lrPool b
    && lrPool b ≤ 16384 && zeroIn b 0x26 2 && zeroIn b 0x30 16

/-! ### Node records (R21, R22, R53, R54) -/

/-- A level descriptor: extent, domain and scope (R21). -/
def levelAt (b : List Byte) (i : Nat) : Nat × Nat × Nat :=
  let w := field b (0x40 + 8 * i) 8
  (bitsOf w 63 32, bitsOf w 31 29, bitsOf w 28 26)

/-- The extents of the levels inside level `i`. -/
def inside (ls : List (Nat × Nat × Nat)) (i : Nat) : Nat := prodN ((ls.drop (i + 1)).map (·.1))

/-- The most strands inside a level bound to a domain (R22). -/
def domainMax (matrix : Bool) : Nat → Nat
  | 1 => if matrix then 1 else 4
  | 2 => if matrix then 8 else 32
  | 3 => 512
  | 4 => 2048
  | _ => 0xFFFFFFFF

def nonincreasing : List Nat → Bool
  | a :: b :: rest => b ≤ a && nonincreasing (b :: rest)
  | _ => true

/-- Does a work hierarchy meet R22. -/
def hierOk (matrix : Bool) (ls : List (Nat × Nat × Nat)) : Bool :=
  nonincreasing (ls.map (fun l => l.2.1)) && (ls.getLast?.map (fun l => l.2.1)) == some 0
    && ls.all (fun l => 1 ≤ l.1 && l.2.1 ≤ 5 && l.2.2 ≤ 5 && l.2.1 ≤ l.2.2)
    && (ls.drop 1).all (fun l => l.2.1 != 5)
    && (List.range ls.length).all (fun i => inside ls i ≤ domainMax matrix (ls.getD i (0, 0, 0)).2.1)
    && prodN (ls.map (·.1)) ≤ 0xFFFFFFFF

/-- A node record with its predecessors. It has no field for barrier objects of a level (R24): none is allocated or written
for a node, and a gang makes its own with BINIT (log entry 115). -/
def nodeOf (b : List Byte) (preds : List Nat) : NodeRec where
  kind := field b 0 1
  gmin := bitsOf (field b 2 1) 1 0
  gmax := bitsOf (field b 2 1) 3 2
  matrix := (field b 2 1).testBit 4
  maxw := field b 0x0C 4
  budget := field b 0x10 8
  target := BitVec.ofNat 64 (field b 0x18 8)
  args := BitVec.ofNat 64 (field b 0x20 8)
  seed := BitVec.ofNat 64 (field b 0x28 8)
  levels := (List.range (field b 1 1)).map (levelAt b)
  preds := preds

def ndNPred (b : List Byte) : Nat := field b 4 4
def ndPredIdx (b : List Byte) : Nat := field b 8 4

/-- TILEOP (R53): each entry below NTILE has an access, and the others are zero. -/
def tilesOk (b : List Byte) : Bool :=
  field b 3 1 ≤ 4 && (List.range 4).all (fun i =>
    let w := field b (0x30 + 4 * i) 4
    if i < field b 3 1 then bitsOf w 31 30 != 0 else w == 0)

/-- Does a node record meet R22 and R53, but for its predecessors. -/
def ndOk (b : List Byte) : Bool :=
  let r := nodeOf b []
  let n := field b 1 1
  r.kind ≤ 4 && tilesOk b && 1 ≤ r.maxw
    && (List.range 8).all (fun i => if i < n then bitsOf (field b (0x40 + 8 * i) 8) 25 0 == 0 else zeroIn b (0x40 + 8 * i) 8)
    && (if r.kind = 0 then
          1 ≤ n && n ≤ 8 && field b 2 1 < 32 && r.gmin ≤ r.gmax && hierOk r.matrix r.levels && r.maxw % r.gangSize == 0
        else n == 0 && field b 2 1 == 0)
    && (r.kind != 4 || r.budget == 0) && (r.kind != 2 && r.kind != 3 || r.args == 0#64)
    && (r.kind == 0 || r.kind == 4 || r.seed == 0#64)

/-- Is TARGET of a kernel node the address of a strong text symbol of its context (R340). -/
def targetOk (s : State) (cx : Nat) (r : NodeRec) : Bool :=
  r.kind != 0 || ((s.ctx? cx).map (fun c => c.objs.any (fun o => o.entries.contains r.target.toNat))).getD false

/-- The predecessors of node `i`, if they are within the table and lower than `i` (R54). -/
def predsOf (b ptab : List Byte) (np i : Nat) : Option (List Nat) :=
  let n := ndNPred b
  let ps := (List.range n).map (fun j => field ptab (4 * (ndPredIdx b + j)) 4)
  if n = 0 then some [] else if ndPredIdx b + n ≤ np ∧ ps.all (· < i) then some ps else none

/-- The node records of a table, unless one is malformed. -/
def readNodes (s : State) (cx : Nat) (tab ptab : List Byte) (np : Nat) : Nat → Nat → Option (List NodeRec)
  | 0, _ => some []
  | n + 1, i =>
    let b := (tab.drop (128 * i)).take 128
    match predsOf b ptab np i with
    | none => none
    | some ps =>
      if ndOk b && targetOk s cx (nodeOf b ps) then (readNodes s cx tab ptab np n (i + 1)).map (nodeOf b ps :: ·) else none

/-- Read a launch record (R406): the error is STATUS 7 or 8, with USERTAG as far as it could be read. -/
def readLaunch (s : State) (cx addr : Nat) : Except (Nat × Word) (List Byte × List NodeRec × State) :=
  match devRead s cx addr 64 with
  | .error _ => .error (8, 0#64)
  | .ok (h, s) =>
    if !lrOk h then .error (7, lrTag h)
    else
      match devRead s cx (lrNodeTab h) (128 * lrNodes h) with
      | .error _ => .error (8, lrTag h)
      | .ok (tab, s) =>
        match devRead s cx (lrPredTab h) (4 * lrNPred h) with
        | .error _ => .error (8, lrTag h)
        | .ok (ptab, s) =>
          match readNodes s cx tab ptab (lrNPred h) (lrNodes h) 0 with
          | some ns => .ok (h, ns, s)
          | none => .error (7, lrTag h)

/-! ### The decision (R58 to R60, R448, R455) -/

def Node.start (r : NodeRec) : Node := ⟨r, .waiting, 0, false, [], 0, none, 0, false⟩

/-- A decision on a launch that has been read: refused with STATUS and EFD, or accepted under a number with t0. -/
inductive Verdict where
  | refused (status efd t0 : Nat)
  | accepted (no t0 : Nat)
  deriving DecidableEq, Repr

/-- TAG of a decision record (R376). -/
def decisionTag (q sub : Nat) : Word := BitVec.ofNat 64 (q % 2 ^ 16 + sub % 2 ^ 32 * 2 ^ 32)

/-- Leeway's own decision: after a unit is lost with no spare every launch is refused (R448). -/
def State.decide (s : State) (part : Nat) (l : Launch) : Verdict :=
  if s.noSpare then .refused 1 0 s.time.toNat
  else
    match admitTest (s.part part) s.holds s.time.toNat (s.inPart part) l with
    | some efd => .refused 1 efd s.time.toNat
    | none => .accepted s.nextLaunch s.time.toNat

/-- The decision that a record holds. -/
def verdictOf (p : List Byte) : Verdict :=
  if field p 8 8 = 0 then .accepted (field p 0 8) (field p 24 8) else .refused (field p 8 8) (field p 16 8) (field p 24 8)

/-- The payload of a decision record (R376). -/
def Verdict.payload : Verdict → List Byte
  | .refused st efd t0 => toLE 8 0 ++ toLE 8 st ++ toLE 8 efd ++ toLE 8 t0
  | .accepted no t0 => toLE 8 no ++ toLE 8 0 ++ toLE 8 0 ++ toLE 8 t0

/-- Apply a decision on entry `sub` of a queue: the launch is taken (R60, R61), or its record is due (R59). -/
def State.decided (s : State) (q : Queue) (sub : Nat) (tag : Word) (l : Launch) (v : Verdict) : State :=
  match v with
  | .refused st efd _ => s.setQueue { q with
      reading := q.reading + 1, cpls := q.cpls ++ [⟨tag, 0, st, 0, efd, s.time, sub, false⟩] }
  | .accepted no t0 =>
    let s := s.setQueue { q with reading := q.reading + 1 }
    { s with nextLaunch := no + 1, launches := s.launches ++ [{ l with no := no, t0 := t0 }.advance] }

/-! ### SUBMISSION_READ -/

/-- Advance SUBHEAD past an entry (R50). -/
def Queue.passed (q : Queue) (s : State) (head : Nat) : Option State := q.put s 0x14 4 (idxNext head)

/-- Unread completion records (R50). -/
def cplUnread (b : List Byte) : Nat := idxSub (qCplTail b) (qCplHead b)

/-- Is a place free for a record that no read of a launch stands for (R50). -/
def placeFree (q : Queue) (b : List Byte) : Bool := cplUnread b + q.reading < qCplLen b

/-- Read the entry at SUBHEAD, its launch record, and decide (R50). In a replay the decision is its record's, in its
place; a submission without a record is a divergence (R455). -/
def State.readEntry (s : State) (q : Queue) (b : List Byte) : State :=
  let head := qSubHead b
  match devRead s q.ctx (qSubRing b + 16 * (head % qSubLen b)) 16 with
  | .error (_, a) => s.faultQueue q 1 a (some b)
  | .ok (e, t) =>
    let r := readLaunch t q.ctx (field e 0 8)
    let t := match r with
      | .ok (_, _, u) => u
      | .error _ => t
    match q.passed t head with
    | none => t.faultQueue q 0 (q.addr + 0x14) (some b)
    | some t =>
      let q := { q with written := q.written.filter (fun w => w.1 != head) }
      let tag := decisionTag q.n head
      let due := match t.replay with
        | none => none
        | some p => (t.logAt p.pos p.lseq).bind (fun l => if l.ltype = 8 ∧ l.tag = tag then some l else none)
      if t.replay.isSome && due.isNone then
        if t.logAll.any (fun l => l.ltype == 8 && l.tag == tag) then s else s.diverge 2 0#64 0#64
      else
        let l : Launch := match r with
          | .ok (h, ns, _) => ⟨0, q.n, head, q.ctx, q.part, q.cls, field e 0 8, lrDeadline h, lrTag h, lrPool h, 0, false,
              false, false, ns.map Node.start⟩
          | .error (_, g) => ⟨0, q.n, head, q.ctx, q.part, q.cls, field e 0 8, 0, g, 0, 0, false, false, false, []⟩
        let v := match due, r with
          | some d, _ => verdictOf d.payload
          | none, .error (st, _) => if t.noSpare then .refused 1 0 t.time.toNat else .refused st 0 t.time.toNat
          | none, .ok _ => t.decide q.part l
        let t := t.logRec 8 0 tag v.payload
        let t := t.decided q head l.tag l v
        match due with
        | some d => t.applied d
        | none => t

/-- Has a context's load been reported: none of its launches is admitted before (R336, log entry 124). -/
def State.reported (s : State) (cx : Nat) : Bool := ((s.ctx? cx).map (fun c => !c.objs.isEmpty)).getD false

/-- Could Leeway read a submission of a queue now (R50, R336, R407). -/
def State.canRead (s : State) (q : Queue) : Bool :=
  q.qstate != 0 && s.reported q.ctx && (match q.read s with
    | none => false
    | some (b, _) => placeFree q b && (match q.ending with
      | none => !outOfRing b && qSubHead b != qSubTail b
      | some (mode, tail) => mode == 0 && qSubHead b != tail))

/-- SUBMISSION_READ (R50, R349): Leeway reads the next entry of a queue that it may read. -/
def execSubmissionRead (q : Nat) (s : State) : Res :=
  match s.queue? q with
  | none => .next s
  | some q =>
    if q.qstate = 0 ∨ !s.reported q.ctx then .next s
    else
      match q.read s with
      | none => .next (s.faultQueue q 0 q.addr none)
      | some (b, t) =>
        match q.ending with
        | none =>
          if outOfRing b then .next (t.faultQueue q 3 (qSubTail b) (some b))
          else if qSubHead b = qSubTail b ∨ !placeFree q b then .next t
          else .next (t.readEntry q b)
        | some (mode, tail) =>
          if mode ≠ 0 ∨ qSubHead b = tail ∨ !placeFree q b then .next t else .next (t.readEntry q b)

/-! ### COMPLETION_RECORD_WRITE -/

/-- Does a record complete a launch that Leeway has read, which holds a place for it (R50). -/
def Cpl.ofRead (c : Cpl) : Bool := !c.marker && !(c.status == 3 && c.no == 0)

/-- A record's 32 bytes (R51). -/
def Cpl.bytes (c : Cpl) : List Byte :=
  toLE 8 c.tag.toNat ++ toLE 4 c.no ++ toLE 1 c.status ++ toLE 1 0 ++ toLE 2 c.ndem ++ toLE 8 c.efd ++ toLE 8 c.fin.toNat

/-- May a record be written now (R50). -/
def Cpl.hasPlace (c : Cpl) (q : Queue) (b : List Byte) : Bool :=
  if c.ofRead then cplUnread b < qCplLen b else placeFree q b

/-- A record leaves the list of those due, written or lost. -/
def Queue.drop (q : Queue) (c : Cpl) : Queue :=
  { q with cpls := q.cpls.erase c, reading := q.reading - (if c.ofRead then 1 else 0) }

/-- The queue is gone once its end-marking record is written or lost (R67, R407). -/
def State.closed (s : State) (q : Queue) (c : Cpl) : State :=
  if c.marker then { s with queues := s.queues.filter (fun r => r.n != q.n) } else s

/-- Write a record at CPLTAIL, advance CPLTAIL, and copy the record to the creating host (R50, R350). One that cannot be
written is lost, and the queue is faulted (R407). -/
def State.writeCpl (s : State) (q : Queue) (b : List Byte) (c : Cpl) : State :=
  let tail := qCplTail b
  let off := 32 * (tail % qCplLen b)
  let q := q.drop c
  match devWrite s q.ctx (qCplRing b + off) c.bytes with
  | .error (_, a) => ((s.setQueue q).faultQueue q 2 a (some b)).closed q c
  | .ok t =>
    match q.put t 0x2C 4 (idxNext tail) with
    | none => ((t.setQueue q).faultQueue q 0 (q.addr + 0x2C) (some b)).closed q c
    | some t =>
      let q := if c.marker then q
        else { q with written := (c.sub, c.status + c.ndem * 2 ^ 8 + c.no * 2 ^ 32) :: q.written }
      let t := (t.setQueue q).closed q c
      if q.cplHost = 0 then t else t.emit (.hostWrite q.host false (q.cplHost + off) c.bytes)

/-- Has a destroyed queue nothing left but its end: every covered entry read, every launch's record written (R67). -/
def State.queueOver (s : State) (q : Queue) (head : Option Nat) : Bool :=
  q.cpls.isEmpty && q.qstate != 0 && s.launches.all (fun l => l.q != q.n) &&
    match q.ending with
    | some (mode, tail) => mode != 0 || head == some tail
    | none => false

/-- QSTATE becomes 0 and the end-marking record is due (R67). -/
def State.endMark (s : State) (q : Queue) : State :=
  let t := q.putState s 0
  t.setQueue { q with qstate := 0, cpls := [⟨0#64, 0, 3, 0, 0, s.time, 0, true⟩] }

/-- COMPLETION_RECORD_WRITE (R50, R67): a record that has a place is written; a destroyed queue with nothing left ends.
Records of a queue whose own record cannot be read are lost (R407). -/
def execCompletionRecordWrite (q : Nat) (s : State) : Res :=
  match s.queue? q with
  | none => .next s
  | some q =>
    match q.read s with
    | none =>
      if !q.faulted then .next (s.faultQueue q 0 q.addr none)
      else
        match q.cpls with
        | c :: _ => .next ((s.setQueue (q.drop c)).closed q c)
        | [] => .next (if s.queueOver q none then s.endMark q else s)
    | some (b, t) =>
      match q.cpls.find? (fun c => c.hasPlace q b) with
      | some c => .next (t.writeCpl q b c)
      | none => .next (if t.queueOver q (some (qSubHead b)) then t.endMark q else t)

end Sys2Proof.Machine
end

