-- ==== Sys2Proof/Machine/Walker.lean ====
section
/-! DEFINITION. The format walker: WKRUN, WKWAIT and WKSTAT, major 0x15 (R324, R325), the sixteen words of a walker
program (R326 to R328), and the events of its runs (R429, R446). A walker word acts on the walker of the cluster in
front (`wfront`). -/

namespace Sys2Proof.Machine

/-! ### The run block (R324) -/

/-- The conditions on a run block, with their offsets in order (R324, R411 class 0x46 DETAIL 3). -/
def wkChecks (b : List Byte) : List (Bool × Nat) :=
  let nin := field b 4 1
  let outk := field b 5 1
  let head : List (Bool × Nat) := [(field b 0 4 ≠ 0x00040009, 0), (4 < nin, 4), (2 < outk, 5), (13 < field b 6 1, 6), (16 ≤ field b 7 1, 7),
   (field b 8 2 = 0 || 256 < field b 8 2, 8), (!zeroIn b 0x0C 4, 0x0C),
   ((outk = 0 && field b 0x10 8 % 64 ≠ 0) || (outk = 2 && !zeroIn b 0x10 8), 0x10),
   (if outk = 0 then field b 0x18 8 % 16384 ≠ 0 else !zeroIn b 0x18 8, 0x18)]
  head ++ (List.range 4).map (fun i => (nin ≤ i && !zeroIn b (0x20 + 8 * i) 8, 0x20 + 8 * i))
    ++ (List.range 4).map (fun i => (nin ≤ i && !zeroIn b (0x40 + 8 * i) 8, 0x40 + 8 * i))
    ++ [(!zeroIn b 0x60 32, 0x60)]

/-- The bound register of input `i`. -/
def wkInB (b : List Byte) (i : Nat) : BRegNo := Fin.ofNat 16 (bitsOf (field b 0x0A 2) (4 * i + 3) (4 * i))
def wkOutB (b : List Byte) : BRegNo := Fin.ofNat 16 (field b 7 1 % 16)

/-- A run as its image describes it; `bnd` gives the bound registers it was issued with. -/
def wkRun (b : List Byte) (words : List Byte) (bnd : BRegNo → Bound) (ticket op : Nat) (iss : Issuer) (w1 : Word)
    (bar : Option Nat) : WRun where
  ticket := ticket
  op := op
  iss := iss
  nin := field b 4 1
  outk := field b 5 1
  otype := (etyOf (field b 6 1)).getD .f32
  obnd := bnd (wkOutB b)
  out := field b 0x10 8
  outlen := field b 0x18 8
  inbnds := (List.range 4).map (fun i => bnd (wkInB b i))
  inaddrs := (List.range 4).map (fun i => field b (0x20 + 8 * i) 8)
  inlens := (List.range 4).map (fun i => field b (0x40 + 8 * i) 8)
  prog := (List.range (field b 8 2)).map (fun i => BitVec.ofNat 32 (field words (4 * i) 4))
  w1 := w1
  barrier := bar

/-- The input regions as pieces, each with its bound register. -/
def wkInputs (b : List Byte) : List (BRegNo × Int × Nat) :=
  (List.range (field b 4 1)).map (fun i => (wkInB b i, (field b (0x20 + 8 * i) 8 : Nat), field b (0x40 + 8 * i) 8))

def wkOutput (b : List Byte) : List (Int × Nat) :=
  if field b 5 1 = 0 then [((field b 0x10 8 : Nat), field b 0x18 8)] else []

/-- Admission of a run's inputs and memory output (R325). -/
def wkAdmit (w : Who) (b : List Byte) (bnd : BRegNo → Bound) : Option Flt :=
  ((wkInputs b).findSome? (fun p => admission w (bnd p.1) p.1.val useER [p.2])).orElse fun _ =>
    admission w (bnd (wkOutB b)) (wkOutB b).val useEW (wkOutput b)

/-- Runs of a cluster's walker that are not complete. -/
def Cluster.runsHeld (k : Cluster) : Nat := k.runs.length + (if k.wst.isSome then 1 else 0)

/-! ### WKRUN, WKWAIT, WKSTAT (R325) -/

/-- The handle of an OUTK 1 run must be the gang's own and free. -/
def State.wkHandle (s : State) (b : List Byte) : Run Nat :=
  if field b 5 1 = 1 then do
    let h := field b 0x10 8
    let buf ← s.ownBuf h
    if buf.st ≠ 0 then s.fail (s.bufFlt 2 h) else .ok buf.addr
  else .ok 0

/-- The locations that an access of the strand through a bound register names. -/
def State.locsOf (s : State) (b : BRegNo) (use : Nat) (e : Int) (n : Nat) : List Nat :=
  match access s s.who (s.me.getB b) b.val use e n 0 with
  | .ok (bs, _) => bs.map (·.loc)
  | .error _ => []

/-- WKRUN (R325), an engine transfer whose reads include the image: they touch a reservation of the strand (R215). -/
def execWkrun (d : XReg) (a : BRegNo) (b c : XReg) (s : State) : Res :=
  finish (.wkrun d a b c) do
    let e := s.me.eb a 0
    s.check [s.me.alignChk e]
    let (blk, s1) ← s.loadE a useER e 128 0
    let outk := field blk 5 1
    s.guard (outk = 2 && !s.me.inMatrix) 0x84 20 2 0
    s.refuseBlock 3 (addr64 e) (wkChecks blk)
    let plen := field blk 8 2
    let (words, s2) ← s1.loadE a useER (e + 0x80) (4 * plen) 0
    match wkAdmit s.who blk s.me.getB with
    | some f => s.fail f
    | none => pure ()
    let region ← s.wkHandle blk
    let bar := if c = 0 then none else some (s.me.getX c).toNat
    s.check ((bar.map s.barChk).getD [])
    let cl := s.me.cluster
    let s2 := s2.touch (some s.me.id) (s2.locsOf a useER e (0x80 + 4 * plen))
    let k := s2.cluster cl
    if 8 ≤ k.runsHeld || (outk = 2 && 64 ≤ s.me.mqueue.length) then .error (.hold s)
    else
      let op := s2.newOp
      let core := s.me.core
      let bytes := buf16 k (field blk 0x10 8) outk region
      let t ← op.2.takeEntries
        [entryOf s.me.id op.1 false (footprint core (s.me.getB a) [(e, 0x80 + 4 * plen)]
          ++ (wkInputs blk).flatMap (fun p => footprint core (s.me.getB p.1) [p.2])),
         entryOf s.me.id op.1 true (footprint core (s.me.getB (wkOutB blk)) (wkOutput blk)
          ++ footprint core Bound.zero bytes)]
      let n := k.tickets + 1
      let r := wkRun blk words s.me.getB n op.1 s.issuer (s.me.getX b) bar
      let t := t.setCluster cl { t.cluster cl with tickets := n, runs := (t.cluster cl).runs ++ [r] }
      let t := if outk = 1 then t.setBufState cl r.out 1 else t
      let m : MEntry := { s.me.mentry (.wkrun d a b c) op.1 with blk := field blk 6 1, ready := false }
      let t := if outk = 2 then t.setMe ({ t.me with mqueue := t.me.mqueue ++ [m] }.trackEntry m) else t
      .ok (t.writeX d (BitVec.ofNat 64 n))
where
  /-- The region of an OUTK 1 handle, as the write entry covers it. -/
  buf16 (k : Cluster) (h outk region : Nat) : List (Int × Nat) :=
    if outk = 1 then [((region : Nat), ((k.buf? h).map (·.len)).getD 0)] else []

/-- 0 queued, 1 running, 2 complete; none for a ticket that no run has had (R325). -/
def Cluster.runState (k : Cluster) (t : Nat) : Option Nat :=
  if t + 64 ≤ k.tickets then some 2
  else if t = 0 ∨ k.tickets < t then none
  else if k.runs.any (fun r => r.ticket == t) then some 0
  else if (k.wst.map (fun w => w.run.ticket == t)).getD false then some 1
  else some 2

/-- WKWAIT (R325): an acquire at cluster scope. -/
def execWkwait (a : XReg) (s : State) : Res :=
  finish (.wkwait a) (
    if (s.cluster s.me.cluster).runState (s.me.getX a).toNat = some 2 then .ok (s.setMe (s.me.staleAll.retire 1))
    else .error (.block s))

/-- WKSTAT (R325). The state of a ticket that no run has had is not stated: a free value (log entry 5). -/
def execWkstat (d a : XReg) (s : State) : Res :=
  match (s.cluster s.me.cluster).runState (s.me.getX a).toNat with
  | some n => .next (s.writeX d (BitVec.ofNat 64 n))
  | none => .next ({ s with fresh := s.fresh + 1 }.writeX d (Config.freeWord s.fresh))

/-! ### The walker's state (R326) -/

/-- The run at work on the walker in front, unless it has failed. -/
def State.walking (s : State) : Option WState :=
  match (s.cluster s.wfront).wst with
  | some w => if w.fail.isNone then some w else none
  | none => none

def State.setWalk (s : State) (w : WState) : State :=
  s.setCluster s.wfront { s.cluster s.wfront with wst := some w }

/-- w0 reads zero (R326). -/
def WState.get (w : WState) (r : WReg) : Word := if r = 0 then 0#64 else w.w[r]
/-- A write to w0 is discarded (R326). -/
def WState.set (w : WState) (r : WReg) (v : Word) : WState := if r = 0 then w else { w with w := w.w.set r v }

/-- The run fails at its current word (R429, R446). -/
def WState.stop (w : WState) (cause addr : Nat) : WState := { w with fail := some (cause, BitVec.ofNat 64 addr) }

/-- Go on at a word; a word at or beyond PLEN, or below 0, is cause 22 (R429). -/
def WState.goto (w : WState) (pc : Int) : WState :=
  if 0 ≤ pc ∧ pc < (w.run.prog.length : Int) then { w with pc := pc } else w.stop 22 0

def WState.next (w : WState) : WState := w.goto (w.pc + 1)
def WState.branch (w : WState) (taken : Bool) (i : BitVec 16) : WState := if taken then w.goto (w.pc + i.toInt) else w.next

/-- B of R327. -/
def WState.bVal (w : WState) (b : WReg) (i : BitVec 16) : Word := w.get b + i.signExtend 64

/-- A word that changes the walker's state alone. -/
def State.walkOp (s : State) (f : WState → WState) : Res :=
  match s.walking with
  | some w => .next (s.setWalk (f w))
  | none => .next s

/-- WLI (R327). -/
def execWli (d : WReg) (i : BitVec 24) (s : State) : Res := s.walkOp (fun w => (w.set d (i.signExtend 64)).next)
/-- WADD (R327). -/
def execWadd (d a b : WReg) (i : BitVec 16) (s : State) : Res := s.walkOp (fun w => (w.set d (w.get a + w.bVal b i)).next)
/-- WSUB (R327). -/
def execWsub (d a b : WReg) (i : BitVec 16) (s : State) : Res := s.walkOp (fun w => (w.set d (w.get a - w.bVal b i)).next)
/-- WSHL (R327). -/
def execWshl (d a b : WReg) (i : BitVec 16) (s : State) : Res :=
  s.walkOp (fun w => (w.set d (w.get a <<< ((w.bVal b i).toNat % 64))).next)
/-- WAND (R327). -/
def execWand (d a b : WReg) (i : BitVec 16) (s : State) : Res := s.walkOp (fun w => (w.set d (w.get a &&& w.bVal b i)).next)
/-- WBR (R327). -/
def execWbr (i : BitVec 16) (s : State) : Res := s.walkOp (fun w => w.branch true i)
/-- WBEQ (R327). -/
def execWbeq (a b : WReg) (i : BitVec 16) (s : State) : Res := s.walkOp (fun w => w.branch (w.get a == w.get b) i)
/-- WBLT (R327). -/
def execWblt (a b : WReg) (i : BitVec 16) (s : State) : Res := s.walkOp (fun w => w.branch ((w.get a).slt (w.get b)) i)
/-- WLOOP (R327): taken if w[a] ≠ 0 after the decrement. -/
def execWloop (a : WReg) (i : BitVec 16) (s : State) : Res :=
  s.walkOp (fun w => let u := w.set a (w.get a - 1#64); u.branch (u.get a != 0#64) i)
/-- WSEEK (R327). -/
def execWseek (a : WReg) (s : State) : Res := s.walkOp (fun w => { w with col := (w.get a).toNat }.next)
/-- WROW (R327). -/
def execWrow (a : WReg) (s : State) : Res := s.walkOp (fun w => { w with row := (w.get a).toNat, col := 0 }.next)

/-- The bit of the tile at which the cursor stands; none outside the tile or where `n` bits leave the record. -/
def WState.cursor (w : WState) (n : Nat) : Option Nat :=
  let o := w.col * sbits w.run.otype
  if w.row < 64 ∧ o + n ≤ 2048 then some (2048 * w.row + o) else none

/-- Replace `n` bits of a tile. -/
def putBits (t : BitVec 131072) (at' n v : Nat) : BitVec 131072 :=
  let x := t.toNat
  BitVec.ofNat 131072 (x % 2 ^ at' + (v % 2 ^ n) * 2 ^ at' + (x >>> (at' + n)) <<< (at' + n))

/-- WEMIT (R327). -/
def execWemit (a : WReg) (s : State) : Res :=
  s.walkOp (fun w =>
    let n := sbits w.run.otype
    match w.cursor n with
    | none => w.stop 23 0
    | some o => { w with tile := putBits w.tile o n (w.get a).toNat, col := w.col + 1 }.next)

/-- A read of `n` bytes of region `a` (R327); outside the region it is cause 21 (R429). -/
def State.walkRead (s : State) (w : WState) (a b : WReg) (off : BitVec 14) (n : Nat) :
    Except (Nat × Nat) (List Byte × State) :=
  let o := (w.get b + off.setWidth 64).toNat
  let base := w.run.inaddrs.getD a.val 0
  if w.run.inlens.getD a.val 0 < o + n then .error (21, (base + o) % 2 ^ 64)
  else engRead s w.run.iss.who (w.run.inbnds.getD a.val Bound.zero) (base + o : Nat) n

/-- WLDIX (R327); a region at or above NIN is cause 26 (R446). -/
def execWldix (d a b : WReg) (sz : BitVec 2) (off : BitVec 14) (s : State) : Res :=
  match s.walking with
  | none => .next s
  | some w =>
    if w.run.nin ≤ a.val then .next (s.setWalk (w.stop 26 0))
    else
      match s.walkRead w a b off (2 ^ sz.toNat) with
      | .error (c, x) => .next (s.setWalk (w.stop c x))
      | .ok (bs, t) => .next (t.setWalk (w.set d (BitVec.ofNat 64 (ofLE bs))).next)

/-- WLDVL (R327): the cursor must lie on a byte, and the 64 bytes in one record (R429). -/
def execWldvl (a b : WReg) (off : BitVec 14) (s : State) : Res :=
  match s.walking with
  | none => .next s
  | some w =>
    if w.run.nin ≤ a.val then .next (s.setWalk (w.stop 26 0))
    else
      match s.walkRead w a b off 64 with
      | .error (c, x) => .next (s.setWalk (w.stop c x))
      | .ok (bs, t) =>
        match w.cursor 512 with
        | none => .next (s.setWalk (w.stop 23 0))
        | some o =>
          if o % 8 ≠ 0 then .next (s.setWalk (w.stop 23 0))
          else .next (t.setWalk
            { w with tile := putBits w.tile o 512 (ofLE bs), col := w.col + 512 / sbits w.run.otype }.next)

/-- The tile is zero again, the cursor at (0, 0), and the flush counts (R327). -/
def WState.flushed (w : WState) : WState := { w with tile := 0#131072, row := 0, col := 0, flushes := w.flushes + 1 }

/-- Where flush `f` of a run goes: its bound and address, or that it lies beyond OUTLEN or LEN (R328, R429). -/
def State.flushAt (s : State) (w : WState) : Option (Bound × Nat) :=
  let o := 16384 * w.flushes
  if w.run.outk = 0 then
    if o + 16384 ≤ w.run.outlen then some (w.run.obnd, w.run.out + o) else none
  else
    match (s.cluster s.wfront).buf? w.run.out with
    | some b => if o + 16384 ≤ b.len then some (Bound.zero, b.addr + o) else none
    | none => none

/-- WFLUSH (R328). Under OUTK 2 the tile waits for the end of the run, so that a failing run leaves the plane as it was
(R429). -/
def execWflush (s : State) : Res :=
  match s.walking with
  | none => .next s
  | some w =>
    if w.run.outk = 2 then
      if w.flushes = 0 then .next (s.setWalk { w with img := some w.tile }.flushed.next)
      else .next (s.setWalk (w.stop 25 0))
    else
      match s.flushAt w with
      | none => .next (s.setWalk (w.stop 24 0))
      | some (b, e) =>
        match engWrite s w.run.iss.who w.run.iss.sid b (e : Nat) (toLE 16384 w.tile.toNat) with
        | (t, some (c, a)) => .next (t.setWalk (w.stop c a))
        | (t, none) => .next (t.setWalk w.flushed.next)

/-- The class and FINFO2 of a run's failure at its current word (R411 class 0x53). -/
def WState.rep (w : WState) : Nat × Word :=
  (0x53, BitVec.ofNat 64 (w.run.ticket % 2 ^ 32 + w.pc.toNat % 2 ^ 16 * 2 ^ 32))

/-- The walker is free again. -/
def State.endWalk (s : State) (r : WRun) : State :=
  (s.setCluster s.wfront { s.cluster s.wfront with wst := none }).retireOp r.iss.core r.op

/-- Deliver the plane of an OUTK 2 run to its place in the strand's matrix queue (R325, R328). -/
def Strand.deliver (st : Strand) (op : Nat) (img : BitVec 131072) : Strand :=
  { st with mqueue := st.mqueue.map (fun e => if e.op = op then { e with ready := true, img := some img } else e) }

/-- WEND (R327, R325): the run is complete; its barrier receives one arrival, a handle moves to full, an OUTK 2 run loads
the plane. -/
def execWend (s : State) : Res :=
  match s.walking with
  | none => .next s
  | some w =>
    let r := w.run
    let t := s.endWalk r
    let t := match (if r.outk = 2 then r.iss.sid else none) with
      | some sid => t.modStrand sid (fun u => u.deliver r.op (w.img.getD w.tile))
      | none => t
    let t := if r.outk = 1 then t.setBufState s.wfront r.out 2 else t
    .next ((t.signalTo r.iss r.barrier r.op w.rep).engineEnded r.iss)

/-! ### Events -/

/-- A run as it starts (R326). -/
def WState.start (r : WRun) : WState :=
  ⟨r, (Vector.replicate 16 0#64).set 1 r.w1, 0, 0#131072, 0, 0, 0, none, none⟩

/-- WALKER_RUN_START (R326): the walker takes the next run. -/
def execWalkerRunStart (cluster : Nat) (s : State) : Res :=
  let k := s.cluster cluster
  match k.wst, k.runs with
  | none, r :: rest => .next (s.setCluster cluster { k with runs := rest, wst := some (WState.start r) })
  | _, _ => .next s

/-- WALKER_RUN_FAILED (R429): the handle returns to free, the plane stays as it was, no arrival is made, and class 0x53 is
raised. -/
def execWalkerRunFailed (cluster : Nat) (s : State) : Res :=
  match (s.cluster cluster).wst with
  | none => .next s
  | some w =>
    match w.fail with
    | none => .next s
    | some (cause, addr) =>
      let r := w.run
      let t := { s with wfront := cluster }.endWalk r
      let t := if r.outk = 1 then t.setBufState cluster r.out 0 else t
      let t := match (if r.outk = 2 then r.iss.sid else none) with
        | some sid => t.modStrand sid (fun u =>
            { u with mqueue := u.mqueue.filter (fun e => e.op != r.op), hold := none }.retrack)
        | none => t
      .next (t.pend r.iss ⟨0x53, cause, addr, r.iss.iaddr, w.rep.2⟩ r.op)

/-- A waiting WKRUN issues (R325). -/
def execWalkerRoom (sid : Nat) (s : State) : Res :=
  s.awake sid fun i t =>
    match i with
    | .wkrun d a b c => if (t.cluster t.me.cluster).runsHeld < 8 then some (execWkrun d a b c t) else none
    | _ => none

/-- A waiting WKWAIT goes on (R325). -/
def execWkwaitWake (sid : Nat) (s : State) : Res :=
  s.awake sid fun i t =>
    match i with
    | .wkwait a => some (execWkwait a t)
    | _ => none

end Sys2Proof.Machine
end

