-- ==== Sys2Proof/Machine/Nodes.lean ====
section
/-! DEFINITION. Copy, exchange and walker nodes (R53, R304, R325): their work starts on an engine without a strand, and
its checks, which an instruction makes at issue, fail the node (R430). -/

namespace Sys2Proof.Machine

/-- The issuer of a node without a strand. `core` is the core that aperture 0xF0 names in its accesses, and whose cluster
0xF1 names: a channel's own core, the first core of a die's fabric interface or of a walker's cluster (log entry 142). -/
def nodeIssuer (l : Launch) (i core : Nat) : Issuer := ⟨none, l.ctx, core, ⟨l.no, i, 0⟩, 0#64, 0#32, 0#7, 0⟩

/-- Read what a node's TARGET names, in the context's space. -/
def nodeRead (s : State) (cx a n : Nat) : Except Flt (List Byte × State) :=
  match devRead s cx a n with
  | .ok r => .ok r
  | .error (d, x) =>
    .error (if d < 8 then ⟨0x41, d, BitVec.ofNat 64 x, 0#64, 0#64⟩ else ⟨0x42, d - 8, BitVec.ofNat 64 x, 0#64, 0#64⟩)

/-- A block that fails a check (R411 class 0x46). -/
def nodeBlock (det a : Nat) (cs : List (Bool × Nat)) : Except Flt Unit :=
  match firstBad cs with
  | some o => .error ⟨0x46, det, BitVec.ofNat 64 a, BitVec.ofNat 64 o, 0#64⟩
  | none => .ok ()

/-- A block's address is a multiple of 64 (R279, R297, R324). -/
def nodeAlign (a : Nat) : Except Flt Unit :=
  if a % 64 = 0 then .ok () else .error ⟨0x84, 9, 0#64, BitVec.ofNat 64 a, 0#64⟩

def orFlt (f : Option Flt) : Except Flt Unit :=
  match f with
  | some f => .error f
  | none => .ok ()

/-- A copy node on channel `ch` of the issuer's core. A node has no gang, so that no object lies where R272 allows (log
entry 90). -/
def copyNode (s : State) (i : Issuer) (ch a : Nat) : Except Flt State := do
  nodeAlign a
  let (b, s) ← nodeRead s i.ctx a 160
  nodeBlock 0 a (cpChecks b)
  let op := s.newOp
  let bn := field b 5 1
  let c := copyOf op.1 ch i b (field b 0x10 8 : Nat) (nodeBound s i.ctx (bn % 16)) (nodeBound s i.ctx (bn / 16)) none none
  orFlt (admission i.who c.srcView (bn % 16) useER c.reads)
  orFlt (admission i.who c.dstView (bn / 16) useEW c.writes)
  orFlt (c.srev.map (fun x => barFlt 0 x (s.objBits i.core x)))
  .ok (if c.total = 0 then (op.2.emptyCopy c).engineEnded i else op.2.addCopy i.core c)

/-- The tensor descriptor of an exchange node (R298). -/
def nodeTensor (s : State) (i : Issuer) (x : List Byte) : Except Flt (List Byte × State) :=
  if 4 < xOp x then .ok ([], s)
  else do
    let hb := nodeBound s i.ctx (xHighB x).val
    let (bs, t) ← access s i.who hb (xHighB x).val useLD (xTd x : Nat) 128 0
    let v ← readByts s i.who (xHighB x).val useLD 0 bs
    .ok (v, t)

/-- The conditions on the exchange descriptor of a node; its OP is one of the six. -/
def nodeXd (s : State) (x : List Byte) (late : List (Bool × Nat)) : List (Bool × Nat) :=
  match s.xdChecks (xOp x) x late with
  | fmt :: rest => fmt :: (xOp x == 0 || 6 < xOp x, 4) :: rest
  | [] => []

/-- Both descriptors of an exchange node, in the order in which an instruction's are checked (R298, R430). -/
def nodeDesc (s : State) (i : Issuer) (a : Nat) (x : List Byte) : Except Flt (List Byte × State) :=
  match nodeTensor s i x with
  | .error f => do
    nodeBlock 1 a (nodeXd s x [])
    .error f
  | .ok (td, t) => do
    nodeBlock 1 a (nodeXd s x (xdLate x (tensorOf td)))
    nodeBlock 2 (xTd x) (if xOp x ≤ 4 then tdChecks x (tensorOf td) else [])
    .ok (td, t)

/-- An exchange node (R304): the operation of the descriptor at TARGET, without a barrier. -/
def exchangeNode (s : State) (i : Issuer) (a : Nat) : Except Flt State := do
  nodeAlign a
  let (x, s1) ← nodeRead s i.ctx a 128
  let (td, s2) ← nodeDesc s1 i a x
  let t := tensorOf td
  let lb := nodeBound s i.ctx (xLowB x).val
  let hb := nodeBound s i.ctx (xHighB x).val
  orFlt (fabAdmit i.who x t lb hb)
  if xCount x = 0 ∧ xOp x ≠ 3 ∧ xOp x ≠ 4 then .ok (s2.engineEnded i)
  else
    let op := s2.newOp
    let ty := if 4 < xOp x then .n8 else t.ty
    .ok { op.2 with
      fabs := op.2.fabs ++ [⟨op.1, i, x, td, lb, hb, ty, .rne, false, none, s.time, none, false, false, none, 0#7, 1⟩] }

/-- Why a walker node may not have an OUTK 1 handle (R278, R325): it must be defined and free. A node is in no gang, so
that none of the handles is another gang's (log entry 90). -/
def nodeHandle (k : Cluster) (h : Nat) : Option Flt :=
  let bad (d : Nat) : Option Flt := some ⟨0x45, d, 0#64, BitVec.ofNat 64 h, bufWord (k.buf? h)⟩
  match k.buf? h with
  | none => bad 0
  | some b => if b.st = 0 then none else bad 2

/-- A walker node on a cluster's walker (R325): w1 is ARGS; OUTK 2 is not allowed. -/
def walkerNode (s : State) (i : Issuer) (cl a : Nat) (w1 : Word) : Except Flt State := do
  nodeAlign a
  let (b, s1) ← nodeRead s i.ctx a 128
  let outk := field b 5 1
  orFlt (if outk = 2 then some ⟨0x84, 20, 0#64, 2#64, 0#64⟩ else none)
  nodeBlock 3 a (wkChecks b)
  let (words, s2) ← nodeRead s1 i.ctx (a + 0x80) (4 * field b 8 2)
  let bnd (r : BRegNo) : Bound := nodeBound s i.ctx r.val
  orFlt (wkAdmit i.who b bnd)
  let h := field b 0x10 8
  orFlt (if outk = 1 then nodeHandle (s.cluster cl) h else none)
  let op := s2.newOp
  let k := op.2.cluster cl
  let r := wkRun b words bnd (k.tickets + 1) op.1 i w1 none
  let t := op.2.setCluster cl { k with tickets := k.tickets + 1, runs := k.runs ++ [r] }
  .ok (if outk = 1 then t.setBufState cl h 1 else t)

/-- Start a node's engine work on a unit: a channel, a die's fabric interface, or a cluster's walker. -/
def startNode (s : State) (l : Launch) (n : Node) (idx unit : Nat) : State :=
  let a := n.r.target.toNat
  let (i, r) :=
    match n.r.kind with
    | 2 => let i := nodeIssuer l idx (unit / 4); (i, copyNode s i (unit % 4) a)
    | 3 => let i := nodeIssuer l idx (128 * unit); (i, exchangeNode s i a)
    | _ => let i := nodeIssuer l idx (8 * unit); (i, walkerNode s i unit a n.r.args)
  match r with
  | .ok t => t
  | .error f => s.pend i f 0

end Sys2Proof.Machine
end

