-- ==== Sys2Proof/Machine/Tree.lean ====
section
/-! DEFINITION. The tree engine, major 0x16 (R305 to R316, R386, R425 to R428). An instruction hands a request to its
cluster's engine and its strand is not ready until TREE_REQUEST_PERFORMED has performed it. A request acts on the state
as a whole: a refusal drops every change. -/

namespace Sys2Proof.Machine

/-! ### Records (R306, R307) -/

/-- A tree descriptor (R306); ROOT, FREEHEAD and FREETAIL are node indices, the constants binary32 codes. -/
structure TDesc where
  fmt : Nat
  flags : Nat
  rsv : Nat
  maxb : Nat
  pool : Nat
  pooln : Nat
  bump : Nat
  fcnt : Nat
  root : Nat
  fhead : Nat
  ftail : Nat
  cexp : Nat
  uv : Nat
  vlossv : Nat
  deriving DecidableEq, Repr

def tdescOf (b : List Byte) : TDesc where
  fmt := field b 0 4
  flags := field b 4 1
  rsv := field b 5 1
  maxb := field b 6 2
  pool := field b 8 8
  pooln := field b 0x10 8
  bump := field b 0x18 8
  fcnt := field b 0x20 8
  root := field b 0x28 4
  fhead := field b 0x2C 4
  ftail := field b 0x30 4
  cexp := field b 0x34 4
  uv := field b 0x38 4
  vlossv := field b 0x3C 4

def TDesc.alt (d : TDesc) : Bool := d.flags.testBit 0
def TDesc.recl (d : TDesc) : Bool := d.flags.testBit 6
def TDesc.valid (d : TDesc) : Bool := d.flags.testBit 7
/-- Nodes on the free list (R306: FREECNT less the nodes never used). -/
def TDesc.listed (d : TDesc) : Nat := d.fcnt - (d.pooln - d.bump)

/-- A node record (R307). -/
structure TNode where
  w : Int
  n : Nat
  vloss : Nat
  p : Nat
  parent : Nat
  first : Nat
  next : Nat
  kids : Nat
  st : Nat
  fl : Nat
  deriving DecidableEq, Repr

def tnodeOf (b : List Byte) : TNode where
  w := sfield b 0 8
  n := field b 8 4
  vloss := field b 0x0C 2
  p := field b 0x0E 2
  parent := field b 0x10 4
  first := field b 0x14 4
  next := field b 0x18 4
  kids := field b 0x1C 2
  st := field b 0x1E 1
  fl := field b 0x1F 1

def TNode.bytes (t : TNode) : List Byte :=
  toLE 8 (intCode 64 t.w) ++ toLE 4 t.n ++ toLE 2 t.vloss ++ toLE 2 t.p ++ toLE 4 t.parent ++ toLE 4 t.first
    ++ toLE 4 t.next ++ toLE 2 t.kids ++ toLE 1 t.st ++ toLE 1 t.fl

/-! ### The score (R308) -/

/-- f32(x): rounded to binary32, to nearest even. -/
def f32r (r : Val × Ev) : Val := decodeVal .f32 (deliver .f32 r .rne false 0).1

def f32q (q : Q) : Val := f32r (ofQ q .pos, 0#7)
def f32n (n : Nat) : Val := f32q ⟨n, 0, 1⟩
def f32mul (a b : Val) : Val := f32r (exactMul a b)
def f32div (a b : Val) : Val := f32r (exactDiv a b)
def f32add (a b : Val) : Val := f32r (exactAdd a b)

/-- f32(sqrt(f32(n))). -/
def f32sqrt (n : Nat) : Val := decodeVal .f32 (roundTo .f32 (sqrtOf (f32n n)).1 .rne false 0).1

def f32code (c : Nat) : Val := decodeVal .f32 c

/-- score(c, sq). -/
def score (d : TDesc) (c : TNode) (sq : Val) : Val :=
  let nv := c.n + c.vloss
  let q :=
    if nv = 0 then f32code d.uv
    else
      let loss := f32r (exactMul (ofInt c.vloss) (f32code d.vlossv))
      f32div (f32add (f32q ⟨c.w, -32, 1⟩) (vneg loss)) (f32n nv)
  let t := f32mul (f32code d.cexp) (f32q ⟨c.p, 0, 65535⟩)
  f32add q (f32div (f32mul t sq) (f32n (1 + nv)))

/-- A NaN score counts as −Inf. -/
def scoreKey (v : Val) : Val := if isNan v then .inf true else v

/-! ### A request's accesses (R78, R310, R411) -/

/-- A request at work: the bound register it names and the descriptor's address. -/
structure TrAt where
  bno : BRegNo
  bnd : Bound
  da : Nat
  deriving DecidableEq, Repr

/-- Class 0x47 (R426). -/
def TrAt.flt (q : TrAt) (det i1 i2 : Nat) : Flt := ⟨0x47, det, BitVec.ofNat 64 q.da, BitVec.ofNat 64 i1, BitVec.ofNat 64 i2⟩

abbrev Tr (α : Type) := Except Flt α

/-- Is a range granted for a use (R78). -/
def TrAt.grant (q : TrAt) (s : State) (use a n : Nat) : Tr Unit :=
  match q.bnd.refuses use a n with
  | some (d, x) => .error ⟨0x40, d, BitVec.ofNat 64 x, accessWord 0 q.bno.val use 0, s.me.pc⟩
  | none => .ok ()

def TrAt.bytes (q : TrAt) (s : State) (use : Nat) (need : Need) (a n : Nat) : Tr (List Byt × State) := do
  q.grant s use a n
  match resolve s.who need false (q.bnd.addrs a n) s none [] with
  | .ok r => .ok r
  | .error (d, l, x) => .error ⟨0x41, d, BitVec.ofNat 64 x, accessWord 0 q.bno.val use l, s.me.pc⟩

/-- A read of a request, which touches a reservation of its strand as an engine transfer does (R215, R305). -/
def TrAt.read (q : TrAt) (s : State) (use a n : Nat) : Tr (List Byte × State) := do
  let (bs, t) ← q.bytes s use .read a n
  let v ← readByts t t.who q.bno.val use 0 bs
  .ok (v, t.touch (some t.me.id) (bs.map (·.loc)))

def TrAt.write (q : TrAt) (s : State) (use a : Nat) (vs : List Byte) : Tr State := do
  let (bs, t) ← q.bytes s use .write a vs.length
  let t := t.pokeByts bs vs
  .ok (t.setMe (t.me.staleBytes bs))

/-- Write a field of the descriptor. -/
def TrAt.put (q : TrAt) (s : State) (off n v : Nat) : Tr State := q.write s useTR (q.da + off) (toLE n v)

/-- Node `i` of the pool; an index at or above POOLN is DETAIL 1 (R426). -/
def TrAt.node (q : TrAt) (s : State) (d : TDesc) (i : Nat) : Tr (TNode × State) :=
  if d.pooln ≤ i then .error (q.flt 1 i 0)
  else do
    let (b, t) ← q.read s useTR (d.pool + 32 * i) 32
    .ok (tnodeOf b, t)

/-- A node named where a live one is needed (R426 DETAIL 1). -/
def TrAt.live (q : TrAt) (s : State) (d : TDesc) (i : Nat) : Tr (TNode × State) := do
  let (n, t) ← q.node s d i
  if n.st = 0 ∨ n.st = 5 then .error (q.flt 1 i n.st) else .ok (n, t)

/-- Write a node record whole (R119). -/
def TrAt.setNode (q : TrAt) (s : State) (d : TDesc) (i : Nat) (n : TNode) : Tr State :=
  q.write s useTR (d.pool + 32 * i) n.bytes

/-- The children of a node from one index on, in order k (R307). -/
def TrAt.chain (q : TrAt) (d : TDesc) : Nat → Nat → State → Tr (List (Nat × TNode) × State)
  | 0, _, s => .ok ([], s)
  | k + 1, i, s => do
    let (n, s) ← q.node s d i
    let (rest, s) ← q.chain d k n.next s
    .ok ((i, n) :: rest, s)

/-! ### Descent (R309) -/

/-- The child with the highest score; equal scores keep the lower k. -/
def bestChild (d : TDesc) (sq : Val) : List (Nat × TNode) → Nat → Val → Nat
  | [], best, _ => best
  | (i, c) :: rest, best, bs =>
    let v := scoreKey (score d c sq)
    if vlt bs v then bestChild d sq rest i v else bestChild d sq rest best bs

/-- One virtual loss more (R309, R426 DETAIL 4); `k` is the descent's number. -/
def TrAt.lose (q : TrAt) (s : State) (d : TDesc) (k i : Nat) (n : TNode) (st : Nat) : Tr State :=
  if 65535 ≤ n.vloss then .error (q.flt 4 i k) else q.setNode s d i { n with vloss := n.vloss + 1, st := st }

/-- The loop of descend(): its result word and whether it is NEW. Each round adds a virtual loss to a node, so that
65,536 rounds for each node of the pool are enough. -/
def TrAt.descend (q : TrAt) (d : TDesc) (k : Nat) : Nat → Nat → Nat → State → Tr (Nat × State)
  | 0, i, _, _ => .error (q.flt 4 i k)
  | fuel + 1, i, depth, s => do
    let (n, s) ← q.node s d i
    if n.st = 3 then
      let (cs, s) ← q.chain d (max 1 n.kids) n.first s
      let sq := f32sqrt (n.n + n.vloss)
      let best := match cs with
        | (c, r) :: rest => bestChild d sq rest c (scoreKey (score d r sq))
        | [] => i
      let s ← q.lose s d k i n n.st
      q.descend d k fuel best (depth + 1) s
    else
      let s ← q.lose s d k i n (if n.st = 1 then 2 else n.st)
      let code := if n.st = 1 then 0 else if n.st = 2 then 1 else 2
      .ok (i + code * 2 ^ 32 + min depth 65535 * 2 ^ 40, s)

def TrAt.oneDescent (q : TrAt) (d : TDesc) (k : Nat) (s : State) : Tr (Nat × State) :=
  q.descend d k (65536 * (d.pooln + 1)) d.root 0 s

/-- Descents `k` on (R312): the result words in order. -/
def TrAt.descents (q : TrAt) (d : TDesc) : Nat → Nat → State → Tr (List Nat × State)
  | 0, _, s => .ok ([], s)
  | n + 1, k, s => do
    let (w, s) ← q.oneDescent d k s
    let (ws, s) ← q.descents d n (k + 1) s
    .ok (w :: ws, s)

/-! ### Reclamations (R315, R386, R427) -/

/-- The location of a descriptor, by which one tree is known. -/
def treeLoc (s : State) (cx core a : Nat) : Option Nat :=
  match resolve ⟨cx, core, 0#64, none⟩ .read false [a] s none [] with
  | .ok ([b], _) => some b.loc
  | _ => none

def Reclaim.loc (s : State) (r : Reclaim) : Option Nat := treeLoc s r.iss.ctx r.iss.core r.desc

/-- Is a reclamation one of this request's tree. -/
def TrAt.mine (q : TrAt) (s : State) (r : Reclaim) : Bool :=
  let l := treeLoc s s.me.ctx s.me.core q.da
  l.isSome && r.loc s == l

/-- Has the tree's reclamation stopped (R427). -/
def TrAt.stopped (q : TrAt) (s : State) : Bool :=
  (s.cluster s.me.cluster).recls.any (fun r => r.stopped && q.mine s r)

/-- Must TREXP wait for reclamation (R313, R427). -/
def TrAt.short (q : TrAt) (s : State) (d : TDesc) (k : Nat) : Bool := 0 < k && d.fcnt < k && d.recl && !q.stopped s

/-! ### The operations -/

/-- TRINIT's checks (R311). -/
def TDesc.ok (d : TDesc) : Bool :=
  let fin (c : Nat) : Bool := c / 2 ^ 23 % 256 != 255
  d.fmt == 0x00040008 && d.flags / 2 % 32 == 0 && d.rsv == 0 && 1 ≤ d.maxb && d.maxb ≤ 256 && d.pool % 32 == 0
    && 1 ≤ d.pooln && d.pooln ≤ 2 ^ 32 && fin d.cexp && fin d.uv && fin d.vlossv

/-- A reclamation of the tree ends without a word; launches that have waited for its issuer end (R64, R311). -/
def TrAt.endReclaim (q : TrAt) (s : State) : State :=
  let k := s.cluster s.me.cluster
  let t := s.setCluster s.me.cluster { k with recls := k.recls.filter (fun r => !q.mine s r) }
  (k.recls.filter (q.mine s)).foldl (fun u r => u.settle r.iss.gang.launch) t

/-- TRINIT (R311). -/
def TrAt.init (q : TrAt) (s : State) (d : TDesc) : Tr (Word × State) :=
  if d.ok = false then do
    let s ← q.put s 4 1 (d.flags % 128)
    .ok (1#64, s)
  else do
    q.grant s useTR d.pool (32 * d.pooln)
    let s := q.endReclaim s
    let s ← q.setNode s d 0 ⟨0, 0, 0, 65535, 0, 0, 0, 0, 1, 1⟩
    let s ← q.put s 0x18 8 1
    let s ← q.put s 0x20 8 (d.pooln - 1)
    let s ← q.put s 0x28 4 0
    let s ← q.put s 0x2C 4 0
    let s ← q.put s 0x30 4 0
    let s ← q.put s 4 1 (d.flags % 2 + 128)
    .ok (0#64, s)

/-- TRDESC (R312). -/
def TrAt.desc (q : TrAt) (s : State) (d : TDesc) : Tr (Word × State) := do
  let (w, s) ← q.oneDescent d 0 s
  .ok (BitVec.ofNat 64 w, s)

/-- TRBATCH (R312). -/
def TrAt.batch (q : TrAt) (s : State) (d : TDesc) (b c : Nat) : Tr (Word × State) :=
  if d.maxb < b then .error (q.flt 2 0 b)
  else if c % 8 ≠ 0 then .error (q.flt 7 0 c)
  else if b = 0 then .ok (0#64, s)
  else do
    q.grant s useST c (8 * b)
    let (ws, s) ← q.descents d b 0 s
    let s ← q.write s useST c (ws.flatMap (toLE 8))
    .ok (BitVec.ofNat 64 (ws.filter (fun w => w / 2 ^ 32 % 256 == 0)).length, s)

/-- Take `k` nodes from the head of the free list (R313): their indices and the new head. -/
def TrAt.takeFree (q : TrAt) (d : TDesc) : Nat → Nat → State → Tr (List Nat × Nat × State)
  | 0, h, s => .ok ([], h, s)
  | k + 1, h, s => do
    let (n, s) ← q.node s d h
    let (is, h', s) ← q.takeFree d k n.next s
    .ok (h :: is, h', s)

/-- Write the children taken, in order (R313). -/
def TrAt.born (q : TrAt) (d : TDesc) (leaf : Nat) : List Nat → List Nat → State → Tr State
  | i :: is, p :: ps, s => do
    let s ← q.setNode s d i ⟨0, 0, 0, p, leaf, 0, is.headD 0, 0, 1, 0⟩
    q.born d leaf is ps s
  | _, _, s => .ok s

/-- TREXP (R313); none while the request must still wait. -/
def TrAt.expand (q : TrAt) (s : State) (d : TDesc) (leaf c : Nat) : Tr (Option (Word × State)) :=
  if c % 2 ≠ 0 then .error (q.flt 7 0 c)
  else do
    let (b, s) ← q.read s useLD c 2
    let k := ofLE b
    if q.short s d k then .ok none
    else
      q.grant s useLD c (2 + 2 * k)
      let (n, s) ← q.live s d leaf
      if n.st ≠ 1 ∧ n.st ≠ 2 then .error (q.flt 3 leaf n.st)
      else if k = 0 then
        let s ← q.setNode s d leaf { n with st := 4 }
        .ok (some (BitVec.ofNat 64 leaf, s))
      else if d.fcnt < k then .ok (some (0xFFFFFFFFFFFFFFFF#64, s))
      else
        let (ps, s) ← q.read s useLD (c + 2) (2 * k)
        let m := min d.listed k
        let (free, head, s) ← q.takeFree d m d.fhead s
        let is := free ++ (List.range (k - m)).map (d.bump + ·)
        let s ← q.born d leaf is ((List.range k).map (fun i => field ps (2 * i) 2)) s
        let s ← q.setNode s d leaf { n with first := is.headD 0, kids := k, st := 3 }
        let s ← if 0 < m then q.put s 0x2C 4 head else .ok s
        let s ← if m < k then q.put s 0x18 8 (d.bump + (k - m)) else .ok s
        let s ← q.put s 0x20 8 (d.fcnt - k)
        .ok (some (BitVec.ofNat 64 (is.headD 0), s))

/-- The loop of TRBACK (R314). Each round takes a virtual loss from a node, so that the rounds are bounded as those of a
descent. -/
def TrAt.backUp (q : TrAt) (d : TDesc) (mode : Nat) : Nat → Nat → Int → State → Tr State
  | 0, i, _, _ => .error (q.flt 5 i i)
  | fuel + 1, i, v, s => do
    let (n, s) ← q.node s d i
    let w := n.w + v
    if (mode = 0 ∧ (n.n = 0xFFFFFFFF ∨ w < -(2 ^ 63) ∨ 2 ^ 63 ≤ w)) ∨ n.vloss = 0 then .error (q.flt 5 i i)
    else
      let n' := if mode = 0 then { n with n := n.n + 1, w := w, vloss := n.vloss - 1 } else { n with vloss := n.vloss - 1 }
      let n' := if mode = 2 ∧ n.st = 2 ∧ n'.vloss = 0 then { n' with st := 1 } else n'
      let s ← q.setNode s d i n'
      if n.fl.testBit 0 then .ok s else q.backUp d mode fuel n.parent (if d.alt then -v else v) s

/-- TRBACK (R314). -/
def TrAt.back (q : TrAt) (s : State) (d : TDesc) (mode i : Nat) (v : Int) : Tr State := do
  let (_, s) ← q.live s d i
  q.backUp d mode (65536 * (d.pooln + 1)) i v s

/-- TRROOT (R315); none while the request must still wait. -/
def TrAt.reroot (q : TrAt) (s : State) (d : TDesc) (i : Nat) : Tr (Option State) :=
  if q.stopped s then .error (q.flt 8 0 0)
  else do
    let (r, s) ← q.node s d d.root
    if r.vloss ≠ 0 ∨ d.recl then .ok none
    else
      let (_, s) ← q.live s d i
      let (cs, s) ← q.chain d r.kids r.first s
      if cs.all (fun c => c.1 != i) then .error (q.flt 6 i d.root)
      else
        let s ← q.setNode s d d.root { r with fl := r.fl / 2 * 2, st := 5 }
        let (n, s) ← q.node s d i
        let s ← q.setNode s d i { n with fl := n.fl ||| 1 }
        let s ← q.put s 0x28 4 i
        let s ← q.put s 4 1 (d.flags ||| 64)
        let k := s.cluster s.me.cluster
        let rc : Reclaim := ⟨s.issuer, q.da, q.bnd, [(d.root, 1)], false⟩
        .ok (some (s.setCluster s.me.cluster { k with recls := k.recls ++ [rc] }))

/-- TRREAD (R316). -/
def TrAt.copyOut (q : TrAt) (s : State) (d : TDesc) (kids : Bool) (i c : Nat) : Tr (Word × State) :=
  if c % 32 ≠ 0 then .error (q.flt 7 0 c)
  else do
    let (n, s) ← q.node s d i
    let (rs, s) ← if kids then q.chain d n.kids n.first s else .ok ([(i, n)], s)
    let s ← q.write s useST c (rs.flatMap (fun r => r.2.bytes))
    .ok (BitVec.ofNat 64 rs.length, s)

/-! ### Requests -/

/-- The descriptor of a request: TR over it, and, but at TRINIT, VALID and TR over the pool (R310, R425, R426). -/
def TrAt.descriptor (q : TrAt) (s : State) : Tr (TDesc × State) := do
  let (b, s) ← q.read s useTR q.da 64
  .ok (tdescOf b, s)

def TrAt.usable (q : TrAt) (s : State) (d : TDesc) : Tr Unit :=
  if d.valid = false then .error (q.flt 0 0 d.flags) else q.grant s useTR d.pool (32 * d.pooln)

/-- The bytes that a request reads and those that it writes, as the interlock table keeps them (R305, R310): the
descriptor, the pool, and its buffer. Of a prior list and of children the most that there can be count, which only delays
(R112). -/
def TrAt.entries (q : TrAt) (s : State) (op : Nat) (i : Instr) (d : TDesc) (b c : Nat) : List (Option Entry) :=
  let tree : List (Int × Nat) := [((q.da : Nat), 64), ((d.pool : Nat), 32 * d.pooln)]
  let fp (ps : List (Int × Nat)) : List Byt := footprint s.me.core q.bnd (tree ++ ps)
  let bufs : List (Int × Nat) × List (Int × Nat) :=
    match i with
    | .trbatch .. => ([], [((c : Nat), 8 * b)])
    | .trexp .. => ([((c : Nat), 2 + 2 * 65535)], [])
    | .trread _ _ _ _ kids => ([], [((c : Nat), if kids then 32 * 65535 else 32)])
    | _ => ([], [])
  [entryOf s.me.id op false (fp bufs.1), entryOf s.me.id op true (fp bufs.2)]

/-- Must the request wait before it begins (R313, R315, R38). -/
def TrAt.waits (q : TrAt) (s : State) (i : Instr) (d : TDesc) (c : Nat) : Bool :=
  d.valid &&
    match i with
    | .trexp .. =>
      match q.read s useLD c 2 with
      | .ok (b, _) => q.short s d (ofLE b)
      | .error _ => false
    | .trroot .. =>
      !q.stopped s && (d.recl ||
        match q.node s d d.root with
        | .ok (r, _) => r.vloss != 0
        | .error _ => false)
    | _ => false

/-- The bound checks of a request, made at issue (R78, R305, R310): the pool, and the buffer, as far as what is read at issue
tells its size. A descriptor that cannot be used is for the engine to refuse (R311, R426). -/
def TrAt.admits (q : TrAt) (s : State) (i : Instr) (d : TDesc) (b c : Nat) : Tr Unit :=
  match i with
  | .trinit .. => if d.ok then q.grant s useTR d.pool (32 * d.pooln) else .ok ()
  | _ =>
    if d.valid = false then .ok ()
    else do
      q.grant s useTR d.pool (32 * d.pooln)
      match i with
      | .trbatch .. => q.grant s useST c (8 * b)
      | .trexp .. => do
        let (k, _) ← q.read s useLD c 2
        q.grant s useLD c (2 + 2 * ofLE k)
      | .trread _ _ _ _ kids =>
        match (if kids then (q.node s d b).map (fun r => r.1.kids) else .ok 1) with
        | .ok n => q.grant s useST c (32 * n)
        | .error _ => .ok ()
      | _ => .ok ()

/-- A tree instruction at issue (R305, R310): as a release it waits for the strand's transfers (R111), but not for a
reclamation that the strand has started, which runs alongside; the descriptor and the bounds are checked, the waits are
taken, and the request goes to the engine of its cluster. -/
def State.treeIssue (s : State) (i : Instr) (a : BRegNo) (b c : Word) : Run State := do
  if s.me.awaiting then .error (.hold s)
  else
    let da := (s.me.getB a).addr.toNat
    let q : TrAt := ⟨a, s.me.getB a, da⟩
    if da % 64 ≠ 0 then s.fail (s.me.flt 0x84 9 da 0)
    else if s.engineOut then .error (.hold s)
    else
      match q.descriptor s with
      | .error f => s.fail f
      | .ok (d, t) =>
        s.orFail (q.admits t i d b.toNat c.toNat)
        if q.waits t i d c.toNat then .error (.block s)
        else
          let op := t.newOp
          match op.2.takeEntries (q.entries s op.1 i d b.toNat c.toNat) with
          | .error _ => .error (.hold s)
          | .ok t =>
            let k := t.cluster t.me.cluster
            let r : TreeReq := ⟨i, t.me.id, op.1, da, q.bnd, b, c⟩
            let t := t.setCluster t.me.cluster { k with reqs := k.reqs ++ [r] }
            .error (.hold (t.setMe { t.me with awaiting := true }))

/-- TRINIT (R311). -/
def execTrinit (d : XReg) (a : BRegNo) (s : State) : Res :=
  finish (.trinit d a) (s.treeIssue (.trinit d a) a 0#64 0#64)

/-- TRDESC (R312). -/
def execTrdesc (d : XReg) (a : BRegNo) (s : State) : Res :=
  finish (.trdesc d a) (s.treeIssue (.trdesc d a) a 0#64 0#64)

/-- TRBATCH (R312). -/
def execTrbatch (d : XReg) (a : BRegNo) (b c : XReg) (s : State) : Res :=
  finish (.trbatch d a b c) (s.treeIssue (.trbatch d a b c) a (s.me.getX b) (s.me.getX c))

/-- TREXP (R313). -/
def execTrexp (d : XReg) (a : BRegNo) (b c : XReg) (s : State) : Res :=
  finish (.trexp d a b c) (s.treeIssue (.trexp d a b c) a (s.me.getX b) (s.me.getX c))

/-- TRBACK (R314). -/
def execTrback (a : BRegNo) (b c : XReg) (mode : Fin 3) (s : State) : Res :=
  finish (.trback a b c mode) (s.treeIssue (.trback a b c mode) a (s.me.getX b) (s.me.getX c))

/-- TRROOT (R315). -/
def execTrroot (a : BRegNo) (b : XReg) (s : State) : Res :=
  finish (.trroot a b) (s.treeIssue (.trroot a b) a (s.me.getX b) 0#64)

/-- TRREAD (R316). -/
def execTrread (d : XReg) (a : BRegNo) (b c : XReg) (kids : Bool) (s : State) : Res :=
  finish (.trread d a b c kids) (s.treeIssue (.trread d a b c kids) a (s.me.getX b) (s.me.getX c))

/-! ### Events -/

/-- What a request's performance gives: the register to write, or that it waits again. -/
inductive TrOut where
  | done (d : XReg) (v : Word) (s : State)
  | wait
  deriving DecidableEq, Repr

def TrOut.of (d : XReg) (r : Word × State) : TrOut := .done d r.1 r.2

/-- Perform a request for the strand in front. -/
def TreeReq.perform (r : TreeReq) (s : State) : Tr TrOut :=
  let at' (a : BRegNo) : TrAt := ⟨a, r.bnd, r.desc⟩
  let start (a : BRegNo) : Tr (TDesc × State) := do
    let (d, s) ← (at' a).descriptor s
    (at' a).usable s d
    .ok (d, s)
  match r.instr with
  | .trinit x a => do
    let (d, s) ← (at' a).descriptor s
    let o ← (at' a).init s d
    .ok (TrOut.of x o)
  | .trdesc x a => do
    let (d, s) ← start a
    let o ← (at' a).desc s d
    .ok (TrOut.of x o)
  | .trbatch x a _ _ => do
    let (d, s) ← start a
    let o ← (at' a).batch s d r.b.toNat r.c.toNat
    .ok (TrOut.of x o)
  | .trexp x a _ _ => do
    let (d, s) ← start a
    let o ← (at' a).expand s d r.b.toNat r.c.toNat
    .ok (match o with
      | some o => TrOut.of x o
      | none => .wait)
  | .trback a _ _ mode => do
    let (d, s) ← start a
    let t ← (at' a).back s d mode.val r.b.toNat r.c.toInt
    .ok (.done 0 0#64 t)
  | .trroot a _ => do
    let (d, s) ← start a
    let o ← (at' a).reroot s d r.b.toNat
    .ok (match o with
      | some t => .done 0 0#64 t
      | none => .wait)
  | .trread x a _ _ kids => do
    let (d, s) ← start a
    let o ← (at' a).copyOut s d kids r.b.toNat r.c.toNat
    .ok (TrOut.of x o)
  | _ => .ok .wait

/-- TREE_REQUEST_PERFORMED (R305, R425): the engine performs the strand's request; the instruction completes, an acquire at
cluster scope (R115), is refused at its own address, or waits again. -/
def execTreeRequestPerformed (sid : Nat) (s : State) : Res :=
  match s.select sid with
  | none => .next s
  | some s =>
    let k := s.cluster s.me.cluster
    match k.reqs.find? (fun r => r.sid == sid) with
    | none => .next s
    | some r =>
      let s := (s.setCluster s.me.cluster { k with reqs := k.reqs.filter (fun r => r.sid != sid) }).retireOp s.me.core r.op
      let s := s.setMe { s.me with awaiting := false, hold := none }
      match r.perform s with
      | .ok (.done d v t) => .next ((t.setMe t.me.staleAll).writeX d v)
      | .ok .wait => .next (s.setMe { s.me with blocked := some r.instr })
      | .error f => .next (s.takeFault f s.me.pc 0)

/-- TREE_WAIT_END (R313, R315): a waiting TREXP or TRROOT issues again. -/
def execTreeWaitEnd (sid : Nat) (s : State) : Res :=
  s.awake sid fun i t =>
    match i with
    | .trexp d a b c => some (execTrexp d a b c t)
    | .trroot a b => some (execTrroot a b t)
    | _ => none

/-- Read the descriptor of a reclamation and the node it visits next. -/
def Reclaim.look (r : Reclaim) (s : State) (i : Nat) : Except (Nat × Nat) (TDesc × TNode × State) := do
  let (b, s) ← engRead s r.iss.who r.bnd (r.desc : Nat) 64
  let d := tdescOf b
  let (b, s) ← engRead s r.iss.who r.bnd (d.pool + 32 * i : Nat) 32
  .ok (d, tnodeOf b, s)

/-- A chain of siblings still to visit, from node `i` with `k` nodes; none where it holds the new root alone. -/
def chainOf (d : TDesc) (i k : Nat) : List (Nat × Nat) := if k = 0 ∨ (i = d.root ∧ k = 1) then [] else [(i, k)]

/-- The writes that reclaim node `i` (R315, R386): the node zero, its place at the end of the free list and FREECNT. -/
def reclaimWrites (d : TDesc) (da i : Nat) : List (Int × List Byte) :=
  let f (off n v : Nat) : Int × List Byte := ((da + off : Nat), toLE n v)
  let link : Int × List Byte := if d.listed = 0 then f 0x2C 4 i else ((d.pool + 32 * d.ftail + 0x18 : Nat), toLE 4 i)
  let node : Int × List Byte := ((d.pool + 32 * i : Nat), toLE 32 0)
  [node, link, f 0x30 4 i, f 0x20 8 (d.fcnt + 1)]

/-- One node of a reclamation, read as it is visited (R427): in preorder its children come first, then its next sibling; the
new root is passed over. RECL goes with the last node. The answer is what is left, or the failure with its cause, address
and node; what has been written stands (R417). -/
def Reclaim.step (r : Reclaim) (s : State) : State × Except (Nat × Nat × Nat) (List (Nat × Nat)) :=
  match r.todo with
  | [] => (s, .ok [])
  | (i, k) :: rest =>
    match r.look s i with
    | .error (c, a) => (s, .error (c, a, i))
    | .ok (d, n, s) =>
      let todo := (if i = d.root then [] else chainOf d n.first n.kids) ++ chainOf d n.next (k - 1) ++ rest
      let recl : List (Int × List Byte) := if todo.isEmpty then [((r.desc + 4 : Nat), toLE 1 (d.flags - 64))] else []
      match engWrites r.iss.who r.iss.sid r.bnd s ((if i = d.root then [] else reclaimWrites d r.desc i) ++ recl) with
      | (t, none) => (t, .ok todo)
      | (t, some (c, a)) => (t, .error (c, a, i))

/-- Replace a reclamation of a cluster by what is left of it. -/
def State.setRecl (s : State) (k j : Nat) (r : Option Reclaim) : State :=
  let c := s.cluster k
  s.setCluster k { c with recls := c.recls.take j ++ r.toList ++ c.recls.drop (j + 1) }

/-- TREE_RECLAIM_NODE (R315, R386): reclamation `tree` of the cluster takes its next node; after the last, a failed or
aborted launch that has waited for it ends (R64). -/
def execTreeReclaimNode (cluster tree : Nat) (s : State) : Res :=
  match (s.cluster cluster).recls[tree]? with
  | none => .next s
  | some r =>
    if r.stopped then .next s
    else
      match r.step s with
      | (_, .error _) => .next s
      | (t, .ok []) => .next ((t.setRecl cluster tree none).settle r.iss.gang.launch)
      | (t, .ok todo) => .next (t.setRecl cluster tree (some { r with todo := todo }))

/-- TREE_RECLAIM_STOPPED (R427): where the next node cannot be read or written, the reclamation stops and class 0x54 is
raised against the issuer. -/
def execTreeReclaimStopped (cluster tree : Nat) (s : State) : Res :=
  match (s.cluster cluster).recls[tree]? with
  | none => .next s
  | some r =>
    if r.stopped then .next s
    else
      match r.step s with
      | (_, .ok _) => .next s
      | (t, .error (c, a, i)) =>
        .next ((t.setRecl cluster tree (some { r with stopped := true })).pend r.iss
          ⟨0x54, c, BitVec.ofNat 64 a, r.iss.iaddr, BitVec.ofNat 64 i⟩ 0)

end Sys2Proof.Machine
end

