-- ==== Sys2Proof/Machine/VecCfg.lean ====
section
/-! DEFINITION. Vector configuration, major 0x08 (R222, R223), and entering and leaving matrix state (R34, R35). -/

namespace Sys2Proof.Machine

/-- The grant in bytes (R29). -/
def Strand.grant (st : Strand) : Nat := 8192 * 2 ^ st.share

/-- MVL as SETVL loads it (R30, R34). -/
def Strand.newMvl (st : Strand) : Nat := if st.inMatrix then 256 else st.grant / st.vcount

/-- L of R223: the block length, or 1. -/
def Strand.unit (st : Strand) : Nat := if st.blk = 0 then 1 else st.blk

/-- vmax of R223. -/
def vmaxOf (t : ETy) (l mvl : Nat) : Nat :=
  if isBlock t then
    (((List.range (mvl * 8 / sbits t / l + 1)).map (· * l)).filter (fun n => bytesOf t l n ≤ mvl)).foldl max 0
  else
    let v := mvl * 8 / sbits t
    v - v % l

/-- VL of R223 for a count. -/
def Strand.newVl (st : Strand) (n : Nat) : Nat :=
  let k := min n (vmaxOf st.vty st.unit st.newMvl)
  k - k % st.unit

/-- SETVL and SETVLI (R223). -/
def State.setvl (s : State) (d : XReg) (n : Nat) : State :=
  let k := s.me.newVl n
  s.setMe (({ s.me with mvl := s.me.newMvl, vl := k }.setX d (BitVec.ofNat 64 k)).retire 1)

/-- CFGREG (R222); its limits are class 0x84 DETAIL 5, matrix state class 0x09 DETAIL 6. -/
def execCfgreg (cnt : VCount) (g : BitVec 4) (k : VRegNo) (s : State) : Res :=
  finish (.cfgreg cnt g k) do
    let n := countOf cnt
    s.guard (8 < g.toNat) 0x84 5 g.toNat 0
    s.guard (n < k.val + g.toNat) 0x84 5 (k.val + g.toNat) 0
    s.guard (g.toNat = 0 && k.val ≠ 0) 0x84 5 k.val 0
    s.guard s.me.inMatrix 0x09 6 0 0
    .ok (s.setMe ({ s.me with
      vcount := n, bufFirst := k.val, bufGroups := g.toNat, stream := none,
      v := Vector.replicate 32 VReg.zero, vl := 0, mvl := 0 }.retire 1))

/-- SETVL (R222). -/
def execSetvl (d a : XReg) (s : State) : Res := .next (s.setvl d (s.me.getX a).toNat)

/-- SETVLI (R222); a negative count is class 0x84 DETAIL 5. -/
def execSetvli (d : XReg) (n : BitVec 36) (s : State) : Res :=
  finish (.setvli d n) do
    s.guard (n.toInt < 0) 0x84 5 (n.signExtend 64).toNat 0
    .ok (s.setvl d n.toNat)

/-- SETVT (R222); b8 or b4 without a block length is class 0x84 DETAIL 5. -/
def execSetvt (ty : ETy) (blk : BitVec 2) (s : State) : Res :=
  finish (.setvt ty blk) do
    s.guard (isBlock ty && blk.toNat = 0) 0x84 5 blk.toNat 0
    .ok (s.setMe ((s.me.setVtype (BitVec.ofNat 64 (etyCode ty + 32 * blk.toNat))).retire 1))

/-- RDVL (R222): VL, then MVL. -/
def execRdvl (d a : XReg) (s : State) : Res :=
  let st := s.me
  .next (s.setMe (((st.setX d (BitVec.ofNat 64 st.vl)).setX a (BitVec.ofNat 64 st.mvl)).retire 1))

/-- Does the strand's node set the matrix flag (R33, R53). -/
def State.matrixNode (s : State) : Bool :=
  ((s.node? s.me.gang.launch s.me.gang.node).map (·.r.matrix)).getD false

/-- The strand in matrix state, everything zero (R34); a run-ahead stream ends (R237). -/
def Strand.enterMatrix (st : Strand) : Strand :=
  { st with
    inMatrix := true
    v := Vector.replicate 32 VReg.zero
    active := Plane.zero
    shadow := Plane.zero
    acc := Vector.replicate 4 Tile.zero
    commitAcc := Vector.replicate 4 .none
    commitActive := none
    commitShadow := none
    mqueue := []
    bind := none
    stream := none
    mvl := 256
    vl := 0 }

/-- MSTART (R34, R403). -/
def execMstart (s : State) : Res :=
  finish .mstart do
    s.guard s.me.inMatrix 0x09 1 0 0
    s.guard (!s.matrixNode) 0x09 2 0 0
    .ok (s.setMe (s.me.enterMatrix.retire 1))

/-- MSTOP (R35, R403). -/
def execMstop (s : State) : Res :=
  finish .mstop do
    s.guard (!s.me.inMatrix) 0x09 0 6 0
    let t ← s.leaveMatrix
    .ok (t.retire 1)

/-- A waiting MSTOP or EXIT goes on (R35, R269). -/
def execMstopDrainDone (sid : Nat) (s : State) : Res :=
  s.awake sid fun i t =>
    match i with
    | .mstop => some (execMstop t)
    | .exit => some (execExit t)
    | _ => none

end Sys2Proof.Machine
end

