-- ==== Sys2Proof/Machine/Sched.lean ====
section
/-! DEFINITION. The ready pool and the scheduler: placement (R22 to R26, R29, R33), areas (R47), keys and dispatch (R62,
R20, R406), pre-emption and resumption (R25, R32, R36 to R43, R46, R63), completion (R64), demotion (R65), timed nodes
(R66) and missed deadlines (R405). A strand slot is numbered 4 × core + place. A gang's shares are listed by the places of
its strands in the gang. -/

namespace Sys2Proof.Machine

/-! ### Gangs and their strands (R21, R25, R27) -/

def NodeRec.total (r : NodeRec) : Nat := prodN (r.levels.map (·.1))

def NodeRec.gangCount (r : NodeRec) : Nat := if r.kind = 0 then r.total / r.gangSize else 1

/-- The group at level `l` that strand `i` belongs to. -/
def NodeRec.groupAt (r : NodeRec) (l i : Nat) : Nat := i / inside r.levels l

/-- Strands of a group that must share a core: those inside the outermost level bound to core (R23). -/
def NodeRec.coreGroup (r : NodeRec) : Nat := prodN (((r.levels.dropWhile (fun l => 1 < l.2.1)).drop 1).map (·.1))

def inNode (no idx : Nat) (t : Strand) : Bool := t.gang.launch == no && t.gang.node == idx

/-- The strands of a node that exist, and those of them that are resident. -/
def State.strandsOf (s : State) (no idx : Nat) : List Strand := s.all.filter (inNode no idx)

def Strand.resident (t : Strand) : Bool := t.live == .resident

def State.residents (s : State) (no idx : Nat) : Nat := ((s.strandsOf no idx).filter Strand.resident).length

def Strand.seat (t : Strand) : Nat := 4 * t.core + t.place

/-- The strands of a gang that exist. -/
def State.gangStrands (s : State) (g : GangId) : List Strand := s.all.filter (fun t => t.gang == g)

/-! ### Units and their spares (R9, R366, R447) -/

/-- The pool of spares that a unit of a kind is replaced from (R9, R363, R447): its cluster, its die, its port, its
stack. -/
def poolOf (kind unit : Nat) : Nat :=
  match kind with
  | 1 => unit / 4096 * 16 + unit % 4096 / 8
  | 2 => unit / 4096 * 16 + unit % 4096
  | 3 => unit / 4096
  | _ => unit

/-- Spares of a pool at first (R9); how many spare rows a stack has is not stated. -/
def poolSize (kind : Nat) : Nat :=
  match kind with
  | 1 => 1
  | 2 => 2
  | 3 => 32
  | 4 => 1
  | _ => Config.spareRows

/-- Spares of a unit's pool that a failed unit is to have, and that wait for their cluster to be free (R366, R448). -/
def State.reserves (s : State) (kind unit : Nat) : Nat :=
  s.retiring.countP (fun r => r.failed && r.kind == kind && poolOf r.kind r.unit == poolOf kind unit)

/-- Is a spare of a unit's pool left that is neither used nor promised. -/
def State.spareLeft (s : State) (kind unit : Nat) : Bool :=
  (s.spent.count (kind, poolOf kind unit)) + s.reserves kind unit < poolSize kind

/-- Has a unit that awaits a spare one to come: its own, where it has failed, or one that is left. -/
def State.hasSpare (s : State) (r : Retire) : Bool := r.failed || s.spareLeft r.kind r.unit

/-- Are gangs held out of residency on a cluster, so that a spare core or bank can take its unit's place (R366). -/
def State.swapDue (s : State) (cl : Nat) : Bool :=
  s.retiring.any (fun r => (r.kind == 1 || r.kind == 2) && poolOf r.kind r.unit == cl && s.hasSpare r)

/-! ### Placement (R23, R26, R29, R33) -/

/-- The instance of a domain that a slot lies in. -/
def instanceOf (dom q : Nat) : Nat :=
  match dom with
  | 0 => q
  | 1 => q / 4
  | 2 => q / 32
  | 3 => q / 512
  | _ => 0

/-- May strand `i` have its home at slot `q` beside strands with given homes (R23). -/
def NodeRec.fits (r : NodeRec) (homes : List (Nat × Nat)) (i q : Nat) : Bool :=
  (List.range r.levels.length).all (fun l =>
    let d := (r.levels.getD l (0, 0, 0)).2.1
    homes.all (fun h => h.1 == i || r.groupAt l h.1 != r.groupAt l i || (d != 0 && instanceOf d h.2 == instanceOf d q)))

def State.homes (s : State) (no idx : Nat) : List (Nat × Nat) := (s.strandsOf no idx).map (fun t => (t.llin, t.seat))

def State.onCore (s : State) (c : Nat) : List Strand := s.all.filter (fun t => t.resident && t.core == c)

def State.slotFree (s : State) (q : Nat) : Bool :=
  !s.swapDue (q / 32) && !(s.onCore (q / 4)).any (fun t => t.place == q % 4)

/-- KiB of a core's vector file that resident strands hold (R29). -/
def State.fileUsed (s : State) (c : Nat) : Nat := ((s.onCore c).map (fun t => 8 * 2 ^ t.share)).sum

def State.ofMatrix (s : State) (t : Strand) : Bool := ((s.node? t.gang.launch t.gang.node).map (·.r.matrix)).getD false

/-- Is a strand of a matrix node resident on a core (R33). -/
def State.matrixOn (s : State) (c : Nat) : Bool := (s.onCore c).any s.ofMatrix

/-- May strands take these shares of the vector files of these cores together (R29), one matrix strand a core (R33). -/
def State.filesOk (s : State) (r : NodeRec) (want : List (Nat × Nat)) : Bool :=
  want.all (fun p =>
    let here := want.filter (fun w => w.1 == p.1)
    r.gmin ≤ p.2 && p.2 ≤ r.gmax && s.fileUsed p.1 + (here.map (fun w => 8 * 2 ^ w.2)).sum ≤ 128
      && (!r.matrix || (here.length == 1 && !s.matrixOn p.1)))

/-- May strands take these slots together, each with its own share (R29, R33). -/
def State.slotsOk (s : State) (r : NodeRec) (qs shares : List Nat) : Bool :=
  qs.all (fun q => q < 2048 && s.slotFree q) && qs.eraseDups.length == qs.length && shares.length == qs.length
    && s.filesOk r ((qs.map (· / 4)).zip shares)

/-! ### Areas in the state pool (R47) -/

def rsArea : Nat := 32768
def msArea : Nat := 4202496

/-- The ranges of a strand's areas. -/
def areaSpans (a : Areas) (save : Nat) (second : Bool) : List (Nat × Nat) :=
  [(a.save, save), (a.rs, rsArea), (a.ms, msArea)] ++ (if second then [(a.save2, save)] else [])

def State.saveOf (s : State) (t : Strand) : Nat :=
  match s.node? t.gang.launch t.gang.node with
  | some n => saveMax n.r.gmax n.r.matrix
  | none => saveMax 3 true

/-- The ranges of a context's state pool in use. -/
def State.poolUsed (s : State) (x : Ctx) : List (Nat × Nat) :=
  (s.all.filter (fun t => t.ctx == x.n)).flatMap (fun t => areaSpans t.areas (s.saveOf t) x.handler.isSome)

def disjointAll : List (Nat × Nat) → Bool
  | [] => true
  | p :: rest => rest.all (fun q => !overlap p.1 p.2 q.1 q.2) && disjointAll rest

/-- May a gang's strands have these areas. -/
def State.areasOk (s : State) (x : Ctx) (r : NodeRec) (as : List Areas) : Bool :=
  let new := as.flatMap (fun a => areaSpans a (saveMax r.gmax r.matrix) x.handler.isSome)
  as.length == r.gangSize && new.all (fun (p : Nat × Nat) => p.1 % 64 == 0 && x.poolBase ≤ p.1 && p.1 + p.2 ≤ x.poolBase + x.poolLen)
    && disjointAll new && new.all (fun p => (s.poolUsed x).all (fun q => !overlap p.1 p.2 q.1 q.2))

/-- Does the pool have the bytes for one more gang. -/
def State.poolRoom (s : State) (x : Ctx) (r : NodeRec) : Bool :=
  let one := saveMax r.gmax r.matrix
  let need := r.gangSize * (one + rsArea + msArea + (if x.handler.isSome then one else 0))
  ((s.poolUsed x).map (·.2)).sum + need ≤ x.poolLen

/-! ### Tiers and keys (R62) -/

/-- Units of a kind that a partition holds. -/
def State.unitsHeld (s : State) (p k : Nat) : Nat :=
  ((s.inPart p).map (fun l => (((List.range l.nodes.length).zip l.nodes).map (fun (i, n) =>
    if n.r.kind != k then 0 else if k = 0 then s.residents l.no i else if n.st == .running then 1 else 0)).sum)).sum

def State.tier (s : State) (l : Launch) (n : Node) : Nat :=
  if l.deadline = 0 ∨ n.demoted ∨ l.missed then 2
  else if s.unitsHeld l.part n.r.kind < (s.part l.part).share n.r.kind then 0 else 1

def State.key (s : State) (l : Launch) (idx : Nat) (n : Node) : List Nat :=
  let t := s.tier l n
  [t, if t < 2 then l.deadline else 0, l.cls, l.no, idx]

/-- The smaller key, field by field. -/
def keyLt : List Nat → List Nat → Bool
  | a :: as, b :: bs => a < b || (a == b && keyLt as bs)
  | _, _ => false

/-! ### Which slots a node can use (R38, R62) -/

/-- Gangs of a node that have not been dispatched. -/
def Node.left (n : Node) : List Nat := (List.range n.r.gangCount).filter (fun g => !n.gangs.contains g)

/-- Is a node in the pool with work to dispatch. Of a launch that has failed or been aborted such a node was dispatched
before, and it runs to completion (R402): the others never are. -/
def Node.dispatchable (n : Node) : Bool := n.st == .pooled || (n.st == .running && n.r.kind == 0 && !n.left.isEmpty)

/-- A gang of the node that waits for residency on a core, other than the one that gave it up: suspended there, or not
yet dispatched. -/
def State.waitsFor (s : State) (c : Nat) (g : GangId) : Bool :=
  (s.strandsOf g.launch g.node).any (fun t => t.live == .saved && t.core == c && t.gang != g)
    || ((s.node? g.launch g.node).map (fun n => n.dispatchable && n.r.kind == 0)).getD false

/-- Do places of a core that a blocked gang gave up await another gang of its node (R38). -/
def State.promised (s : State) (c no idx : Nat) : Bool :=
  s.all.any (fun t => t.live == .saved && t.core == c && 4096 ≤ t.blockedFor && !inNode no idx t && s.waitsFor c t.gang)

/-- Groups of strands that a core can take with the least share. -/
def State.capOf (s : State) (r : NodeRec) (c : Nat) : Nat :=
  let n := min (4 - (s.onCore c).length) ((128 - s.fileUsed c) / (8 * 2 ^ r.gmin))
  if r.matrix then (if s.matrixOn c then 0 else min n 1) else n / r.coreGroup

/-- Can a node use a slot: can a whole gang of it be placed with this slot among its places (R62). -/
def State.usable (s : State) (l : Launch) (idx : Nat) (n : Node) (q : Nat) : Bool :=
  let r := n.r
  let c := q / 4
  n.dispatchable && r.kind == 0 && s.slotFree q && !s.promised c l.no idx && 0 < s.capOf r c
    && r.gangSize / r.coreGroup ≤ ((List.range 8).map (fun i => s.capOf r (c / 8 * 8 + i))).sum
    && s.residents l.no idx + r.gangSize ≤ r.maxw
    && n.left.any (fun g => r.fits (s.homes l.no idx) (g * r.gangSize) q)
    && ((s.ctx? l.ctx).map (fun x => s.poolRoom x r)).getD false

/-- Is another ready node with a smaller key able to use a unit (R62). -/
def State.beaten (s : State) (l : Launch) (idx : Nat) (n : Node) (units : List Nat) : Bool :=
  let mine := s.key l idx n
  s.launches.any (fun m => ((List.range m.nodes.length).zip m.nodes).any (fun (j, k) =>
    k.r.kind == n.r.kind && k.dispatchable && keyLt (s.key m j k) mine
      && (n.r.kind != 0 || units.any (s.usable m j k))))

/-! ### Suspended gangs that wait for their home cores (R26, R32, R63) -/

/-- The bytes that a strand's vector registers need (R32). In handler mode they are the handler's own: what ERET brings
back, MVL with it, follows no grant made since (log entry 126). -/
def Strand.vectorNeed (t : Strand) : Nat :=
  max (64 * ((t.v.toList.take t.vcount).map (·.hw)).foldl max 0) (ceil64 (bytesOf t.vty t.blk t.vl))

/-- Does a share meet R32; in matrix state every share does (R34). -/
def Strand.grantOk (t : Strand) (share : Nat) : Bool := t.inMatrix || t.vectorNeed ≤ 8192 * 2 ^ share / t.vcount

/-- The place of a strand in its gang. -/
def NodeRec.placeIn (r : NodeRec) (t : Strand) : Nat := t.llin % r.gangSize

/-- Can the suspended strands `ts` of a gang resume with these shares: each its own that meets R32, on home cores with
room (R26, R29, R33). -/
def State.resumeOk (s : State) (l : Launch) (idx : Nat) (r : NodeRec) (ts : List Strand) (share : Strand → Nat) : Bool :=
  let cores := ts.map (·.core)
  !ts.isEmpty && ts.all (fun t => t.live == .saved && t.grantOk (share t)) && s.residents l.no idx + ts.length ≤ r.maxw
    && s.filesOk r (ts.map (fun t => (t.core, share t)))
    && cores.all (fun c => (s.onCore c).length + cores.count c ≤ 4 && !s.promised c l.no idx && !s.swapDue (c / 8))

/-- The least share that meets R32 within the node's bounds; 4 when none does. -/
def NodeRec.leastShare (r : NodeRec) (t : Strand) : Nat :=
  ((List.range 4).find? (fun k => r.gmin ≤ k && k ≤ r.gmax && t.grantOk k)).getD 4

/-- The suspended gangs of a node. -/
def State.suspended (s : State) (no idx : Nat) : List GangId :=
  (((s.strandsOf no idx).filter (fun t => t.live == .saved)).map (·.gang)).eraseDups

/-- Some kernel node that goes before tier-2 work of class `cls` meets a condition: one of tier 0 or 1, or one of a lower
class (R63). -/
def State.urgent (s : State) (cls : Nat) (f : Launch → Nat → Node → Bool) : Bool :=
  s.launches.any (fun m => ((List.range m.nodes.length).zip m.nodes).any (fun (j, k) =>
    k.r.kind == 0 && (s.tier m k < 2 || m.cls < cls) && f m j k))

/-- Could a suspended gang that goes before tier-2 work of class `cls` resume on one of these cores: then they are not
idle for that work (R63). -/
def State.claimed (s : State) (cls : Nat) (cores : List Nat) : Bool :=
  s.urgent cls (fun m j k => (s.suspended m.no j).any (fun g =>
    let ts := s.gangStrands g
    s.resumeOk m j k.r ts k.r.leastShare && ts.any (fun t => cores.contains t.core)))

/-- Does work of tier 0 or 1 find no capacity: a ready node with no slot that it can use, a suspended gang that cannot
resume. -/
def State.starved (s : State) : Bool :=
  s.urgent 0 (fun m j k => (k.dispatchable && !(List.range 2048).any (s.usable m j k))
    || (s.suspended m.no j).any (fun g => !s.resumeOk m j k.r (s.gangStrands g) k.r.leastShare))

/-! ### DISPATCH -/

/-- The node record, read again at dispatch (R406), with the predecessors that it names (R54): DETAIL 0 or 1 when it
cannot be used. The order of the launch's nodes stays the one admitted (log entry 94). -/
def State.nodeAgain (s : State) (l : Launch) (idx : Nat) (n : Node) : Except Nat (NodeRec × State) :=
  match devRead s l.ctx l.addr 64 with
  | .error _ => .error 0
  | .ok (h, s) =>
    match devRead s l.ctx (lrNodeTab h + 128 * idx) 128 with
    | .error _ => .error 0
    | .ok (b, s) =>
      match (if ndNPred b = 0 then .ok ([], s) else devRead s l.ctx (lrPredTab h) (4 * lrNPred h)) with
      | .error _ => .error 0
      | .ok (ptab, s) =>
        let r := nodeOf b n.r.preds
        if (predsOf b ptab (lrNPred h) idx).isSome && ndOk b && targetOk s l.ctx r && r.kind == n.r.kind then .ok (r, s)
        else .error 1

/-- A node record refused at dispatch: class 0x22, and the launch ends (R406, R402). -/
def State.refuseNode (s : State) (l : Launch) (idx det : Nat) : State :=
  let f : Flt := ⟨0x22, det, 0#64, BitVec.ofNat 64 idx, BitVec.ofNat 64 l.no⟩
  (s.sendRec (s.hostOfQueue l.q) (plainRec s.time l.ctx 0#64 f)).endNode ⟨l.no, idx, 0⟩

/-- A strand at its start (R20). -/
def startStrand (l : Launch) (idx : Nat) (r : NodeRec) (o : Obj) (oi gang sid i q share : Nat) (a : Areas) : Strand :=
  let x := ((Vector.replicate 32 0#64).set 1 r.args).set 2 (BitVec.ofNat 64 i)
  { Strand.blank with
    id := sid, live := .resident, gang := ⟨l.no, idx, gang⟩, ctx := l.ctx, core := q / 4, place := q % 4,
    spillRs := a.rs, spillMs := a.ms, areas := a, share := share, llin := i,
    lix := (List.range r.levels.length).map (fun k => r.groupAt k i % (r.levels.getD k (1, 0, 0)).1),
    lext := r.levels.map Prod.fst }.fresh o oi r.target (r.seed ^^^ BitVec.ofNat 64 i) x

/-- The code object of an entry point, with its place (R340). -/
def objAt (x : Ctx) (a : Nat) : Option (Nat × Obj) :=
  ((List.range x.objs.length).zip x.objs).find? (fun (_, o) => o.entries.contains a)

/-- Start a gang of a kernel node. -/
def State.startGang (s : State) (x : Ctx) (l : Launch) (idx : Nat) (r : NodeRec) (gang : Nat) (qs shares : List Nat)
    (as : List Areas) : State :=
  match objAt x r.target.toNat with
  | none => s
  | some (oi, o) =>
    let new := (List.range r.gangSize).map (fun j =>
      startStrand l idx r o oi gang (s.nextSid + j) (gang * r.gangSize + j) (qs.getD j 0) (shares.getD j 0)
        (as.getD j ⟨0, 0, 0, 0⟩))
    { s with strands := s.strands ++ new, nextSid := s.nextSid + r.gangSize }

/-- May a gang be dispatched to these slots (R23, R26, R29, R47, R62). -/
def State.gangOk (s : State) (x : Ctx) (l : Launch) (idx : Nat) (n : Node) (gang : Nat) (qs shares : List Nat)
    (as : List Areas) : Bool :=
  let r := n.r
  let new : List (Nat × Nat) := (List.range r.gangSize).map (fun j => (gang * r.gangSize + j, qs.getD j 0))
  n.left.contains gang && qs.length == r.gangSize && s.slotsOk r qs shares
    && s.residents l.no idx + r.gangSize ≤ r.maxw
    && (new.all fun p => r.fits (s.homes l.no idx ++ new) p.1 p.2)
    && qs.all (fun q => !s.promised (q / 4) l.no idx) && s.areasOk x r as

/-- Is a unit of an engine kind free for a node: room on a channel, an interface without a node, room at a walker. -/
def State.unitFree (s : State) (k u : Nat) : Bool :=
  match k with
  | 1 => u < 64 && (s.cluster u).runsHeld < 8
  | 2 => u < 2048 && ((s.core (u / 4)).onChan (u % 4)).length < 4
  | 3 => u < 4 && !s.launches.any (fun l => l.nodes.any (fun n => n.r.kind == 3 && n.st == .running && n.unit == u))
  | _ => false

/-- DISPATCH (R62): a gang of a kernel node starts on the slots given, or an engine takes a node. Work of tier 2 takes only
what tiers 0 and 1, and lower classes of its own tier, leave idle (R63). -/
def execDispatch (launch node gang : Nat) (places : List Nat) (shares : List (BitVec 2)) (areas : List Areas) (s : State) :
    Res :=
  match s.launch? launch, s.node? launch node with
  | some l, some n =>
    match s.ctx? l.ctx with
    | none => .next s
    | some x =>
      let ks := shares.map (·.toNat)
      let ok := if n.r.kind = 0 then
          s.gangOk x l node n gang places ks areas && !(s.tier l n == 2 && s.claimed l.cls (places.map (· / 4)))
        else places.length == 1 && s.unitFree n.r.kind (places.headD 0)
      if !n.dispatchable || !ok || s.beaten l node n places then .next s
      else
        match (if n.st == .pooled then s.nodeAgain l node n else .ok (n.r, s)) with
        | .error det => .next (s.refuseNode l node det)
        | .ok (r, t) =>
          let u := t.setNode launch node { n with
            r := r, st := .running, gangs := n.gangs ++ [gang], unit := places.headD 0 }
          if r.kind = 0 then .next (u.startGang x l node r gang places ks areas)
          else .next (startNode u l { n with r := r } node (places.headD 0))
  | _, _ => .next s

/-! ### Pre-emption (R25, R36, R39 to R43, R197, R215) -/

/-- Put the strand in front away: the matrix queue has drained, the stacks are spilled, the save area is written. The
reservation is lost, and a wait executes again. `yielded` keeps the count of blocked cycles. -/
def State.suspendMe (s : State) (yielded : Bool) : State :=
  let t := s.drain
  let u := t.saveMe t.me.pc
  u.setMe { u.me with
    live := .saved, resv := none, blocked := none, hold := none, stopAt := none, yieldFor := [], yieldLeft := 0,
    blockedFor := if yielded then u.me.blockedFor else 0 }

/-- Put strands away, one after the other; none when one of them cannot be. -/
def suspendAll (yielded : Bool) : List Nat → State → Option State
  | [], s => some s
  | sid :: rest, s =>
    match s.select sid with
    | none => none
    | some t =>
      if t.me.awaiting || t.me.mustTake || !t.drained then none else suspendAll yielded rest (t.suspendMe yielded)

/-- Pre-empt a gang: every strand of it that exists, together. None while one of them is not at a pre-emption point, or
has a fault to take there first (R397). -/
def State.suspendGang (s : State) (g : GangId) (yielded : Bool) : Option State :=
  let ts := s.gangStrands g
  if ts.isEmpty || !ts.all Strand.resident then none else suspendAll yielded (ts.map (·.id)) s

def optNext (s : State) (r : Option State) : Res := .next (r.getD s)

/-- The resident gangs of a tier, with their keys. -/
def State.gangsOfTier (s : State) (t : Nat) : List (List Nat × GangId) :=
  ((s.all.filter Strand.resident).map (·.gang)).eraseDups.filterMap (fun g =>
    match s.launch? g.launch, s.node? g.launch g.node with
    | some l, some n => if s.tier l n = t then some (s.key l g.node n ++ [g.gang], g) else none
    | _, _ => none)

/-- The gang with the largest key. -/
def largestKey : List (List Nat × GangId) → Option GangId
  | [] => none
  | x :: xs => some (xs.foldl (fun m y => if keyLt m.1 y.1 then y else m) x).2

/-- PREEMPTION (R39, R40): a resident gang is pre-empted to free its cluster for a spare (R366), or, where it is the gang of
tier 2 with the largest key, for work of tier 0 or 1 that finds no capacity (R63, log entry 127). -/
def execPreemption (launch node gang : Nat) (s : State) : Res :=
  let g : GangId := ⟨launch, node, gang⟩
  let last := largestKey (s.gangsOfTier 2) == some g
  if (last && s.starved) || (s.gangStrands g).any (fun t => s.swapDue t.cluster) then optNext s (s.suspendGang g false)
  else .next s

/-- PREEMPT_FOR_TIER0 (R63): a tier-0 node is ready and no slot it can use is free; the gang of tier 2, failing that of
tier 1, with the largest key is pre-empted. So it is also where the node lacks only room under MAXW or bytes of the state
pool, which no freed slot brings: R63 makes no exception (log entry 128). -/
def execPreemptForTier0 (launch node : Nat) (s : State) : Res :=
  match s.launch? launch, s.node? launch node with
  | some l, some n =>
    if !n.dispatchable || n.r.kind != 0 || s.tier l n != 0
        || (List.range 2048).any (s.usable l node n) then .next s
    else
      match (largestKey (s.gangsOfTier 2)).orElse (fun _ => largestKey (s.gangsOfTier 1)) with
      | some g => optNext s (s.suspendGang g false)
      | none => .next s
  | _, _ => .next s

/-- RESIDENCY_YIELD (R38): a gang whose strands have all been blocked for 4,096 cycles gives up its places while another
gang of its node waits for them. -/
def execResidencyYield (launch node gang : Nat) (s : State) : Res :=
  let g : GangId := ⟨launch, node, gang⟩
  let ts := s.gangStrands g
  if ts.all (fun t => t.blocked.isSome && 4096 ≤ t.blockedFor) && ts.any (fun t => s.waitsFor t.core g) then
    optNext s (s.suspendGang g true)
  else .next s

/-! ### Resumption (R26, R30, R32, R43, R46, R197, R399) -/

/-- Bring the strand in front back to a place of its home core: its saved fields, its latch set, MVL lowered to a smaller
capacity, its stacks reloaded. -/
def State.resumeMe (s : State) (place share : Nat) : State :=
  let st := loadBytes s.me (s.savedBytes s.me.saveArea)
  let st := { st with live := .resident, place := place, share := share, latch := true, blockedFor := 0 }
  let st := if st.inMatrix then st else { st with mvl := min st.mvl (8192 * 2 ^ share / st.vcount) }
  match (s.setMe st).reloadStacks with
  | (t, none) => t
  | (t, some (d, a)) => t.takeFault (t.me.spillFlt d a) t.me.pc 0

/-- The lowest free place of a core. -/
def State.freePlace (s : State) (c : Nat) : Option Nat := (List.range 4).find? (fun p => s.slotFree (4 * c + p))

/-- Bring strands back one after the other, each with its share. -/
def resumeAll (share : Strand → Nat) : List Nat → State → Option State
  | [], s => some s
  | sid :: rest, s =>
    match s.select sid with
    | none => resumeAll share rest s
    | some t =>
      match t.freePlace t.me.core with
      | none => none
      | some p => resumeAll share rest (t.resumeMe p (share t.me))

/-- RESUMPTION (R25, R26): a pre-empted gang becomes resident on its home cores, each strand under a new grant of its own
(R29, R32). Tier-2 work takes only what tiers 0 and 1, and lower classes of its own tier, leave idle (R63). -/
def execResumption (launch node gang : Nat) (shares : List (BitVec 2)) (s : State) : Res :=
  let ts := s.gangStrands ⟨launch, node, gang⟩
  match s.launch? launch, s.node? launch node with
  | some l, some n =>
    let share (t : Strand) : Nat := (shares.getD (n.r.placeIn t) 0).toNat
    let cores := ts.map (·.core)
    let slots := cores.flatMap (fun c => (List.range 4).map (4 * c + ·))
    let yields := s.tier l n == 2
      && (s.urgent l.cls (fun m j h => h.dispatchable && slots.any (s.usable m j h)) || s.claimed l.cls cores)
    if !s.resumeOk l node n.r ts share || yields then .next s else optNext s (resumeAll share (ts.map (·.id)) s)
  | _, _ => .next s

/-! ### Nodes: pool entry, completion, demotion, time, deadlines -/

/-- POOL_ENTRY (R61): waiting nodes of a launch enter the pool as entries free. -/
def execPoolEntry (launch _node : Nat) (s : State) : Res :=
  match s.launch? launch with
  | some l => .next (if l.failed || l.aborted then s else s.setLaunch l.advance)
  | none => .next s

/-- Engine transfers of a node's strands that have not completed, and reclamations that hold RECL set (R64, R386). -/
def State.nodeTransfers (s : State) (g : GangId) : Bool :=
  let mine (i : Issuer) : Bool := sameNode i.gang g
  s.cores.any (fun c => c.2.copies.any (fun p => mine p.iss)) || s.fabs.any (fun f => mine f.iss)
    || s.clusters.any (fun k => k.2.runs.any (fun r => mine r.iss) || (k.2.wst.map (fun w => mine w.run.iss)).getD false
      || k.2.recls.any (fun r => mine r.iss))

/-- NODE_COMPLETE (R64). In a replay a node with a read record left unused diverges (R455). -/
def execNodeComplete (launch node : Nat) (s : State) : Res :=
  match s.node? launch node with
  | none => .next s
  | some n =>
    let g : GangId := ⟨launch, node, 0⟩
    let whole := if n.r.kind = 0 then n.left.isEmpty && n.exited == n.r.total && !s.nodeTransfers g else n.ended
    if n.st != .running || !whole then .next s
    else
      let t := if s.replay.isSome && n.r.kind == 3 && (s.logFind 4 (logTag (nodeIdOf g) 0) 2).isSome then
        s.diverge 1 0#64 (nodeIdOf g) else s
      .next (t.nodeDone g)

/-- DEMOTION (R65): a node's charge has reached its BUDGET. -/
def execDemotion (launch node : Nat) (s : State) : Res :=
  match s.node? launch node with
  | none => .next s
  | some n =>
    .next (if n.st == .running && n.r.kind != 4 && n.r.budget ≤ n.charge && !n.demoted then
      s.setNode launch node { n with demoted := true } else s)

/-- The store of a timed node (R66); the error is the class it is reported as, with FADDR the address it names (R430). -/
def timedStore (s : State) (cx a : Nat) (v : Word) : Except Flt State :=
  if a = 0 then .ok s
  else
    match devAccess s cx a 8 .write with
    | .error (d, _) => .error ⟨0x41, d, BitVec.ofNat 64 a, 0#64, 0#64⟩
    | .ok (bs, t) =>
      match bs.find? (fun b => s.wbad.contains b.loc) with
      | some b => .error ⟨0x42, badDetail b, BitVec.ofNat 64 a, 0#64, 0#64⟩
      | none => .ok (t.pokeByts bs (toLE 8 v.toNat))

/-- TIMED_NODE_FIRE (R66): recorded as a wait point (R375), and in a replay due at its wait point (R455). -/
def execTimedNodeFire (launch node : Nat) (s : State) : Res :=
  match s.launch? launch, s.node? launch node with
  | some l, some n =>
    let g : GangId := ⟨launch, node, 0⟩
    let tag := logTag (nodeIdOf g) 0
    let due := s.logDue 7 tag 0
    let reached : Bool := if s.replay.isSome then due.isSome else decide (n.r.target ≤ s.time)
    if n.r.kind != 4 || !(n.st == .ready || n.st == .pooled) || !reached then .next s
    else
      let t := match due with
        | some r => s.applied r
        | none => s.logRec 7 0 tag (toLE 8 1 ++ toLE 8 0 ++ toLE 8 s.time.toNat)
      match timedStore t l.ctx n.r.args.toNat n.r.seed with
      | .ok u => .next (u.nodeDone g)
      | .error f => .next (t.pend (nodeIssuer l node 0) f 0)
  | _, _ => .next s

/-- DEADLINE_MISSED (R405): TIME has passed the DEADLINE of a launch that has not completed. -/
def execDeadlineMissed (launch : Nat) (s : State) : Res :=
  match s.launch? launch with
  | none => .next s
  | some l =>
    if l.deadline = 0 ∨ l.missed ∨ s.time.toNat ≤ l.deadline then .next s
    else
      let f : Flt := ⟨0x20, 0, 0#64, BitVec.ofNat 64 l.deadline, BitVec.ofNat 64 l.no⟩
      .next ((s.sendRec (s.hostOfQueue l.q) (plainRec s.time l.ctx 0#64 f)).setLaunch { l with missed := true })

/-- DEFERRED_FAILURE_TAKEN (R410): a strand takes its first pending failure or trap at a pre-emption point; a wait that
it was in is at the saved PC. -/
def execDeferredFailureTaken (sid : Nat) (s : State) : Res :=
  match s.select sid with
  | none => .next s
  | some t =>
    if t.me.live != .resident || t.me.awaiting then .next s
    else optNext s ((t.setMe { t.me with blocked := none, hold := none }).takePending)

end Sys2Proof.Machine
end

