-- ==== Sys2Proof/Machine/Platform.lean ====
section
/-! DEFINITION. The module controller: commands 0x11 to 0x1B (R359, R362, R364, R368 to R370, R372, R374, R452 to R455),
monitors and spares (R362, R363, R366, R447), hard failures (R448), checkpoints (R370, R371, R373, R450, R451) and boot
(R367). -/

namespace Sys2Proof.Machine

/-! ### Monitors, firmware, attestation -/

/-- A core under a new floor (R359): from the next window on B is not below it; a core that is at the floor then is so since
now at the latest, and one above it is held there no longer (R363). -/
def State.floored (s : State) (floor : Nat) (k : Core) : Core :=
  if k.nextBudget < floor then s.setBudget floor k floor
  else { k with floorAt := if k.nextBudget = floor then some (k.floorAt.getD s.time.toNat) else none }

/-- GOVSET (R359). -/
def execGovset (c : Cmd) (s : State) : Res :=
  s.serve 0x11 [0] false 0 c (fun s =>
    let g := c.arg0.toNat
    if s.loaded then reply refusedState s
    else if 256 < g then reply malformed s
    else reply done { s with gfloor := g, cores := s.cores.map (fun e => (e.1, s.floored g e.2)) })

/-- A write into the memory of the host that sent a command, over the lane if the command came there (R365). -/
def State.toHost (s : State) (c : Cmd) (a : Word) (bs : List Byte) : State := s.emit (.hostWrite c.src c.lane a.toNat bs)

/-- MONREAD (R362): the latest samples, as far as the length given. -/
def execMonread (c : Cmd) (s : State) : Res :=
  s.serve 0x12 [0, 1] false 0 c (fun s =>
    reply done (s.toHost c c.arg0 ((Config.monitorBytes s.firmware s.samples).take c.arg1.toNat)))

/-- DTHASH: of the table that FWLOAD installed, or of the one held since reset (R369; log entry 133). -/
def State.tableHash (s : State) : Nat := (s.decImage.map Config.sha384).getD Config.tableHash

/-- Bytes 0x000 to 0x0FF of the report (R369). -/
def reportBody (s : State) (nonce : List Byte) (objs : List Obj) (named : Bool) : List Byte :=
  toLE 4 0x0004000E ++ toLE 4 0 ++ nonce ++ toLE 8 s.decver.toNat ++ toLE 8 (Config.imageVersion s.firmware).toNat
    ++ toLE 8 Config.rollbackCount.toNat ++ toLE 48 (Config.sha384 s.firmware) ++ toLE 48 s.tableHash
    ++ toLE 48 (if named then Config.sha384 (objs.flatMap (·.image)) else 0) ++ toLE 8 Config.serial.toNat ++ zeros 40

/-- ATTEST (R369). -/
def execAttest (c : Cmd) (s : State) : Res :=
  s.serve 0x13 [0, 1] false 32 c (fun s =>
    let x := s.ctx? c.arg1.toNat
    if c.arg1 ≠ 0#64 ∧ x.isNone then reply malformed s
    else
      let b := reportBody s c.payload ((x.map (·.objs)).getD []) (c.arg1 != 0#64)
      reply done (s.toHost c c.arg0 (b ++ toLE 384 (Config.signRsa b) ++ toLE 16224 (Config.signSlh b))))

/-- Do both signatures of an image verify, with a rollback number that is high enough (R367). -/
def imageOk (b : List Byte) : Bool := Config.signaturesVerify b && Config.rollbackCount.toNat ≤ Config.imageRollback b

/-- FWLOAD (R368): `image` is what the host's memory holds at ARG0. -/
def execFwload (c : Cmd) (image : List Byte) (s : State) : Res :=
  s.serve 0x14 [0, 1] false 0 c (fun s =>
    let s := s.logBrought ⟨[], [], [], image⟩
    let n := c.arg1.toNat
    let b := (image ++ zeros (n - image.length)).take n
    if s.loaded then reply refusedState s
    else if !imageOk b then reply ⟨0, 1#64, 0#64⟩ s
    else if Config.imageIsDecodeTable b then reply done { s with decTable := Config.imageVersion b, decImage := some b }
    else reply done { s with nextFirmware := some b })

/-! ### The state area's header (R452) -/

def ckFmt : Nat := 0x00040010
def ckStateOf (b : List Byte) : Nat := field b 4 1
def ckDirty (b : List Byte) : Bool := (field b 5 1).testBit 0

def State.ckHead (s : State) : Option (List Byte) := s.ckArea.map (fun a => s.readP a.1 64)

/-- Write part of the header. -/
def State.ckPut (s : State) (off n v : Nat) : State :=
  match s.ckArea with
  | some (a, _) => s.writeP (a + off) (toLE n v)
  | none => s

/-! ### CKPT (R371, R372) -/

/-- Do all accepted launches pass under these holds, at the deadlines of `at'` (R48, R372). -/
def State.holdsPass (s : State) (holds : List Nat) (at' : Nat → Bool) : Bool :=
  (List.range 16).all (fun p => partOk (s.part p) holds s.time.toNat (s.inPart p) at')

def holdLen : Nat := 1000000000

/-- Where the shape of h(d) changes as the start of a hold moves. -/
def holdPoints (s : State) : List Nat :=
  let t0 := s.time.toNat
  let ds := (s.launches.filter (fun l => l.deadline != 0)).map (·.deadline)
  let ps := t0 :: (ds.flatMap (fun d => [d, d - holdLen]) ++ s.holds.flatMap (fun h => [h - holdLen, h, h + holdLen]))
  ((ps.filter (t0 ≤ ·)).mergeSort).eraseDups

/-- The smallest value from `lo` to `hi` at which a test holds that holds at `hi` and never fails again, by halves. -/
def bisect (test : Nat → Bool) : Nat → Nat → Nat → Nat
  | 0, _, hi => hi
  | n + 1, lo, hi =>
    if hi ≤ lo then hi
    else if test ((lo + hi) / 2) then bisect test n lo ((lo + hi) / 2) else bisect test n ((lo + hi) / 2 + 1) hi

/-- The smallest passing start in a region where every h(d) is monotone: the conditions that a later start helps give
it by halves, and the others are then tested there. -/
def leastStart (s : State) (lo hi : Nat) : Option Nat :=
  let h (x d : Nat) : Nat := heldIn (x :: s.holds) s.time.toNat d
  let eased (d : Nat) : Bool := h hi d ≤ h lo d
  let test (x : Nat) : Bool := s.holdsPass (x :: s.holds) eased
  let x := bisect test (Nat.log2 (hi - lo) + 1) lo hi
  if test hi && s.holdsPass (x :: s.holds) (fun _ => true) then some x else none

/-- The smallest start at which a CKPT would be accepted (R372), if one is. -/
def State.earliestStart (s : State) : Option Nat :=
  let ps := holdPoints s
  (ps.zip (ps.drop 1 ++ [ps.getLast?.getD 0 + holdLen + 1])).findSome? (fun r => leastStart s r.1 r.2)

/-- VAL1 when no start would do is not stated: a free value (log entry 5). -/
def State.startOrFree (s : State) : Word × State :=
  match s.earliestStart with
  | some x => (BitVec.ofNat 64 x, s)
  | none => (Config.freeWord s.fresh, { s with fresh := s.fresh + 1 })

/-- CKPT (R371, R372). A start that has passed is now. -/
def execCkpt (c : Cmd) (s : State) : Res :=
  s.serve 0x15 [0, 1] false 0 c (fun s =>
    if 1 < c.arg0.toNat then reply malformed s
    else if s.ckArea.isNone then reply refusedState s
    else
      let start := max c.arg1.toNat s.time.toNat
      let (v, t) := s.startOrFree
      if s.holdsPass (start :: s.holds) (fun _ => true) then
        reply ⟨0, 0#64, v⟩ { t with ckAsked := t.ckAsked ++ [(start, c.arg0 == 1#64)], holds := t.holds ++ [start] }
      else reply ⟨0, 1#64, v⟩ t)

/-- Does a range lie in LPDDR6 program memory, clear of the other region and of every state pool (R370, R374). -/
def areaFree (s : State) (other : Option (Nat × Nat)) (a n : Nat) : Bool :=
  inLp a n && !hits other a n && s.ctxs.all (fun x => !overlap a n x.poolBase x.poolLen)

/-- CKPTCFG (R370): an image stays with the area that holds it; an area at another address has its header written, with
CKSTATE 0 (R452). -/
def execCkptcfg (c : Cmd) (s : State) : Res :=
  s.serve 0x16 [0, 1] false 0 c (fun s =>
    let a := c.arg0.toNat
    let n := c.arg1.toNat
    if s.loaded then reply refusedState s
    else if n < 2 ^ 30 ∨ !areaFree s s.logArea a n then reply malformed s
    else
      let t := { s with ckArea := some (a, n) }
      if s.ckArea.map (·.1) = some a then reply done t
      else reply done { t.writeP a (toLE 4 ckFmt ++ zeros 60) with image := none, dirtyArmed := false })

/-- LOGCFG (R374): recording begins at the next checkpoint. -/
def execLogcfg (c : Cmd) (s : State) : Res :=
  s.serve 0x17 [0, 1] false 0 c (fun s =>
    let a := c.arg0.toNat
    let n := c.arg1.toNat
    if s.loaded then reply refusedState s
    else if n % 2 ^ 21 ≠ 0 ∨ !areaFree s s.ckArea a n then reply malformed s
    else reply done { s with logArea := some (a, n), logPos := 0, logOn := false })

/-! ### A checkpoint (R371, R450, R451) -/

/-- The gangs that are resident stop at their next pre-emption point and are saved. -/
def State.saveAll (s : State) : Option State :=
  suspendAll false ((s.all.filter Strand.resident).map (·.id)) s

/-- A CKFLAGS bit of the model's own, not written: the module powers down after step 4 of R371 (R450). -/
def downAfter : Nat := 8

/-- Steps 1 to 3 of R371: an image is being written from here on. A hold in which the work already stands goes on. -/
def State.beginCk (s : State) (resume : Bool) (flags : Nat) : Option State :=
  s.saveAll.map (fun t =>
    { (t.ckPut 0 4 ckFmt).ckPut 4 1 1 with
      ckRun := some ⟨s.time, resume, flags⟩, heldFrom := some (t.heldFrom.getD s.time), image := none })

/-- Nothing executes any more; LPDDR6 and the safe tier keep their contents (R450). -/
def State.powerDown (s : State) : State := { s with boot := .down }

/-- HBM as it is copied into the safe tier (R370). -/
def copyHbm (m : List Host.Cell) : List Host.Cell :=
  m.filter (fun c => !isSafe c.1 && c.1 < safeEnd)
    ++ (m.filter (fun c => isHbm c.1)).map (fun c => (safeBase + c.1, c.2)) ++ m.filter (fun c => safeEnd ≤ c.1)

/-- The on-die state of an image (R370). -/
def State.onDie (s : State) : Image where
  strands := s.all
  cores := s.cores
  clusters := s.clusters
  scratch := s.mem.filter (fun c => safeEnd ≤ c.1)
  ctxs := s.ctxs
  parts := s.parts
  queues := s.queues
  wins := s.wins
  groups := s.groups
  launches := s.launches
  fabs := s.fabs
  nextLaunch := s.nextLaunch
  nextSid := s.nextSid
  nextOp := s.nextOp
  rate := s.rate
  ebound := s.ebound
  bc := s.bc
  lock := s.lock
  ptpDomain := s.ptpDomain
  ptpPorts := s.ptpPorts
  ptpPeer := s.ptpPeer
  ckAsked := s.ckAsked
  holds := s.holds

/-- Logline starts again at the beginning of its region, after a marker record (R374). -/
def State.markLog (s : State) : State :=
  match s.logArea with
  | none => s
  | some _ =>
    let t := { s with logOn := true, logPos := 0, logDec := [], coh := [], places := [], loads := [] }.logRec 6 0 (BitVec.ofNat 64 (s.ckSeq + 1)) []
    { t with logMarker := t.lseq }

/-- Timed puts whose TREL fell inside the hold (R424). -/
def holdPuts (start now : Word) (f : FabOp) : FabOp :=
  let trel := BitVec.ofNat 64 (xTrel f.xdesc)
  if xOp f.xdesc == 5 && xTimed f.xdesc && f.sentAt.isNone && start ≤ trel && trel ≤ now then { f with heldOver := true }
  else f

/-- Step 4 of R371: the image, its header, and event 0x06. CKSTATE becomes 2 last (R451). -/
def State.writeImage (s : State) (k : CkRun) : State :=
  let t := s.markLog
  let q := t.ckSeq + 1
  let t := { t with mem := copyHbm t.mem }
  let t := ((t.ckPut 5 1 (k.flags % 8)).ckPut 6 2 0).ckPut 8 8 q
  let t := ((t.ckPut 0x10 8 k.start.toNat).ckPut 0x18 8 s.time.toNat).ckPut 0x20 8 s.decver.toNat
  let t := ((t.ckPut 0x28 8 (if s.logArea.isSome then t.lseq else 0)).ckPut 0x30 8 Config.stateLen.toNat).ckPut 0x38 8 0
  let t := { t.ckPut 4 1 2 with ckSeq := q, ckEnd := s.time, image := some t.onDie }
  t.health 6 0 (BitVec.ofNat 64 q)

/-- CKPT_COMPLETE (R371): the image is complete; everything continues if that was asked for. Otherwise the work is
held, or the module powers down (R450), or answers only what R448 lists. An accepted interval counts for admissions until it
has passed (R372). -/
def execCkptComplete (s : State) : Res :=
  match s.ckRun with
  | none => .next s
  | some k =>
    let t := s.writeImage k
    let t := { t with
      ckRun := none, heldFrom := if k.resume then none else t.heldFrom,
      holds := t.holds.filter (fun h => s.time.toNat < h + holdLen),
      fabs := t.fabs.map (holdPuts (t.heldFrom.getD k.start) s.time) }
    .next (
      if downAfter ≤ k.flags then t.powerDown
      else if k.flags.testBit 2 then { t with boot := .maintenance, held := true }
      else { t with held := !k.resume, dirtyArmed := k.resume })

/-- A checkpoint at once, without resumption, after which the module powers down (R450). It joins one in progress; it
abandons a replay, whose image stays valid (R451). With no state area nothing is written. -/
def State.emergency (s : State) (flags : Nat) : Option State :=
  match s.ckRun with
  | some k => some { s with ckRun := some { k with resume := false, flags := k.flags ||| flags ||| downAfter } }
  | none =>
    if s.replay.isSome ∨ s.ckArea.isNone then some { s.powerDown with replay := none }
    else s.beginCk false (flags ||| downAfter)

/-- A trigger of R450. While some gang has not come to its pre-emption point the checkpoint stays due. -/
def State.triggered (s : State) (flags : Nat) : State :=
  match s.emergency flags with
  | some t => { t with trigger := none }
  | none => { s with trigger := some ((s.trigger.getD 0) ||| flags) }

/-- PROTECTION_POINT (R358, R363, R450): event 0x02 names the die, then a checkpoint. -/
def execProtectionPoint (p : Protection) (s : State) : Res :=
  .next (if s.booted then (s.health 2 (4096 * p.die) (BitVec.ofNat 64 p.reading)).triggered 0 else s)

/-- POWER_LOSS (R450): the supply has stayed below 40 V for 100 µs; CKFLAGS bit 1. -/
def execPowerLoss (s : State) : Res := .next (if s.booted then s.triggered 2 else s)

/-- CKPT_START (R371): a checkpoint that a trigger left due, or an accepted one whose start has come; after a unit is lost
with no spare it carries CKFLAGS bit 2 (R448, R450). -/
def execCkptStart (s : State) : Res :=
  match s.trigger, s.ckAsked.find? (fun a => a.1 ≤ s.time.toNat) with
  | some f, _ => .next (if s.booted then s.triggered f else s)
  | none, none => .next s
  | none, some a =>
    if s.ckRun.isSome || !s.booted || s.ckArea.isNone then .next s
    else optNext s ((s.beginCk (a.2 && !s.noSpare) (if s.noSpare then 4 else 0)).map (fun t =>
      { t with ckAsked := t.ckAsked.erase a }))

/-! ### RESTORE, REPLAY, CKINFO, SPARES (R453 to R455) -/

/-- Timed puts whose TREL has passed are reported as issued after it (R454). -/
def lateIssue (now : Word) (f : FabOp) : FabOp :=
  if xOp f.xdesc == 5 && xTimed f.xdesc && f.sentAt.isNone && decide (BitVec.ofNat 64 (xTrel f.xdesc) < now) then
    { f with issued := now }
  else f

/-- A core of an image in the place of the same core now: the window that runs keeps its budget and its starts, and the
image's budget, raised to the floor, holds from the next window on (R271, R359). -/
def State.coreBack (s : State) (c : Nat) (k : Core) : Core :=
  let now := s.gov c
  s.setBudget s.gfloor
    { k with budget := now.budget, window := now.window, used := now.used, next := now.next, floorAt := now.floorAt }
    (max s.gfloor k.nextBudget)

/-- The cores of an image, and those that it does not list. -/
def State.coresBack (s : State) (ks : List (Nat × Core)) : List (Nat × Core) :=
  ks.map (fun e => (e.1, s.coreBack e.1 e.2))
    ++ (s.cores.filter (fun e => !ks.any (fun k => k.1 == e.1))).map (fun e => (e.1, s.coreBack e.1 Core.reset))

/-- Bring an image back (R454): HBM from the safe tier, the on-die state with TIME's discipline, the contexts, the holds
accepted before it (R372). What counted writes is empty: the records after the image count from it (R375). -/
def State.bringBack (s : State) (i : Image) : State :=
  let mem := (s.mem.filter (fun c => isSafe c.1)).map (fun c => (c.1 - safeBase, c.2))
    ++ s.mem.filter (fun c => hbmEnd ≤ c.1 && c.1 < safeEnd) ++ i.scratch
  { s with
    me := Strand.blank
    strands := i.strands
    cores := s.coresBack i.cores
    clusters := i.clusters
    mem := mem
    bad := s.bad.filter (fun a => hbmEnd ≤ a && a < safeEnd)
    ctxs := i.ctxs
    parts := i.parts
    queues := i.queues
    wins := i.wins
    groups := i.groups
    launches := i.launches
    fabs := i.fabs.map (lateIssue s.time)
    nextLaunch := i.nextLaunch
    nextSid := i.nextSid
    nextOp := i.nextOp
    rate := i.rate
    ebound := i.ebound
    bc := i.bc
    lock := i.lock
    ptpDomain := i.ptpDomain
    ptpPorts := i.ptpPorts
    ptpPeer := i.ptpPeer
    ckAsked := i.ckAsked
    holds := i.holds
    coh := []
    frozen := false
    held := false
    heldFrom := none
    dirtyArmed := true }

/-- The conditions of RESTORE and REPLAY (R453), with the header and the image. After a replay the contexts that stay
loaded and frozen do not hinder a RESTORE (R455). -/
def State.usableImage (s : State) (rewritten overFrozen : Bool) : Option (List Byte × Image) :=
  match s.ckHead, s.image with
  | some h, some i =>
    if (s.loaded && !(overFrozen && s.frozen)) || ckStateOf h != 2 || (ckDirty h && !rewritten) then none else some (h, i)
  | _, _ => none

/-- With ARG1 bit 0 the module clears LDIRTY (R453). -/
def State.trustLp (s : State) (h : List Byte) (rewritten : Bool) : State :=
  if rewritten then s.ckPut 5 1 (field h 5 1 / 2 * 2) else s

/-- RESTORE (R454). -/
def execRestore (c : Cmd) (s : State) : Res :=
  s.serve 0x18 [1] false 0 c (fun s =>
    let w := c.arg1 == 1#64
    if 1 < c.arg1.toNat then reply malformed s
    else
      match s.usableImage w true with
      | none => reply refusedState s
      | some (h, i) => reply ⟨0, BitVec.ofNat 64 (field h 8 8), 0#64⟩ ((s.trustLp h w).bringBack i))

/-- REPLAY (R455): it replies when the replay stops. No checkpoint that the image's holds announce starts in it. -/
def execReplay (c : Cmd) (s : State) : Res :=
  s.serve 0x19 [0, 1] false 0 c (fun s =>
    let w := c.arg1 == 1#64
    if 1 < c.arg1.toNat then reply malformed s
    else
      match s.usableImage w false with
      | none => reply refusedState s
      | some (h, i) =>
        match s.logAll.find? (fun r => r.ltype == 6 && r.tag.toNat == field h 8 8) with
        | none => reply refusedState s
        | some m =>
          let t := (s.trustLp h w).bringBack i
          ({ t with ckAsked := [], replay := some ⟨c.src, c.lane, c.tag, c.arg0.toNat, m.next, m.lseq + 1⟩ }, none))

/-- CKINFO (R452, R453). -/
def execCkinfo (c : Cmd) (s : State) : Res :=
  s.serve 0x1A [0] false 0 c (fun s =>
    match s.ckHead with
    | some h => reply done (s.toHost c c.arg0 h)
    | none => reply refusedState s)

/-- Spares of a kind that remain in the module. -/
def State.sparesOf (s : State) (kind all : Nat) : Nat := all - (s.spent.filter (fun x => x.1 == kind)).length

/-- SPARES (R453). -/
def execSpares (c : Cmd) (s : State) : Res :=
  s.serve 0x1B [] false 0 c (fun s =>
    let v := s.sparesOf 1 64 + s.sparesOf 2 128 * 2 ^ 16 + s.sparesOf 3 128 * 2 ^ 32 + s.sparesOf 4 12 * 2 ^ 48
    reply ⟨0, BitVec.ofNat 64 v, BitVec.ofNat 64 (s.sparesOf 5 (12 * Config.spareRows))⟩ s)

/-! ### Monitors and spares (R362, R363, R366, R447) -/

/-- Is a number a UNIT of R363, with `n` units of its kind on each die. -/
def unitOk (n unit : Nat) : Bool := unit / 4096 < 4 && unit % 4096 < n

/-- The monitors that a module has (R9, R362, R447): 32 temperature sensors and 8 rails for each die, an oscillator for each
core and bank, three stacks, 256 page-table walkers and three ports of eight lanes on each die; every row has its count. -/
def Sensor.fitted : Sensor → Bool
  | .temperature d i => d < 4 && i < 32
  | .rail d i => d < 4 && i < 8
  | .coreDrift u => unitOk 128 u
  | .bankDrift c b => unitOk 16 c && b < 64
  | .stack u => unitOk 3 u
  | .failedTest k u => (k == 1 && unitOk 128 u) || (k == 3 && unitOk 256 u)
  | .corrected k u p => (k == 2 && unitOk 16 u && p < 64) || (k == 5 && unitOk 3 u)
  | .fec p l => unitOk 3 p && l < 8

/-- The unit that a sensor watches (R447): its kind, UNIT and number there; none for what the governor alone uses. -/
def Sensor.unit? : Sensor → Option (Nat × Nat × Nat)
  | .coreDrift u => some (1, u, 0)
  | .bankDrift c b => some (2, c, b)
  | .failedTest k u => some (k, u, 0)
  | .corrected k u p => some (k, u, p)
  | .fec p l => some (4, p, l)
  | .temperature _ _ | .rail _ _ | .stack _ => none

/-- The warning threshold of a sensor (R447): parts per million, errors in 24 hours, symbols in 10^9. -/
def Sensor.warnAt : Sensor → Option Nat
  | .coreDrift _ | .bankDrift _ _ => some 2000
  | .corrected 2 _ _ => some 4
  | .fec _ _ => some 100
  | _ => none

/-- The replacement threshold (R447). -/
def Sensor.replaceAt : Sensor → Option Nat
  | .coreDrift _ | .bankDrift _ _ => some 4000
  | .failedTest 1 _ | .failedTest 3 _ => some 1
  | .corrected 2 _ _ => some 16
  | .corrected 5 _ _ => some 4
  | .fec _ _ => some 1000
  | _ => none

/-- Has a reading come to a threshold; a drift counts in either direction (log entry 129). -/
def reaches (th : Option Nat) (v : Int) : Bool := (th.map (fun n => decide (n ≤ v.natAbs))).getD false

/-- The latest reading of a sensor (R362). -/
def State.reading (s : State) (m : Sensor) : Option Int := (s.samples.find? (fun e => e.1 == m)).map (·.2)

/-- Did a sensor's reading before warn already. -/
def State.warned (s : State) (m : Sensor) : Bool := ((s.reading m).map (reaches (Sensor.warnAt m))).getD false

/-- New readings take the place of the ones before of the same sensors. -/
def latest (old new : List (Sensor × Int)) : List (Sensor × Int) :=
  new.foldl (fun acc p => p :: acc.filter (fun e => e.1 != p.1)) old

/-- DATA of event 0x08 (R447): kind and measured quantity. -/
def wearData (kind qty : Nat) : Word := BitVec.ofNat 64 (kind + qty % 2 ^ 48 * 2 ^ 8)

/-- Event 0x08 for a sensor that has come to its warning threshold (R447). -/
def State.warn (s : State) (p : Sensor × Int) : State :=
  match Sensor.unit? p.1 with
  | some (k, u, _) => s.health 8 u (wearData k p.2.natAbs)
  | none => s

/-- Does an entry of `retiring` name a unit. -/
def Retire.names (r : Retire) (u : Nat × Nat × Nat) : Bool := (r.kind, r.unit, r.part) == u

/-- A unit at its replacement threshold is to be replaced (R447). -/
def State.toReplace (s : State) (p : Sensor × Int) : State :=
  match Sensor.unit? p.1 with
  | some u =>
    if s.retiring.any (·.names u) then s
    else { s with retiring := s.retiring ++ [⟨u.1, u.2.1, u.2.2, false, p.2.natAbs, none⟩] }
  | none => s

/-- A core's note that its stay at GFLOOR has been reported. -/
def floorTold : Nat := 2 ^ 64

/-- Has a core been held at GFLOOR for more than 1 ms, and its stay not been reported (R363). -/
def Core.heldLong (c : Core) (now : Nat) : Bool := (c.floorAt.map (fun t => decide (t + 1000000 < now))).getD false

/-- Event 0x01 when a core has newly been held at GFLOOR for more than 1 ms: DATA counts all that are so held (R363; log
entry 83). -/
def State.tellFloor (s : State) : State :=
  let long (c : Core) : Bool := c.heldLong s.time.toNat
  let n := s.cores.countP (fun e => long e.2 || e.2.floorAt == some floorTold)
  let t := { s with cores := s.cores.map (fun e => (e.1, if long e.2 then { e.2 with floorAt := some floorTold } else e.2)) }
  if s.cores.any (fun e => long e.2) then t.health 1 0 (BitVec.ofNat 64 n) else t

/-- MONITOR_SAMPLE: the readings of the module's monitors are kept; event 0x01 for cores held at GFLOOR, event 0x08 for each
sensor that has come to its warning threshold; units at their replacement threshold await a spare. -/
def execMonitorSample (samples : List (Sensor × Int)) (s : State) : Res :=
  let new := samples.filter (fun p => Sensor.fitted p.1)
  let t := { s with samples := latest s.samples new }.tellFloor
  let t := (new.filter (fun p => reaches (Sensor.warnAt p.1) p.2 && !s.warned p.1)).foldl State.warn t
  .next ((new.filter (fun p => reaches (Sensor.replaceAt p.1) p.2)).foldl State.toReplace t)

/-- The spare takes its unit's place (R9): event 0x05; the readings were the old unit's. -/
def State.useSpare (s : State) (r : Retire) : State :=
  { s with
    spent := (r.kind, poolOf r.kind r.unit) :: s.spent
    retiring := s.retiring.erase r
    samples := s.samples.filter (fun e => !((Sensor.unit? e.1).map r.names).getD false)
    : State }.health 5 r.unit (BitVec.ofNat 64 r.kind)

/-- Is a gang resident in the cluster of a core or bank (R366). -/
def State.clusterBusy (s : State) (kind unit : Nat) : Bool :=
  (kind == 1 || kind == 2) && s.all.any (fun t => t.resident && t.cluster == poolOf kind unit)

/-- Has the hour since event 0x08 last told of a unit that stays in service gone by (R447). -/
def State.hourPast (s : State) (r : Retire) : Bool :=
  (r.told.map (fun t => Nat.ble (t + 3600000000000) s.time.toNat)).getD true

/-- SPARE_SWAP (R366, R447, R448): a unit that awaits its spare gets it, a core or bank while no gang of its cluster is
resident; a page-table walker is idle, and a lane or a row between two uses, at every step of the model (log entry 130).
With no spare the unit stays, and event 0x08 with DATA bit 63 set is sent once an hour. -/
def execSpareSwap (kind unit : Nat) (s : State) : Res :=
  match s.retiring.find? (fun r => r.kind == kind && r.unit == unit && (s.hasSpare r || s.hourPast r)) with
  | none => .next s
  | some r =>
    .next (
      if s.hasSpare r then (if s.clusterBusy kind unit then s else s.useSpare r)
      else { s with retiring := s.retiring.map (fun q => if q = r then { q with told := some s.time.toNat } else q) : State }.health
        8 unit (wearData kind r.qty ||| BitVec.ofNat 64 (2 ^ 63)))

/-! ### Hard failures (R448, R449) -/

/-- The nodes that a failed unit affects: those with a strand whose home is the core, or a copy on its channels; those
with an allocation in the bank's cluster; those with a strand resident on the walker's die. -/
def affected (s : State) (kind unit : Nat) : List GangId :=
  let core := unit / 4096 * 128 + unit % 4096
  let gs : List GangId :=
    match kind with
    | 1 => (s.all.filter (fun t => t.core == core)).map (·.gang) ++ (s.core core).copies.map (·.iss.gang)
    | 2 => (s.cluster (poolOf 2 unit)).allocs.map (·.gang)
    | 3 => (s.all.filter (fun t => t.resident && dieOf t.core == unit / 4096)).map (·.gang)
    | _ => []
  (gs.map (fun g => { g with gang := 0 })).eraseDups

/-- The affected nodes end (R402), with a class 0xC0 record for each affected context: FINFO2 is the launch of its first
affected node (log entry 131). -/
def State.loseUnit (s : State) (kind unit : Nat) : State :=
  let gs := affected s kind unit
  let ctxOf (g : GangId) : Option Nat := (s.launch? g.launch).map (·.ctx)
  let told := (gs.filterMap ctxOf).eraseDups.foldl (fun t c =>
    match gs.find? (fun g => ctxOf g == some c) with
    | some g => t.sendRec (t.hostOfCtx c)
        (plainRec t.time c 0#64 ⟨0xC0, kind, 0#64, BitVec.ofNat 64 unit, BitVec.ofNat 64 g.launch⟩)
    | none => t) s
  gs.foldl (fun t g => (t.stopEngines g).endNode g) told

/-- UNIT_FAILURE (R448): a core, a bank or a page-table walker fails outright. A spare is kept for it, and takes its place
when R366 allows. With no spare, a checkpoint without resumption is due at once; with no state area nothing is written, and
the work stands still. A core that has failed awaits one spare, however often it is lost. -/
def execUnitFailure (kind unit : Nat) (s : State) : Res :=
  if kind = 0 ∨ 3 < kind then .next s
  else
    let t := s.loseUnit kind unit
    let r : Retire := ⟨kind, unit, 0, true, 0, none⟩
    .next (
      if kind = 1 ∧ t.retiring.contains r then t
      else if t.spareLeft kind unit then
        let t := { t with retiring := t.retiring.filter (fun q => kind != 1 || !q.names (1, unit, 0)) ++ [r] }
        if t.clusterBusy kind unit then t else t.useSpare r
      else if t.ckArea.isSome then { t with noSpare := true, ckAsked := (t.time.toNat, false) :: t.ckAsked }
      else { t with noSpare := true, boot := .maintenance, held := true })

/-! ### Boot (R367) -/

/-- The module after a restart: what the retention domain and the controller keep, the decode table that FWLOAD installed
and the loss of a unit with no spare among it (log entries 102 and 134). -/
def State.restarted (s : State) : State :=
  { State.reset with
    mem := s.mem.filter (fun c => hbmEnd ≤ c.1 && c.1 < safeEnd)
    decTable := s.decTable
    decImage := s.decImage
    firmware := s.firmware
    nextFirmware := s.nextFirmware
    spent := s.spent
    retiring := s.retiring
    noSpare := s.noSpare
    ckArea := s.ckArea
    ckSeq := s.ckSeq
    ckEnd := s.ckEnd
    image := s.image
    logArea := s.logArea
    logPos := s.logPos
    logOn := s.logOn
    logMarker := s.logMarker
    lseq := s.lseq
    logDec := s.logDec
    coh := s.coh
    places := s.places
    loads := s.loads
    rate := s.rate
    time := s.time
    agenda := s.agenda
    out := s.out
    fresh := s.fresh }

/-- SECURE_BOOT (R367, R368): at reset, or at a restart after power-down, the boot ROM checks the installed image, or the
one given. A module that has lost a unit with no spare goes on answering only what R448 lists. -/
def execSecureBoot (image : List Byte) (s : State) : Res :=
  let fw := s.nextFirmware.getD image
  let start (t : State) : State :=
    if imageOk fw then { t with
      boot := if t.noSpare then .maintenance else .up, firmware := fw, nextFirmware := none } else { t with boot := .stopped }
  match s.boot with
  | .waiting => .next (start s)
  | .down => .next (start s.restarted)
  | _ => .next s

end Sys2Proof.Machine
end

