-- ==== Sys2Proof/Machine/Pred.lean ====
section
/-! DEFINITION. Probability predicates, major 0x0E (R242 to R251), with TAU (R243, R442) and strict provenance (R443). -/

namespace Sys2Proof.Machine

/-! ### Temperature and probabilities -/

/-- TAU as an exact value. -/
def Strand.tauVal (st : Strand) : Val := decodeVal .f32 st.tau.toNat

/-- Is TAU +0 or positive and finite (R243). -/
def Strand.tauOk (st : Strand) : Bool :=
  match st.tauVal with
  | .zero .pos => true
  | .fin q => 0 < q.num
  | _ => false

/-- Class 0x88 (R442). -/
def Strand.tauChk (st : Strand) : List (Bool × Flt) := [(!st.tauOk, st.flt 0x88 0 st.tau.toNat 0)]

/-- p = c/65535 and 1 − p, exactly. -/
def probOf (c : Nat) : Val := ofQ ⟨c, 0, 65535⟩ .pos
def coProb (c : Nat) : Val := ofQ ⟨(65535 : Int) - c, 0, 65535⟩ .pos

/-- The code of a comparison (R245). -/
def pcmpCode (r : Rel) (tau a b : Val) : Nat :=
  if isNan a || isNan b then (if r = .ne then 65535 else 0)
  else
    match tau with
    | .fin t =>
      if isInf a && a == b then (if relHolds r a b then 65535 else 0)
      else if isInf a || isInf b then
        -- b − a is +Inf when b is +Inf or a is −Inf
        let pos := b == .inf false || a == .inf true
        match r with
        | .lt | .le => if pos then 65535 else 0
        | .gt | .ge => if pos then 0 else 65535
        | .eq => 0
        | .ne => 65535
      else
        let z := qdiv (qadd (toQ b) (qneg (toQ a))) t
        let eq : Nat := if z.num = 0 then 65535 else frSigNeg 2 ⟨z.num.natAbs, z.exp, z.den⟩
        match r with
        | .lt | .le => frSigmoid z
        | .gt | .ge => frSigmoid (qneg z)
        | .eq => eq
        | .ne => 65535 - eq
    | _ => if relHolds r a b then 65535 else 0

/-- The destination's provenance: joined with the old one under .keep (R242). -/
def Strand.newProv (st : Strand) (d : PRegNo) (keep : Bool) (v : BitVec 16) : BitVec 16 :=
  if keep then v ||| st.prov d else v

/-- Is some element below VL active. -/
def Strand.anyActive (st : Strand) (m : MRegNo) : Bool := (List.range st.vl).any (st.active? m)

/-! ### Instructions -/

/-- PCMP (R245). -/
def execPcmp (d : PRegNo) (rel : Rel) (a b : VRegNo) (tag : BitVec 4) (ty : ETy) (mask : MRegNo) (keep : Bool)
    (s : State) : Res :=
  finish (.pcmp d rel a b tag ty mask keep) do
    s.vchk [a, b] [ty] s.me.tauChk
    let st := s.me
    let v (r : VRegNo) (i : Nat) : Val := decodeVal ty (st.code ty r i)
    s.predwise d (st.grp (max 16 (sbits ty)) false) mask keep .rne
      (st.newProv d keep (BitVec.ofNat 16 (2 ^ tag.toNat))) []
      (fun i => (pcmpCode rel st.tauVal (v a i) (v b i), relEv rel (v a i) (v b i)))

/-- A rational code rounded under R126 (R246). -/
def roundCode (n d : Nat) (rm : Rnd) (dr : Draw) : Nat := (roundMag false (.rat n 0 d) 0 rm dr).1

def pandCode (mode : Nat) (rm : Rnd) (dr : Draw) (a b : Nat) : Nat :=
  match mode with
  | 0 => roundCode (a * b) 65535 rm dr
  | 1 => min a b
  | _ => a + b - 65535

def porCode (mode : Nat) (rm : Rnd) (dr : Draw) (a b : Nat) : Nat :=
  match mode with
  | 0 => roundCode ((a + b) * 65535 - a * b) 65535 rm dr
  | 1 => max a b
  | _ => min 65535 (a + b)

/-- PAND and POR: provenance, the event D, and class 0x89 under strict mode, at the first issue only (R246, R443). -/
def State.pjoin (s : State) (d a b : PRegNo) (mode : Fin 3) (rnd : Rnd) (mask : MRegNo) (keep : Bool)
    (f : Nat → Rnd → Draw → Nat → Nat → Nat) : Run State := do
  let st := s.me
  let both := st.prov a &&& st.prov b
  let clash := mode == 0 && both ≠ 0#16 && st.anyActive mask
  s.guard (clash && st.pstrict && st.esr == 0) 0x89 0 both.toNat mode.val
  s.predwise d (st.grp 16 false) mask keep rnd (st.newProv d keep (st.prov a ||| st.prov b))
    (if clash then [(0, evD)] else [])
    (fun i => (f mode.val (st.rnd rnd) (st.draw i 0) (st.pcode a i) (st.pcode b i), 0#7))

/-- PAND (R246). -/
def execPand (d a b : PRegNo) (mode : Fin 3) (rnd : Rnd) (mask : MRegNo) (keep : Bool) (s : State) : Res :=
  finish (.pand d a b mode rnd mask keep) (s.pjoin d a b mode rnd mask keep pandCode)

/-- POR (R246). -/
def execPor (d a b : PRegNo) (mode : Fin 3) (rnd : Rnd) (mask : MRegNo) (keep : Bool) (s : State) : Res :=
  finish (.por d a b mode rnd mask keep) (s.pjoin d a b mode rnd mask keep porCode)

/-- PNOT (R246). -/
def execPnot (d a : PRegNo) (mask : MRegNo) (keep : Bool) (s : State) : Res :=
  finish (.pnot d a mask keep) (
    let st := s.me
    s.predwise d (st.grp 16 false) mask keep .rne (st.newProv d keep (st.prov a)) []
      (fun i => (65535 - st.pcode a i, 0#7)))

/-- PMV (R250). -/
def execPmv (d a : PRegNo) (mask : MRegNo) (keep : Bool) (s : State) : Res :=
  finish (.pmv d a mask keep) (
    let st := s.me
    s.predwise d (st.grp 16 false) mask keep .rne (st.newProv d keep (st.prov a)) [] (fun i => (st.pcode a i, 0#7)))

/-- PSEED (R250): fr16 elements are copied, others rounded to fr16 without saturation. -/
def execPseed (d : PRegNo) (a : VRegNo) (tag : BitVec 4) (ty : ETy) (rnd : Rnd) (mask : MRegNo) (keep : Bool)
    (s : State) : Res :=
  finish (.pseed d a tag ty rnd mask keep) do
    s.vchk [a] [ty] []
    let st := s.me
    s.predwise d (st.grp (max 16 (sbits ty)) false) mask keep rnd
      (st.newProv d keep (BitVec.ofNat 16 (2 ^ tag.toNat))) []
      (fun i =>
        let c := st.code ty a i
        if ty = .fr16 then (c, 0#7) else roundTo .fr16 (.val (decodeVal ty c)) (st.rnd rnd) false (st.draw i 0))

/-- The blend of two codes by a predicate code (R247): the ends copy a code bit for bit. -/
def blend (t : ETy) (rm : Rnd) (sat : Bool) (dr : Draw) (c a b : Nat) : Nat × Ev :=
  if c = 65535 then (a, 0#7)
  else if c = 0 then (b, 0#7)
  else
    let x := exactMul (probOf c) (decodeVal t a)
    let y := exactMul (coProb c) (decodeVal t b)
    let r := exactAdd x.1 y.1
    deliver t (r.1, x.2 ||| y.2 ||| r.2) rm sat dr

/-- PBLEND (R247). -/
def execPblend (d a b : VRegNo) (c : PRegNo) (m : VMod) (s : State) : Res :=
  finish (.pblend d a b c m) do
    s.vchk [d, a, b] [m.ty] []
    let st := s.me
    s.elementwise d m.ty (st.grp (max 16 (sbits m.ty)) false) m.mask m.keep m.rnd (fun i =>
      blend m.ty (st.rnd m.rnd) m.sat (st.draw i 0) (st.pcode c i) (st.code m.ty a i) (st.code m.ty b i))

/-- PCOLL (R248): every element draws; into its own mask it is never interrupted (R251). -/
def execPcoll (d : MRegNo) (a : PRegNo) (mask : MRegNo) (keep : Bool) (s : State) : Res :=
  finish (.pcoll d a mask keep) (
    let st := s.me
    s.maskwise d (st.grp 16 (d = mask)) mask keep st.vl (fun i =>
      (if uniformBelow 65535 st.rngKey.toNat (st.rngCtr.toNat + i) < st.pcode a i then 1 else 0, 0#7)))

/-- PHARD (R248). -/
def execPhard (d : MRegNo) (a : PRegNo) (b : XReg) (mask : MRegNo) (keep : Bool) (s : State) : Res :=
  finish (.phard d a b mask keep) (
    let st := s.me
    let t := min (st.getX b).toNat 65536
    s.maskwise d (st.grp 16 (d = mask)) mask keep 0 (fun i => (if t ≤ st.pcode a i then 1 else 0, 0#7)))

/-- g × (va − vb), a NaN counted once (R130, R249). -/
def gradDiff (g a b : Val) : Val × Ev :=
  if isNan g || isNan a || isNan b then (.nan false, evIf (isSnan g || isSnan a || isSnan b) evV)
  else
    let d := exactAdd a (vneg b)
    let r := exactMul g d.1
    (r.1, d.2 ||| r.2)

/-- x of PGRAD by kind (R249), with its events. -/
def gradOf (kind : Nat) (tau g a b : Val) (c : Nat) : Val × Ev :=
  match kind with
  | 0 =>
    match tau with
    | .fin t => exactMul g (ofQ (qdiv ⟨(c : Int) * ((65535 : Int) - c), 0, 65535 * 65535⟩ t) .pos)
    | _ => (.zero .pos, 0#7)
  | 1 => gradDiff g a b
  | 2 => exactMul g (probOf c)
  | _ => exactMul g (coProb c)

/-- PGRAD (R249): kind 1 takes v registers from fields b and c, the others a predicate from field c. -/
def execPgrad (d a : VRegNo) (b c : Fin 32) (kind : Fin 4) (m : VMod) (s : State) : Res :=
  finish (.pgrad d a b c kind m) do
    s.vchk (if kind = 1 then [d, a, b, c] else [d, a]) [m.ty] s.me.tauChk
    let st := s.me
    let p : PRegNo := Fin.ofNat 8 c.val
    let v (r : VRegNo) (i : Nat) : Val := decodeVal m.ty (st.code m.ty r i)
    s.elementwise d m.ty (st.grp (max 16 (sbits m.ty)) false) m.mask m.keep m.rnd (fun i =>
      deliver m.ty (gradOf kind.val st.tauVal (v a i) (v b i) (v c i) (st.pcode p i)) (st.rnd m.rnd) m.sat (st.draw i 0))

/-- PPROV (R250); a write to p0 is discarded. -/
def execPprov (set : Bool) (x : XReg) (p : PRegNo) (s : State) : Res :=
  if set then
    let st := s.me
    .next (s.setMe ((if p = 0 then st
      else { st with p := st.p.set p { st.p[p] with prov := (st.getX x).setWidth 16 } }).retire 1))
  else .next (s.writeX x ((s.me.prov p).setWidth 64))

end Sys2Proof.Machine
end

