-- ==== Sys2Proof/Machine/Dispatch.lean ====
section
/-! DEFINITION. One arm for each row of the opcode table. -/

namespace Sys2Proof.Machine

def exec (i : Instr) (s : State) : Host.Outcome State Fault Refusal :=
  match i with
  | .svc d a code => Sys2Proof.Machine.execSvc d a code s
  | .brk code => Sys2Proof.Machine.execBrk code s
  | .rdsr d r => Sys2Proof.Machine.execRdsr d r s
  | .wrsr r a => Sys2Proof.Machine.execWrsr r a s
  | .wrsrVtype a => Sys2Proof.Machine.execWrsrVtype a s
  | .xchsr d r a => Sys2Proof.Machine.execXchsr d r a s
  | .fence sc => Sys2Proof.Machine.execFence sc s
  | .rdtime d => Sys2Proof.Machine.execRdtime d s
  | .waitt a => Sys2Proof.Machine.execWaitt a s
  | .sev sc => Sys2Proof.Machine.execSev sc s
  | .add d a b => Sys2Proof.Machine.execAdd d a b s
  | .sub d a b => Sys2Proof.Machine.execSub d a b s
  | .mul d a b => Sys2Proof.Machine.execMul d a b s
  | .mulh d a b => Sys2Proof.Machine.execMulh d a b s
  | .mulhu d a b => Sys2Proof.Machine.execMulhu d a b s
  | .div d a b => Sys2Proof.Machine.execDiv d a b s
  | .divu d a b => Sys2Proof.Machine.execDivu d a b s
  | .rem d a b => Sys2Proof.Machine.execRem d a b s
  | .remu d a b => Sys2Proof.Machine.execRemu d a b s
  | .and d a b => Sys2Proof.Machine.execAnd d a b s
  | .or d a b => Sys2Proof.Machine.execOr d a b s
  | .xor d a b => Sys2Proof.Machine.execXor d a b s
  | .andn d a b => Sys2Proof.Machine.execAndn d a b s
  | .shl d a b => Sys2Proof.Machine.execShl d a b s
  | .shr d a b => Sys2Proof.Machine.execShr d a b s
  | .sra d a b => Sys2Proof.Machine.execSra d a b s
  | .slt d a b => Sys2Proof.Machine.execSlt d a b s
  | .sltu d a b => Sys2Proof.Machine.execSltu d a b s
  | .min d a b => Sys2Proof.Machine.execMin d a b s
  | .max d a b => Sys2Proof.Machine.execMax d a b s
  | .sel d a b c => Sys2Proof.Machine.execSel d a b c s
  | .addi d a imm => Sys2Proof.Machine.execAddi d a imm s
  | .andi d a imm => Sys2Proof.Machine.execAndi d a imm s
  | .ori d a imm => Sys2Proof.Machine.execOri d a imm s
  | .xori d a imm => Sys2Proof.Machine.execXori d a imm s
  | .shli d a n => Sys2Proof.Machine.execShli d a n s
  | .shri d a n => Sys2Proof.Machine.execShri d a n s
  | .srai d a n => Sys2Proof.Machine.execSrai d a n s
  | .slti d a imm => Sys2Proof.Machine.execSlti d a imm s
  | .sltui d a imm => Sys2Proof.Machine.execSltui d a imm s
  | .li d imm => Sys2Proof.Machine.execLi d imm s
  | .addpc d imm => Sys2Proof.Machine.execAddpc d imm s
  | .lid d v => Sys2Proof.Machine.execLid d v s
  | .cpset lev a count sstr dstr => Sys2Proof.Machine.execCpset lev a count sstr dstr s
  | .tdnew d a off => Sys2Proof.Machine.execTdnew d a off s
  | .fadd d a b m => Sys2Proof.Machine.execFadd d a b m s
  | .fsub d a b m => Sys2Proof.Machine.execFsub d a b m s
  | .fmul d a b m => Sys2Proof.Machine.execFmul d a b m s
  | .fdiv d a b m => Sys2Proof.Machine.execFdiv d a b m s
  | .fsqrt d a m => Sys2Proof.Machine.execFsqrt d a m s
  | .fma d a b c m => Sys2Proof.Machine.execFma d a b c m s
  | .fmin d a b ty => Sys2Proof.Machine.execFmin d a b ty s
  | .fmax d a b ty => Sys2Proof.Machine.execFmax d a b ty s
  | .fcvt d a src route m => Sys2Proof.Machine.execFcvt d a src route m s
  | .fclass d a ty => Sys2Proof.Machine.execFclass d a ty s
  | .fcmp d rel a b ty => Sys2Proof.Machine.execFcmp d rel a b ty s
  | .fmvxf d a ty => Sys2Proof.Machine.execFmvxf d a ty s
  | .fmvfx d a ty => Sys2Proof.Machine.execFmvfx d a ty s
  | .beq a b off => Sys2Proof.Machine.execBeq a b off s
  | .bne a b off => Sys2Proof.Machine.execBne a b off s
  | .blt a b off => Sys2Proof.Machine.execBlt a b off s
  | .bge a b off => Sys2Proof.Machine.execBge a b off s
  | .bltu a b off => Sys2Proof.Machine.execBltu a b off s
  | .bgeu a b off => Sys2Proof.Machine.execBgeu a b off s
  | .jal off => Sys2Proof.Machine.execJal off s
  | .jalr a off => Sys2Proof.Machine.execJalr a off s
  | .bstrip a b off => Sys2Proof.Machine.execBstrip a b off s
  | .ld m => Sys2Proof.Machine.execLd m s
  | .st m => Sys2Proof.Machine.execSt m s
  | .fld m => Sys2Proof.Machine.execFld m s
  | .fst m => Sys2Proof.Machine.execFst m s
  | .lr m => Sys2Proof.Machine.execLr m s
  | .sc m => Sys2Proof.Machine.execSc m s
  | .amo d b o op ord sc ty off => Sys2Proof.Machine.execAmo d b o op ord sc ty off s
  | .pref b idx scale off => Sys2Proof.Machine.execPref b idx scale off s
  | .bld d entry => Sys2Proof.Machine.execBld d entry s
  | .bnarrow d a b c => Sys2Proof.Machine.execBnarrow d a b c s
  | .bseta d a => Sys2Proof.Machine.execBseta d a s
  | .bgeta d a => Sys2Proof.Machine.execBgeta d a s
  | .bperm d a mask => Sys2Proof.Machine.execBperm d a mask s
  | .acvt d a ap dir => Sys2Proof.Machine.execAcvt d a ap dir s
  | .atest d a ap => Sys2Proof.Machine.execAtest d a ap s
  | .cfgreg cnt g k => Sys2Proof.Machine.execCfgreg cnt g k s
  | .setvl d a => Sys2Proof.Machine.execSetvl d a s
  | .setvli d n => Sys2Proof.Machine.execSetvli d n s
  | .setvt ty blk => Sys2Proof.Machine.execSetvt ty blk s
  | .rdvl d a => Sys2Proof.Machine.execRdvl d a s
  | .vadd d a b m => Sys2Proof.Machine.execVadd d a b m s
  | .vsub d a b m => Sys2Proof.Machine.execVsub d a b m s
  | .vmul d a b m => Sys2Proof.Machine.execVmul d a b m s
  | .vmulh d a b m => Sys2Proof.Machine.execVmulh d a b m s
  | .vdiv d a b m => Sys2Proof.Machine.execVdiv d a b m s
  | .vrem d a b m => Sys2Proof.Machine.execVrem d a b m s
  | .vmin d a b m => Sys2Proof.Machine.execVmin d a b m s
  | .vmax d a b m => Sys2Proof.Machine.execVmax d a b m s
  | .vand d a b m => Sys2Proof.Machine.execVand d a b m s
  | .vor d a b m => Sys2Proof.Machine.execVor d a b m s
  | .vxor d a b m => Sys2Proof.Machine.execVxor d a b m s
  | .vshl d a b m => Sys2Proof.Machine.execVshl d a b m s
  | .vshr d a b m => Sys2Proof.Machine.execVshr d a b m s
  | .vsra d a b m => Sys2Proof.Machine.execVsra d a b m s
  | .vfma d a b c m => Sys2Proof.Machine.execVfma d a b c m s
  | .vfms d a b c m => Sys2Proof.Machine.execVfms d a b c m s
  | .vfnma d a b c m => Sys2Proof.Machine.execVfnma d a b c m s
  | .vsqrt d a m => Sys2Proof.Machine.execVsqrt d a m s
  | .vexp2 d a m => Sys2Proof.Machine.execVexp2 d a m s
  | .vlog2 d a m => Sys2Proof.Machine.execVlog2 d a m s
  | .vrsq d a m => Sys2Proof.Machine.execVrsq d a m s
  | .vabs d a m => Sys2Proof.Machine.execVabs d a m s
  | .vneg d a m => Sys2Proof.Machine.execVneg d a m s
  | .vcvt d a src m => Sys2Proof.Machine.execVcvt d a src m s
  | .vquant d a ty rnd sat src kind => Sys2Proof.Machine.execVquant d a ty rnd sat src kind s
  | .vdeq d a src m => Sys2Proof.Machine.execVdeq d a src m s
  | .vclass d a ty mask keep => Sys2Proof.Machine.execVclass d a ty mask keep s
  | .vcmp d rel a b ty mask keep => Sys2Proof.Machine.execVcmp d rel a b ty mask keep s
  | .vsel d a b ty mask => Sys2Proof.Machine.execVsel d a b ty mask s
  | .vmv d a ty mask keep => Sys2Proof.Machine.execVmv d a ty mask keep s
  | .vsplat d a fromF ty => Sys2Proof.Machine.execVsplat d a fromF ty s
  | .vslide d a b ty mask keep => Sys2Proof.Machine.execVslide d a b ty mask keep s
  | .vperm d a b ty mask keep => Sys2Proof.Machine.execVperm d a b ty mask keep s
  | .vreds d a c ty rnd sat mask => Sys2Proof.Machine.execVreds d a c ty rnd sat mask s
  | .vredm d a c ty isMax mask => Sys2Proof.Machine.execVredm d a c ty isMax mask s
  | .vscan d a c m => Sys2Proof.Machine.execVscan d a c m s
  | .vcomp d a ty mask => Sys2Proof.Machine.execVcomp d a ty mask s
  | .vmvx toV useF d a b ty => Sys2Proof.Machine.execVmvx toV useF d a b ty s
  | .vld m => Sys2Proof.Machine.execVld m s
  | .vst m => Sys2Proof.Machine.execVst m s
  | .vlds m => Sys2Proof.Machine.execVlds m s
  | .vsts m => Sys2Proof.Machine.execVsts m s
  | .vldx m => Sys2Proof.Machine.execVldx m s
  | .vstx m => Sys2Proof.Machine.execVstx m s
  | .vldt m => Sys2Proof.Machine.execVldt m s
  | .vstt m => Sys2Proof.Machine.execVstt m s
  | .slq m => Sys2Proof.Machine.execSlq m s
  | .slqtake d a b => Sys2Proof.Machine.execSlqtake d a b s
  | .vamo d b k c op m => Sys2Proof.Machine.execVamo d b k c op m s
  | .vcas d b k c m => Sys2Proof.Machine.execVcas d b k c m s
  | .gcsleep b k c ty mask scale => Sys2Proof.Machine.execGcsleep b k c ty mask scale s
  | .awin d b w m => Sys2Proof.Machine.execAwin d b w m s
  | .aacc b k c m => Sys2Proof.Machine.execAacc b k c m s
  | .amerge b c ty rnd sat ord sc => Sys2Proof.Machine.execAmerge b c ty rnd sat ord sc s
  | .mand d a b => Sys2Proof.Machine.execMand d a b s
  | .mor d a b => Sys2Proof.Machine.execMor d a b s
  | .mxor d a b => Sys2Proof.Machine.execMxor d a b s
  | .mnot d a => Sys2Proof.Machine.execMnot d a s
  | .mmovx d a b => Sys2Proof.Machine.execMmovx d a b s
  | .msetx d a b => Sys2Proof.Machine.execMsetx d a b s
  | .mpush a => Sys2Proof.Machine.execMpush a s
  | .mpop d => Sys2Proof.Machine.execMpop d s
  | .pcmp d rel a b tag ty mask keep => Sys2Proof.Machine.execPcmp d rel a b tag ty mask keep s
  | .pand d a b mode rnd mask keep => Sys2Proof.Machine.execPand d a b mode rnd mask keep s
  | .por d a b mode rnd mask keep => Sys2Proof.Machine.execPor d a b mode rnd mask keep s
  | .pnot d a mask keep => Sys2Proof.Machine.execPnot d a mask keep s
  | .pblend d a b c m => Sys2Proof.Machine.execPblend d a b c m s
  | .pcoll d a mask keep => Sys2Proof.Machine.execPcoll d a mask keep s
  | .phard d a b mask keep => Sys2Proof.Machine.execPhard d a b mask keep s
  | .pgrad d a b c kind m => Sys2Proof.Machine.execPgrad d a b c kind m s
  | .pmv d a mask keep => Sys2Proof.Machine.execPmv d a mask keep s
  | .pseed d a tag ty rnd mask keep => Sys2Proof.Machine.execPseed d a tag ty rnd mask keep s
  | .pprov set x p => Sys2Proof.Machine.execPprov set x p s
  | .atld d b off => Sys2Proof.Machine.execAtld d b off s
  | .atinfo d a item => Sys2Proof.Machine.execAtinfo d a item s
  | .amul d a b c m cjg opp => Sys2Proof.Machine.execAmul d a b c m cjg opp s
  | .amac d a b c m cjg opp => Sys2Proof.Machine.execAmac d a b c m cjg opp s
  | .aconj d a c ty mask keep => Sys2Proof.Machine.execAconj d a c ty mask keep s
  | .mzero d => Sys2Proof.Machine.execMzero d s
  | .mopa d a b m => Sys2Proof.Machine.execMopa d a b m s
  | .mops d a b m => Sys2Proof.Machine.execMops d a b m s
  | .mldw a off ty trn => Sys2Proof.Machine.execMldw a off ty trn s
  | .mstrm d a b m => Sys2Proof.Machine.execMstrm d a b m s
  | .mrdrow d a b m => Sys2Proof.Machine.execMrdrow d a b m s
  | .mwrrow d a b m => Sys2Proof.Machine.execMwrrow d a b m s
  | .mldacc d a off ty => Sys2Proof.Machine.execMldacc d a off ty s
  | .mstacc d a b c off m => Sys2Proof.Machine.execMstacc d a b c off m s
  | .mbind a => Sys2Proof.Machine.execMbind a s
  | .msync sc => Sys2Proof.Machine.execMsync sc s
  | .stpair d a b c off m => Sys2Proof.Machine.execStpair d a b c off m s
  | .cpgo ch a b => Sys2Proof.Machine.execCpgo ch a b s
  | .cpgob ch a b => Sys2Proof.Machine.execCpgob ch a b s
  | .cpwp d ch => Sys2Proof.Machine.execCpwp d ch s
  | .cpcan ch => Sys2Proof.Machine.execCpcan ch s
  | .cpinv a all => Sys2Proof.Machine.execCpinv a all s
  | .bufset a b c => Sys2Proof.Machine.execBufset a b c s
  | .bufclaim d a produce => Sys2Proof.Machine.execBufclaim d a produce s
  | .bufrel a => Sys2Proof.Machine.execBufrel a s
  | .bufstat d a => Sys2Proof.Machine.execBufstat d a s
  | .binit a b sc => Sys2Proof.Machine.execBinit a b sc s
  | .bexp a b => Sys2Proof.Machine.execBexp a b s
  | .barr a => Sys2Proof.Machine.execBarr a s
  | .bwait a b => Sys2Proof.Machine.execBwait a b s
  | .btry d a b => Sys2Proof.Machine.execBtry d a b s
  | .tglook d a => Sys2Proof.Machine.execTglook d a s
  | .tgins d a b => Sys2Proof.Machine.execTgins d a b s
  | .tgdel d a => Sys2Proof.Machine.execTgdel d a s
  | .spalloc d a z => Sys2Proof.Machine.execSpalloc d a z s
  | .spfree a => Sys2Proof.Machine.execSpfree a s
  | .tdshard d a b c => Sys2Proof.Machine.execTdshard d a b c s
  | .fgath d a ty => Sys2Proof.Machine.execFgath d a ty s
  | .fscat d a ty => Sys2Proof.Machine.execFscat d a ty s
  | .fscata d a m => Sys2Proof.Machine.execFscata d a m s
  | .coll d a m => Sys2Proof.Machine.execColl d a m s
  | .rput d a ty => Sys2Proof.Machine.execRput d a ty s
  | .rget d a ty => Sys2Proof.Machine.execRget d a ty s
  | .wkrun d a b c => Sys2Proof.Machine.execWkrun d a b c s
  | .wkwait a => Sys2Proof.Machine.execWkwait a s
  | .wkstat d a => Sys2Proof.Machine.execWkstat d a s
  | .trinit d a => Sys2Proof.Machine.execTrinit d a s
  | .trdesc d a => Sys2Proof.Machine.execTrdesc d a s
  | .trbatch d a b c => Sys2Proof.Machine.execTrbatch d a b c s
  | .trexp d a b c => Sys2Proof.Machine.execTrexp d a b c s
  | .trback a b c mode => Sys2Proof.Machine.execTrback a b c mode s
  | .trroot a b => Sys2Proof.Machine.execTrroot a b s
  | .trread d a b c kids => Sys2Proof.Machine.execTrread d a b c kids s
  | .kvacc a b c ty rnd mask => Sys2Proof.Machine.execKvacc a b c ty rnd mask s
  | .kvevict d a b c => Sys2Proof.Machine.execKvevict d a b c s
  | .glaunch d a b => Sys2Proof.Machine.execGlaunch d a b s
  | .gdone d a b => Sys2Proof.Machine.execGdone d a b s
  | .gquery d a b => Sys2Proof.Machine.execGquery d a b s
  | .qnew d a => Sys2Proof.Machine.execQnew d a s
  | .qdel a mode => Sys2Proof.Machine.execQdel a mode s
  | .pairAdd d a b o => Sys2Proof.Machine.execPairAdd d a b o s
  | .pairSub d a b o => Sys2Proof.Machine.execPairSub d a b o s
  | .pairAnd d a b o => Sys2Proof.Machine.execPairAnd d a b o s
  | .pairOr d a b o => Sys2Proof.Machine.execPairOr d a b o s
  | .pairXor d a b o => Sys2Proof.Machine.execPairXor d a b o s
  | .pairShl d a b o => Sys2Proof.Machine.execPairShl d a b o s
  | .pairShr d a b o => Sys2Proof.Machine.execPairShr d a b o s
  | .pairSlt d a b o => Sys2Proof.Machine.execPairSlt d a b o s
  | .pairAddi d a imm o => Sys2Proof.Machine.execPairAddi d a imm o s
  | .pairShli d a n o => Sys2Proof.Machine.execPairShli d a n o s
  | .pairShri d a n o => Sys2Proof.Machine.execPairShri d a n o s
  | .pairLi d imm o => Sys2Proof.Machine.execPairLi d imm o s
  | .pairLd d a b imm o => Sys2Proof.Machine.execPairLd d a b imm o s
  | .pairSt d a b imm o => Sys2Proof.Machine.execPairSt d a b imm o s
  | .pairVadd d a b o => Sys2Proof.Machine.execPairVadd d a b o s
  | .pairVsub d a b o => Sys2Proof.Machine.execPairVsub d a b o s
  | .pairVmul d a b o => Sys2Proof.Machine.execPairVmul d a b o s
  | .pairVmin d a b o => Sys2Proof.Machine.execPairVmin d a b o s
  | .pairVmax d a b o => Sys2Proof.Machine.execPairVmax d a b o s
  | .pairVmv d a o => Sys2Proof.Machine.execPairVmv d a o s
  | .pairVsplat d a o => Sys2Proof.Machine.execPairVsplat d a o s
  | .pairSlqtake d a b o => Sys2Proof.Machine.execPairSlqtake d a b o s
  | .pairBarr a o => Sys2Proof.Machine.execPairBarr a o s
  | .pairBwait a b o => Sys2Proof.Machine.execPairBwait a b o s
  | .nop => Sys2Proof.Machine.execNop s
  | .exit => Sys2Proof.Machine.execExit s
  | .eret => Sys2Proof.Machine.execEret s
  | .ifence => Sys2Proof.Machine.execIfence s
  | .yield => Sys2Proof.Machine.execYield s
  | .waite => Sys2Proof.Machine.execWaite s
  | .ret => Sys2Proof.Machine.execRet s
  | .mstart => Sys2Proof.Machine.execMstart s
  | .mstop => Sys2Proof.Machine.execMstop s
  | .mswap => Sys2Proof.Machine.execMswap s
  | .clz d a => Sys2Proof.Machine.execClz d a s
  | .popc d a => Sys2Proof.Machine.execPopc d a s
  | .mpopc d a => Sys2Proof.Machine.execMpopc d a s
  | .mfirst d a => Sys2Proof.Machine.execMfirst d a s
  | .wli d imm => Sys2Proof.Machine.execWli d imm s
  | .wadd d a b imm => Sys2Proof.Machine.execWadd d a b imm s
  | .wsub d a b imm => Sys2Proof.Machine.execWsub d a b imm s
  | .wshl d a b imm => Sys2Proof.Machine.execWshl d a b imm s
  | .wand d a b imm => Sys2Proof.Machine.execWand d a b imm s
  | .wldix d a b sz off => Sys2Proof.Machine.execWldix d a b sz off s
  | .wldvl a b off => Sys2Proof.Machine.execWldvl a b off s
  | .wseek a => Sys2Proof.Machine.execWseek a s
  | .wbr imm => Sys2Proof.Machine.execWbr imm s
  | .wbeq a b imm => Sys2Proof.Machine.execWbeq a b imm s
  | .wblt a b imm => Sys2Proof.Machine.execWblt a b imm s
  | .wloop a imm => Sys2Proof.Machine.execWloop a imm s
  | .wemit a => Sys2Proof.Machine.execWemit a s
  | .wrow a => Sys2Proof.Machine.execWrow a s
  | .wflush => Sys2Proof.Machine.execWflush s
  | .wend => Sys2Proof.Machine.execWend s
  | .waittWake sid => Sys2Proof.Machine.execWaittWake sid s
  | .waiteWake sid => Sys2Proof.Machine.execWaiteWake sid s
  | .mstopDrainDone sid => Sys2Proof.Machine.execMstopDrainDone sid s
  | .slqStripLoad sid => Sys2Proof.Machine.execSlqStripLoad sid s
  | .gcsleepWake sid => Sys2Proof.Machine.execGcsleepWake sid s
  | .mbindRendezvous sid => Sys2Proof.Machine.execMbindRendezvous sid s
  | .matrixQueueExecute sid => Sys2Proof.Machine.execMatrixQueueExecute sid s
  | .governorWindow core b => Sys2Proof.Machine.execGovernorWindow core b s
  | .channelRoom sid => Sys2Proof.Machine.execChannelRoom sid s
  | .interlockRetire sid => Sys2Proof.Machine.execInterlockRetire sid s
  | .copyByteSignal core ch n => Sys2Proof.Machine.execCopyByteSignal core ch n s
  | .copySourceReleased core ch => Sys2Proof.Machine.execCopySourceReleased core ch s
  | .copyDataVisible core ch => Sys2Proof.Machine.execCopyDataVisible core ch s
  | .copyFailed core ch => Sys2Proof.Machine.execCopyFailed core ch s
  | .bufclaimWake sid => Sys2Proof.Machine.execBufclaimWake sid s
  | .bwaitWake sid => Sys2Proof.Machine.execBwaitWake sid s
  | .timedPutRelease op resent => Sys2Proof.Machine.execTimedPutRelease op resent s
  | .collectiveApply op others => Sys2Proof.Machine.execCollectiveApply op others s
  | .collectiveAbort op others => Sys2Proof.Machine.execCollectiveAbort op others s
  | .fabricOpComplete op peerData => Sys2Proof.Machine.execFabricOpComplete op peerData s
  | .fabricOpFailed op peer => Sys2Proof.Machine.execFabricOpFailed op peer s
  | .walkerRoom sid => Sys2Proof.Machine.execWalkerRoom sid s
  | .wkwaitWake sid => Sys2Proof.Machine.execWkwaitWake sid s
  | .walkerRunStart cluster => Sys2Proof.Machine.execWalkerRunStart cluster s
  | .walkerRunFailed cluster => Sys2Proof.Machine.execWalkerRunFailed cluster s
  | .treeWaitEnd sid => Sys2Proof.Machine.execTreeWaitEnd sid s
  | .treeRequestPerformed sid => Sys2Proof.Machine.execTreeRequestPerformed sid s
  | .treeReclaimNode cluster tree => Sys2Proof.Machine.execTreeReclaimNode cluster tree s
  | .treeReclaimStopped cluster tree => Sys2Proof.Machine.execTreeReclaimStopped cluster tree s
  | .glaunchRingSpace sid => Sys2Proof.Machine.execGlaunchRingSpace sid s
  | .gdoneWake sid => Sys2Proof.Machine.execGdoneWake sid s
  | .ident c => Sys2Proof.Machine.execIdent c s
  | .physwin c => Sys2Proof.Machine.execPhyswin c s
  | .ctxnew c => Sys2Proof.Machine.execCtxnew c s
  | .ctxload c items syms tables => Sys2Proof.Machine.execCtxload c items syms tables s
  | .ctxend c => Sys2Proof.Machine.execCtxend c s
  | .tlbinv c => Sys2Proof.Machine.execTlbinv c s
  | .partset c => Sys2Proof.Machine.execPartset c s
  | .qcreate c => Sys2Proof.Machine.execQcreate c s
  | .qdestroy c => Sys2Proof.Machine.execQdestroy c s
  | .winset c => Sys2Proof.Machine.execWinset c s
  | .winclr c => Sys2Proof.Machine.execWinclr c s
  | .groupset c => Sys2Proof.Machine.execGroupset c s
  | .clockset c => Sys2Proof.Machine.execClockset c s
  | .hostreg c => Sys2Proof.Machine.execHostreg c s
  | .govset c => Sys2Proof.Machine.execGovset c s
  | .monread c => Sys2Proof.Machine.execMonread c s
  | .attest c => Sys2Proof.Machine.execAttest c s
  | .fwload c image => Sys2Proof.Machine.execFwload c image s
  | .ckpt c => Sys2Proof.Machine.execCkpt c s
  | .ckptcfg c => Sys2Proof.Machine.execCkptcfg c s
  | .logcfg c => Sys2Proof.Machine.execLogcfg c s
  | .restore c => Sys2Proof.Machine.execRestore c s
  | .replay c => Sys2Proof.Machine.execReplay c s
  | .ckinfo c => Sys2Proof.Machine.execCkinfo c s
  | .spares c => Sys2Proof.Machine.execSpares c s
  | .sendDiscarded c => Sys2Proof.Machine.execSendDiscarded c s
  | .remoteWrite r data mark => Sys2Proof.Machine.execRemoteWrite r data mark s
  | .remoteRead r len => Sys2Proof.Machine.execRemoteRead r len s
  | .remoteAtomic r op v w => Sys2Proof.Machine.execRemoteAtomic r op v w s
  | .ptpMessage rate ebound locked => Sys2Proof.Machine.execPtpMessage rate ebound locked s
  | .ptpLockLost => Sys2Proof.Machine.execPtpLockLost s
  | .submissionRead q => Sys2Proof.Machine.execSubmissionRead q s
  | .completionRecordWrite q => Sys2Proof.Machine.execCompletionRecordWrite q s
  | .poolEntry launch node => Sys2Proof.Machine.execPoolEntry launch node s
  | .dispatch launch node gang places shares areas => Sys2Proof.Machine.execDispatch launch node gang places shares areas s
  | .preemptForTier0 launch node => Sys2Proof.Machine.execPreemptForTier0 launch node s
  | .preemption launch node gang => Sys2Proof.Machine.execPreemption launch node gang s
  | .resumption launch node gang shares => Sys2Proof.Machine.execResumption launch node gang shares s
  | .residencyYield launch node gang => Sys2Proof.Machine.execResidencyYield launch node gang s
  | .nodeComplete launch node => Sys2Proof.Machine.execNodeComplete launch node s
  | .demotion launch node => Sys2Proof.Machine.execDemotion launch node s
  | .timedNodeFire launch node => Sys2Proof.Machine.execTimedNodeFire launch node s
  | .deadlineMissed launch => Sys2Proof.Machine.execDeadlineMissed launch s
  | .deferredFailureTaken sid => Sys2Proof.Machine.execDeferredFailureTaken sid s
  | .monitorSample samples => Sys2Proof.Machine.execMonitorSample samples s
  | .spareSwap kind unit => Sys2Proof.Machine.execSpareSwap kind unit s
  | .unitFailure kind unit => Sys2Proof.Machine.execUnitFailure kind unit s
  | .protectionPoint p => Sys2Proof.Machine.execProtectionPoint p s
  | .powerLoss => Sys2Proof.Machine.execPowerLoss s
  | .ckptStart => Sys2Proof.Machine.execCkptStart s
  | .ckptComplete => Sys2Proof.Machine.execCkptComplete s
  | .secureBoot image => Sys2Proof.Machine.execSecureBoot image s
  | .connectionSetup src feature => Sys2Proof.Machine.execConnectionSetup src feature s

end Sys2Proof.Machine
end

