-- ==== Sys2Proof/Machine/Turns.lean ====
section
/-! DEFINITION. What the turns of the agenda do (log entry 9): a core issues a word, a walker performs one, an event
occurs, cycles pass, a byte fails, and a replay applies the next Logline record (R455). -/

namespace Sys2Proof.Machine

/-! ### Running what has been decoded -/

/-- A late row by a direct call of its meaning, as compiled code runs it. -/
def Late.run (l : Late) (s : State) : Res :=
  match l with
  | .clz d a => execClz d a s
  | .popc d a => execPopc d a s
  | .mpopc d a => execMpopc d a s
  | .mfirst d a => execMfirst d a s
  | .wli d i => execWli d i s
  | .wadd d a b i => execWadd d a b i s
  | .wsub d a b i => execWsub d a b i s
  | .wshl d a b i => execWshl d a b i s
  | .wand d a b i => execWand d a b i s
  | .wldix d a b sz off => execWldix d a b sz off s
  | .wldvl a b off => execWldvl a b off s
  | .wseek a => execWseek a s
  | .wbr i => execWbr i s
  | .wbeq a b i => execWbeq a b i s
  | .wblt a b i => execWblt a b i s
  | .wloop a i => execWloop a i s
  | .wemit a => execWemit a s
  | .wrow a => execWrow a s
  | .wflush => execWflush s
  | .wend => execWend s
  | .waittWake sid => execWaittWake sid s
  | .waiteWake sid => execWaiteWake sid s
  | .mstopDrainDone sid => execMstopDrainDone sid s
  | .slqStripLoad sid => execSlqStripLoad sid s
  | .gcsleepWake sid => execGcsleepWake sid s
  | .mbindRendezvous sid => execMbindRendezvous sid s
  | .matrixQueueExecute sid => execMatrixQueueExecute sid s
  | .governorWindow core b => execGovernorWindow core b s
  | .channelRoom sid => execChannelRoom sid s
  | .interlockRetire sid => execInterlockRetire sid s
  | .copyByteSignal core ch n => execCopyByteSignal core ch n s
  | .copySourceReleased core ch => execCopySourceReleased core ch s
  | .copyDataVisible core ch => execCopyDataVisible core ch s
  | .copyFailed core ch => execCopyFailed core ch s
  | .bufclaimWake sid => execBufclaimWake sid s
  | .bwaitWake sid => execBwaitWake sid s
  | .timedPutRelease op resent => execTimedPutRelease op resent s
  | .collectiveApply op others => execCollectiveApply op others s
  | .collectiveAbort op others => execCollectiveAbort op others s
  | .fabricOpComplete op peerData => execFabricOpComplete op peerData s
  | .fabricOpFailed op peer => execFabricOpFailed op peer s
  | .walkerRoom sid => execWalkerRoom sid s
  | .wkwaitWake sid => execWkwaitWake sid s
  | .walkerRunStart cluster => execWalkerRunStart cluster s
  | .walkerRunFailed cluster => execWalkerRunFailed cluster s
  | .treeWaitEnd sid => execTreeWaitEnd sid s
  | .treeRequestPerformed sid => execTreeRequestPerformed sid s
  | .treeReclaimNode cluster tree => execTreeReclaimNode cluster tree s
  | .treeReclaimStopped cluster tree => execTreeReclaimStopped cluster tree s
  | .glaunchRingSpace sid => execGlaunchRingSpace sid s
  | .gdoneWake sid => execGdoneWake sid s
  | .ident c => execIdent c s
  | .physwin c => execPhyswin c s
  | .ctxnew c => execCtxnew c s
  | .ctxload c items syms tables => execCtxload c items syms tables s
  | .ctxend c => execCtxend c s
  | .tlbinv c => execTlbinv c s
  | .partset c => execPartset c s
  | .qcreate c => execQcreate c s
  | .qdestroy c => execQdestroy c s
  | .winset c => execWinset c s
  | .winclr c => execWinclr c s
  | .groupset c => execGroupset c s
  | .clockset c => execClockset c s
  | .hostreg c => execHostreg c s
  | .govset c => execGovset c s
  | .monread c => execMonread c s
  | .attest c => execAttest c s
  | .fwload c image => execFwload c image s
  | .ckpt c => execCkpt c s
  | .ckptcfg c => execCkptcfg c s
  | .logcfg c => execLogcfg c s
  | .restore c => execRestore c s
  | .replay c => execReplay c s
  | .ckinfo c => execCkinfo c s
  | .spares c => execSpares c s
  | .sendDiscarded c => execSendDiscarded c s
  | .remoteWrite r data mark => execRemoteWrite r data mark s
  | .remoteRead r len => execRemoteRead r len s
  | .remoteAtomic r op v w => execRemoteAtomic r op v w s
  | .ptpMessage rate ebound locked => execPtpMessage rate ebound locked s
  | .ptpLockLost => execPtpLockLost s
  | .submissionRead q => execSubmissionRead q s
  | .completionRecordWrite q => execCompletionRecordWrite q s
  | .poolEntry launch node => execPoolEntry launch node s
  | .dispatch launch node gang places shares areas => execDispatch launch node gang places shares areas s
  | .preemptForTier0 launch node => execPreemptForTier0 launch node s
  | .preemption launch node gang => execPreemption launch node gang s
  | .resumption launch node gang shares => execResumption launch node gang shares s
  | .residencyYield launch node gang => execResidencyYield launch node gang s
  | .nodeComplete launch node => execNodeComplete launch node s
  | .demotion launch node => execDemotion launch node s
  | .timedNodeFire launch node => execTimedNodeFire launch node s
  | .deadlineMissed launch => execDeadlineMissed launch s
  | .deferredFailureTaken sid => execDeferredFailureTaken sid s
  | .monitorSample samples => execMonitorSample samples s
  | .spareSwap kind unit => execSpareSwap kind unit s
  | .unitFailure kind unit => execUnitFailure kind unit s
  | .protectionPoint p => execProtectionPoint p s
  | .powerLoss => execPowerLoss s
  | .ckptStart => execCkptStart s
  | .ckptComplete => execCkptComplete s
  | .secureBoot image => execSecureBoot image s
  | .connectionSetup src feature => execConnectionSetup src feature s

/-- A decoded row by direct calls. -/
def Raw.run (r : Raw) (s : State) : Res :=
  match r with
  | .ins i => exec i s
  | .late l => Late.run l s

/-- The instruction of a late row, executed. -/
noncomputable def execLate (l : Late) (s : State) : Res := exec l.instr s

@[csimp] theorem execLate_run : @execLate = @Late.run := by
  funext l s
  cases l <;> rfl

/-- A decoded row, executed. -/
noncomputable def execRaw (r : Raw) (s : State) : Res := exec r.instr s

@[csimp] theorem execRaw_run : @execRaw = @Raw.run := by
  funext r s
  cases r with
  | ins i => rfl
  | late l => cases l <;> rfl

/-! ### A core -/

/-- After a strand's turn: a word that only stalled has not been issued, and the place that issued last stays (R12). One
that has handed its request to the tree engine has. -/
def State.counted (s : State) (c : Nat) (t : Strand) : State :=
  if s.me.id == t.id && s.me.hold.isSome && !s.me.awaiting then s else s.issued c t

/-- A core issues a word: the strand whose turn it is takes a pending failure, and issues none (R410), or its next word is
fetched, decoded and executed; a refused fetch or word is a fault at the program counter (R398). -/
def coreTurn (c : Nat) (stop : Option Nat) (s : State) : Res :=
  match (if s.running then s.issues c else none) with
  | none => .next s
  | some t =>
    match s.select t.id with
    | none => .next s
    | some u =>
      if u.me.mustTake then
        .next ((u.setMe { u.me with blocked := none, hold := none }).takePending.getD u)
      else
        match (u.setMe { u.me with stopAt := stop }).next with
        | .error f => .next ((u.takeFault f u.me.pc 0).issued c t)
        | .ok (r, v) =>
          match execRaw r v with
          | .next w => .next (w.counted c t)
          | o => o

/-! ### A walker -/

/-- The walker of a cluster performs the word at its program counter; a word with a field that it does not use is cause
26 (R446). -/
def walkerTurn (k : Nat) (s : State) : Res :=
  let t := { s with wfront := k }
  match (if s.running then t.walking else none) with
  | none => .next s
  | some w =>
    match w.run.prog[w.pc.toNat]? with
    | none => .next s
    | some b =>
      match decodeWalkerRaw b.toNat with
      | some l => execLate l t
      | none => .next (t.setWalk (w.stop 26 0))

/-! ### Events -/

/-- When an event can occur: commands are heard as R365 and R367 say, boot as R367 says; what outside parties, the
controller and the sequencer do needs a booted module; the rest needs one that executes programs. -/
def Late.occurs (l : Late) (s : State) : Bool :=
  match l with
  | .secureBoot _ => true
  | .ident _ | .physwin _ | .ctxnew _ | .ctxload _ _ _ _ | .ctxend _ | .tlbinv _ | .partset _ | .qcreate _ | .qdestroy _
  | .winset _ | .winclr _ | .groupset _ | .clockset _ | .hostreg _ | .govset _ | .monread _ | .attest _ | .fwload _ _
  | .ckpt _ | .ckptcfg _ | .logcfg _ | .restore _ | .replay _ | .ckinfo _ | .spares _ => true
  | .sendDiscarded _ | .remoteWrite _ _ _ | .remoteRead _ _ | .remoteAtomic _ _ _ _ | .ptpMessage _ _ _ | .ptpLockLost
  | .monitorSample _ | .spareSwap _ _ | .unitFailure _ _ | .protectionPoint _ | .powerLoss | .ckptStart | .ckptComplete
  | .connectionSetup _ _ => s.booted
  | _ => s.running

/-- A command message with a reserved opcode arrives (R347, R348); the other opcodes are events. -/
def commandTurn (opc : BitVec 16) (c : Cmd) (s : State) : Res :=
  if [0x00, 0x0E, 0x0F].contains opc.toNat || 0x1C ≤ opc.toNat then s.reserved opc.toNat c else .next s

def eventTurn (l : Late) (s : State) : Res := if Late.occurs l s then execLate l s else .next s

/-! ### Time (R55, R354) -/

/-- What a node is charged for a number of cycles (R55). -/
def State.chargeFor (s : State) (l : Launch) (idx : Nat) (n : Node) (k : Nat) : Nat :=
  let mine (i : Issuer) : Bool := i.sid.isNone && sameNode i.gang ⟨l.no, idx, 0⟩
  let on (b : Bool) : Nat := if b then k else 0
  if n.st != .running then 0
  else
    match n.r.kind with
    | 0 => k * s.residents l.no idx
    | 1 => on (((s.cluster n.unit).wst.map (fun w => mine w.run.iss)).getD false)
    | 2 => on (((s.chanHead (n.unit / 4) (n.unit % 4)).map (fun c => mine c.iss)).getD false)
    | 3 => on (s.fabs.any (fun f => mine f.iss))
    | _ => 0

/-- Cycles count against nodes, blocked strands (R38) and YIELDs (R195). -/
def State.passCycles (s : State) (k : Nat) : State :=
  if !s.running then s
  else
    let ls := s.launches.map (fun l => { l with nodes :=
      ((List.range l.nodes.length).zip l.nodes).map (fun (i, n) => { n with charge := n.charge + s.chargeFor l i n k }) })
    { s with launches := ls }.mapStrands (fun t =>
      if t.resident then { t with
        blockedFor := if t.blocked.isSome then t.blockedFor + k else 0
        yieldLeft := t.yieldLeft - k }
      else t)

/-- `k` cycles pass: TIME advances at the rate in force (R354, R355). -/
def tickTurn (k : Nat) (s : State) : Res :=
  let t := s.passCycles k
  let f := t.timeFrac + k * clampRate t.loaded t.rate
  .next { t with
    cycle := t.cycle + k
    time := t.time + BitVec.ofNat 64 (f / 10000000000)
    timeFrac := f % 10000000000 }

/-! ### Memory that fails (R414, R412) -/

def readErrorTurn (loc : Nat) (s : State) : Res := .next (if s.bad.contains loc then s else { s with bad := loc :: s.bad })

def writeErrorTurn (loc : Nat) (fails : Bool) (s : State) : Res :=
  .next { s with wbad := (if fails then [loc] else []) ++ s.wbad.filter (· != loc) }

/-! ### Replay (R455) -/

/-- A command out of its record. The record does not name the sender, for which the replaying host stands. -/
def cmdOf (r : Replay) (l : LogR) : Cmd :=
  let b := l.payload
  let w (o : Nat) : Word := BitVec.ofNat 64 (field b o 8)
  ⟨r.host, l.port == lanePort, l.port, 0, BitVec.ofNat 32 (field b 0 4), BitVec.ofNat 16 (field b 6 2), w 8,
    BitVec.ofNat 32 (field b 16 4), BitVec.ofNat 32 (field b 20 4), w 24, w 32, w 40, w 48, w 56, b.drop 64⟩

/-- The row of a recorded command, with what it read from the host's memory when it was recorded. -/
def lateOfCmd (opc : Nat) (c : Cmd) (b : Brought) : Option Late :=
  match opc with
  | 0x01 => some (.ident c)
  | 0x02 => some (.physwin c)
  | 0x03 => some (.ctxnew c)
  | 0x04 => some (.ctxload c b.items b.syms b.tables)
  | 0x05 => some (.ctxend c)
  | 0x06 => some (.tlbinv c)
  | 0x07 => some (.partset c)
  | 0x08 => some (.qcreate c)
  | 0x09 => some (.qdestroy c)
  | 0x0A => some (.winset c)
  | 0x0B => some (.winclr c)
  | 0x0C => some (.groupset c)
  | 0x0D => some (.clockset c)
  | 0x10 => some (.hostreg c)
  | 0x11 => some (.govset c)
  | 0x12 => some (.monread c)
  | 0x13 => some (.attest c)
  | 0x14 => some (.fwload c b.image)
  | 0x15 => some (.ckpt c)
  | 0x16 => some (.ckptcfg c)
  | 0x17 => some (.logcfg c)
  | 0x18 => some (.restore c)
  | 0x19 => some (.replay c)
  | 0x1A => some (.ckinfo c)
  | 0x1B => some (.spares c)
  | _ => none

/-- Replies and records to the replaying host alone leave what a recorded command does (R455). -/
def Replay.lets (r : Replay) (o : Out) : Bool :=
  match o with
  | .reply dst _ _ _ _ _ => dst == r.host
  | .record host _ => host == r.host
  | _ => false

/-- What a recorded command read; of one that was not received whole, an object that cannot be read. -/
def State.broughtBy (s : State) (lseq : Nat) : Brought :=
  ((s.loads.find? (fun e => e.1 == lseq)).map (·.2)).getD ⟨[⟨0, 0, none, none, none⟩], [], [], []⟩

/-- Perform a recorded command: the module hears it as it did, and only what is for the replaying host leaves. A recorded
REPLAY that finds no context loaded brings the image back and starts no second replay (log entry 132). -/
def replayCommand (r : Replay) (l : LogR) (s : State) : State :=
  let c := cmdOf r l
  let live := { s with
    replay := none, logOn := false, hosts := if s.registered r.host then s.hosts else (r.host, false) :: s.hosts }
  let opc := field l.payload 4 2
  match (match lateOfCmd opc c (s.broughtBy l.lseq) with
    | some x => execLate x live
    | none => live.reserved opc c) with
    | .next t =>
      let new := (t.out.drop s.out.length).filter r.lets
      { t with replay := s.replay, logOn := s.logOn && t.logArea == s.logArea && t.logPos == s.logPos, out := s.out ++ new,
               hosts := if s.registered r.host then t.hosts else t.hosts.filter (fun h => h.1 != r.host) }
    | _ => s

/-- A recorded write or atomic at its place; an atomic that returns another value is a divergence. -/
def replayRemote (l : LogR) (s : State) : State :=
  match s.window? l.win with
  | none => s
  | some w =>
    let n := if l.ltype = 2 then l.payload.length else 8
    match winBytes s w l.tag.toNat n .write with
    | none => s
    | some (bs, t) =>
      if l.ltype = 2 then t.pokeByts bs l.payload
      else
        let old := BitVec.ofNat 64 (ofLE (bs.map (fun b => Memory.get t.mem b.loc)))
        let v := BitVec.ofNat 64 (field l.payload 8 8)
        let op : RAtomic := match field l.payload 0 8 with
          | 0 => .fetchAdd
          | 1 => .swap
          | _ => .cswap
        let t := match atomicNew op old v (BitVec.ofNat 64 (field l.payload 16 8)) with
          | some x => t.pokeByts bs (toLE 8 x.toNat)
          | none => t
        if old.toNat = field l.payload (l.payload.length - 8) 8 then t else t.diverge 3 0#64 0#64

/-- Is nothing left that could run on without a further record. -/
def State.atRest (s : State) : Bool :=
  s.all.isEmpty && s.launches.isEmpty && s.queues.all (fun q => q.cpls.isEmpty && !s.canRead q)

/-- Has every location that a recorded write or atomic writes had the writes that came before it (R375). -/
def State.inPlace (s : State) (lseq : Nat) : Bool :=
  s.places.all (fun p => p.1 != lseq || p.2.all (fun c => c.2 ≤ writesOf s.coh c.1))

/-- Has a replay written a location more often than before a recorded write that it has still to perform (R455). -/
def State.overwrote (s : State) : Bool :=
  match s.replay with
  | none => false
  | some r => s.places.any (fun p => r.lseq ≤ p.1 && p.2.any (fun c => c.2 < writesOf s.coh c.1))

/-- The next record of a replay: commands are performed, remote operations at their place in the coherence order of what
they write; a wait point, a decision and the contributions to a collective wait for the strand, node or queue they belong
to; other values are looked up where they are read. A decision whose submission nothing is left to make is a
divergence. -/
def replayTurn (s : State) : Res :=
  match s.replay with
  | none => .next s
  | some r =>
    match s.logAt r.pos r.lseq with
    | none => .next s.stopReplay
    | some l =>
      match l.ltype with
      | 1 => .next ((replayCommand r l s).applied l)
      | 2 | 3 => .next (if s.inPlace l.lseq || s.atRest then (replayRemote l s).applied l else s)
      | 4 => .next (if field l.payload 0 8 = 0 then s else s.applied l)
      | 5 => .next (s.applied l)
      | 6 => .next s.stopReplay
      | 7 => .next s
      | _ => .next (if s.atRest then s.diverge 2 0#64 0#64 else s)

/-! ### One turn -/

/-- What a turn does. -/
def takeTurn (t : Turn) (s : State) : Res :=
  match t with
  | .core c stop => coreTurn c stop s
  | .walker k => walkerTurn k s
  | .event e => eventTurn e s
  | .command opc c => commandTurn opc c s
  | .tick n => tickTurn n s
  | .readError loc => readErrorTurn loc s
  | .writeError loc fails => writeErrorTurn loc fails s
  | .logRecord => replayTurn s

/-- A turn. In a replay one that would write a location before a recorded write whose place comes first does not happen yet
(R455). -/
def runTurn (t : Turn) (s : State) : Res :=
  match takeTurn t s with
  | .next u => .next (if s.replay.isSome && u.overwrote then s else u)
  | o => o

end Sys2Proof.Machine
end

