-- ==== Sys2Proof/Machine/Step.lean ====
section
/-! DEFINITION. One step of the module, and where a single instruction is placed so that the next step runs it. -/

namespace Sys2Proof.Machine

/-- The head of the agenda takes its turn. With nothing to come the module idles; powered down, it is stuck (log entry
9). -/
def step (s : State) : Host.Outcome State Fault Refusal :=
  match s.agenda with
  | [] => if s.boot = .down then .fault .poweredDown else .next s
  | t :: rest => runTurn t { s with agenda := rest }

/-! ### Placing an instruction (log entry 9) -/

/-- The virtual and physical address at which `withFetchWord` places a strand's instruction. -/
def fetchAddr : Nat := 0x10000

/-- A context whose text lies in one executable page of HBM, its table entries cached as the loader leaves them (R87). -/
def fetchCtx : Ctx where
  n := 1
  host := 0
  t0 := 0x2000
  partMask := 0
  poolBase := 0
  poolLen := 0
  objs := []
  pins := [(fetchAddr, 4096)]
  codeLo := fetchAddr
  codeHi := fetchAddr + 4096
  tlb := [⟨0, 0, 0x2000, 0x4004, 0⟩, ⟨1, 0, 0x4000, 0x6004, 0⟩, ⟨2, 0, 0x6000, 2 ^ 59 + 2 ^ 56 + 0x28, 0⟩]
  handler := none

/-- A strand that is about to fetch the word at `fetchAddr`. -/
def fetchStrand : Strand := { Strand.blank with
  id := 1
  live := .resident
  ctx := 1
  pc := BitVec.ofNat 64 fetchAddr
  b := (Vector.replicate 16 Bound.zero).set 0
    ⟨BitVec.ofNat 64 fetchAddr, BitVec.ofNat 64 fetchAddr, 4096#64, 4#16⟩ }

/-- A run of the walker of cluster 0 that is about to perform a word. -/
def fetchRun (w : Nat) : WState where
  run := {
    ticket := 1, op := 0, iss := ⟨none, 1, 0, ⟨0, 0, 0⟩, 0#64, 0#32, 0#7, 0⟩, nin := 0, outk := 0, otype := .f32,
    obnd := Bound.zero, out := 0, outlen := 0, inbnds := [], inaddrs := [], inlens := [], prog := [BitVec.ofNat 32 w],
    w1 := 0#64, barrier := none }
  w := Vector.replicate 16 0#64
  pc := 0
  tile := 0#131072
  row := 0
  col := 0
  flushes := 0
  img := none
  fail := none

/-- The state with an instruction where the next step fetches: up to 32 bits are a word of the walker, more are the words
of a strand (log entry 8). -/
def State.withFetchWord (s : State) (nbits w : Nat) : State :=
  if nbits ≤ 32 then
    { s with
      boot := .up
      wfront := 0
      clusters := [(0, { Cluster.reset with tickets := 1, wst := some (fetchRun w) })]
      agenda := [.walker 0] }
  else
    { s with
      boot := .up
      me := fetchStrand
      ctxs := [fetchCtx]
      nextSid := 2
      mem := Memory.puts s.mem (span fetchAddr 16) (toLE 16 w)
      agenda := [.core 0 none] }

end Sys2Proof.Machine
end

