-- ==== Sys2Proof/Safety.lean ====
section
/-! DEFINITION. What a safe run is, in the terms the statements use. -/

namespace Sys2Proof

open Sys2Proof.Machine

/-- A step has gone wrong: the machine stands still or has no meaning for what it was given. -/
def Stops (s : State) : Prop := ∀ t, step s ≠ .next t

/-- Every step from a state, up to a number of them, answers a next state. -/
def RunsFor : Nat → State → Prop
  | 0, _ => True
  | n + 1, s => ∃ t, step s = .next t ∧ RunsFor n t

/-- Memory is in its canonical form. -/
structure Sound (s : State) : Prop where
  mem : Memory.wf s.mem

end Sys2Proof
end

