-- ==== Sys2Proof/Certificates/Slice0/Obligations.lean ====
section
/-! DEFINITION. The statements about the Gralin 4 for the provers, with the notions they are said in. -/

open Sys2Proof Sys2Proof.Machine

namespace Sys2Proof.Claims

/-! ### Notions of several statements -/

/-- What the invariant of a step says: memory is in canonical form, and so is the scratch part of a checkpoint image,
whose places lie above every physical address. -/
structure Inv (s : State) : Prop where
  mem : Memory.wf s.mem
  image : ∀ i, s.image = some i → Memory.wf i.scratch ∧ ∀ c ∈ i.scratch, safeEnd ≤ c.1

/-- The module but for the strand in front. -/
def sameModule (s t : State) : Prop := t = s.setMe t.me

/-- The strand's x registers but one, and every register of another kind, as they were. -/
structure OnlyX (d : XReg) (a b : Strand) : Prop where
  x : ∀ r, r ≠ d → b.getX r = a.getX r
  rest : b = { a with
    x := b.x, pc := b.pc, prev := b.prev, seq := b.seq, hold := b.hold, blocked := b.blocked, blockedFor := b.blockedFor }

/-- The strand but for its program counter, its count of instructions, and what the device keeps of its waits. -/
def sameRegisters (a b : Strand) : Prop :=
  b = { a with
    pc := b.pc, prev := b.prev, seq := b.seq, hold := b.hold, blocked := b.blocked, blockedFor := b.blockedFor }

/-- An instruction writes `v` to x[d] and goes on at the next word: a write to x0 is discarded. -/
def WritesX (i : Instr) (s : State) (d : XReg) (v : Word) : Prop :=
  ∃ t, exec i s = .next t ∧ t.me.getX d = (if d = 0 then 0#64 else v) ∧ t.me.pc = s.me.pc + 8#64
    ∧ OnlyX d s.me t.me ∧ sameModule s t

/-- 1 in handler mode, else 0: a push of a handler faults one entry sooner (R400). -/
def ownHandler (st : Strand) : Nat := if st.handler.isSome then 1 else 0

/-- What a turn that would end so comes to: in a replay it does not happen yet where it would write a location before a
recorded write whose place comes first (R455; log entry 151); elsewhere it is that. -/
def inReplayOrder (base : State) (r : Res) : Res :=
  match r with
  | .next u => .next (if base.replay.isSome && u.overwrote then base else u)
  | o => o

/-- `t` is `s` but for memory and what a write to memory and a record of Logline change beside it. -/
def RecordOnly (s t : State) : Prop :=
  t = { s with
    mem := t.mem, bad := t.bad, dirtyArmed := t.dirtyArmed, coh := t.coh, image := t.image, logPos := t.logPos,
    lseq := t.lseq, logDec := t.logDec, logOn := t.logOn, hseq := t.hseq, out := t.out,
    me := { s.me with resv := t.me.resv }, strands := t.strands }

/-- No queued matrix instruction still writes a vector register (R257). -/
def rowFree (st : Strand) : Bool := st.mqueue.all (fun e => match e.instr with | .mrdrow .. => false | _ => true)

end Sys2Proof.Claims

open Sys2Proof.Claims

/-! ### Encoding and decoding -/

/-- Words that the spec writes out stand for the instructions it says. -/
def Obligations.SpecWordsDecode : Prop :=
  decodeWords [0] = .ok .nop ∧
  decodeWords [0x00400C1080000000] = .ok (.add 3 1 2) ∧
  decodeWords [0x0149106FFFFFFFFB] = .ok (.bstrip 4 6 (-5)) ∧
  decodeWords [0x0180164B654C0000] = .ok (.ld ⟨5, 9, 11, 3, .acq, .cl, .i64, 0⟩) ∧
  decodeWords [0x0004000000000000] = .ok .eret ∧
  decodeWords [0x4E110C0010108008] = .error (.encoding 11 4) ∧
  decodeWalker 0x56058000 = some (.wldix 6 0 5 2 0) ∧
  decodeWalker 0x80000000 = some (.wbr 0)

/-- Decoding what the encoder writes gives the instruction back, with every operand at every value. -/
def Sys2Proof.Claims.DecodeEncode : Prop :=
  ∀ i : Instr, i.wf = true → encode i ≠ [] → decodeOwn i (encode i) = some i

/-- The other direction for the walker's 32-bit words: a word that decodes is the one the encoder writes. -/
def Sys2Proof.Claims.WalkerWordsHaveOneMeaning : Prop :=
  ∀ (w : Nat) (i : Instr), w < 2 ^ 32 → decodeWalker w = some i → encode i = [w]

/-- Decoding what the encoder writes gives every well-formed instruction back, and a walker word has one meaning. The parts
are stated above, each with its rules. -/
def Obligations.DecodingAndEncodingAgree : Prop :=
  Claims.DecodeEncode ∧ Claims.WalkerWordsHaveOneMeaning

/-- R434 DETAIL 0: a full word whose major is in no table is refused with DETAIL 0 and FINFO2 61, whatever its other bits
hold; a continuation word is no instruction in first place (R171). -/
def Obligations.ReservedWordsRefused : Prop :=
  (∀ w rest : _, bitsOf w 63 62 = 0 → 25 ≤ bitsOf w 61 54 → decodeRaw (w :: rest) = .error (.encoding 0 61)) ∧
  (∀ w c : Nat, bitsOf w 63 62 = 2 → 25 ≤ bitsOf w 61 54 → bitsOf c 63 62 = 3 →
    decodeRaw [w, c] = .error (.encoding 0 61)) ∧
  (∀ (w : Nat) (rest : List Nat), bitsOf w 63 62 = 3 → decodeRaw (w :: rest) = .error .continuation)

/-! ### A step -/

/-- A core's turn runs what its strand's next words decode to: with the strand that issues in front, and no pending
failure to take, the fetched words' instruction is executed. The strand's place becomes the one that issued last, unless
the word only stalled; a request to the tree engine has been issued (R12, log entry 9). -/
def Sys2Proof.Claims.StepRunsDecoded : Prop :=
  ∀ (s u v : State) (c : Nat) (stop : Option Nat) (rest : List Turn) (t : Strand) (ws : List Nat) (i : Instr),
    s.agenda = .core c stop :: rest → s.running = true → ({ s with agenda := rest } : State).issues c = some t →
    ({ s with agenda := rest } : State).select t.id = some u → u.me.mustTake = false →
    (u.setMe { u.me with stopAt := stop }).fetch = .ok (ws, v) → decodeWords ws = .ok i →
    step s = inReplayOrder { s with agenda := rest } (match exec i v with
      | .next w =>
        if w.me.id = t.id ∧ w.me.hold.isSome = true ∧ w.me.awaiting = false then .next w else .next (w.issued c t)
      | o => o)

/-- A walker's turn runs the word at its program counter. -/
def Sys2Proof.Claims.StepRunsWalkerWord : Prop :=
  ∀ (s : State) (k : Nat) (rest : List Turn) (w : WState) (b : BitVec 32) (i : Instr),
    s.agenda = .walker k :: rest → s.running = true → ({ s with agenda := rest, wfront := k } : State).walking = some w →
    w.run.prog[w.pc.toNat]? = some b → decodeWalker b.toNat = some i →
    step s = inReplayOrder { s with agenda := rest } (exec i { s with agenda := rest, wfront := k })

/-- An event that can occur is executed; what a module cannot hear or do in its state changes nothing but the agenda. -/
def Sys2Proof.Claims.StepRunsEvent : Prop :=
  ∀ (s : State) (e : Late) (rest : List Turn), s.agenda = .event e :: rest →
    (Late.occurs e { s with agenda := rest } = true →
      step s = inReplayOrder { s with agenda := rest } (exec e.instr { s with agenda := rest })) ∧
    (Late.occurs e { s with agenda := rest } = false → step s = .next { s with agenda := rest })

/-- R348: a command message whose opcode is reserved is answered STATUS 1 on the port it came from, with both values 0, where
it is heard, and nothing else changes but what Logline records of it (R375): no byte of memory but those of the Logline
region and LDIRTY's, and without a recording nothing at all but the answer. One that is not heard changes nothing. -/
def Sys2Proof.Claims.StepRunsReservedCommand : Prop :=
  ∀ (s base : State) (opc : BitVec 16) (c : Cmd) (rest : List Turn), s.agenda = .command opc c :: rest →
    base = { s with agenda := rest } → base.replay = none →
    (opc = 0x00#16 ∨ opc = 0x0E#16 ∨ opc = 0x0F#16 ∨ 0x1C ≤ opc.toNat) →
    (base.hears opc.toNat c = false → step s = .next base) ∧
    (base.hears opc.toNat c = true → ∃ t, step s = .next t ∧ RecordOnly base t ∧
      t.out.getLast? = some (.reply c.src c.lane c.tag 1 0#64 0#64) ∧
      (base.logOn = false ∨ base.logArea = none → t = { base with out := base.out ++ [.reply c.src c.lane c.tag 1 0#64 0#64] }) ∧
      (∀ b n, base.logArea = some (b, n) → ∀ a, a < b ∨ b + n ≤ a → (∀ k m, base.ckArea = some (k, m) → a ≠ k + 5) →
        Memory.get t.mem a = Memory.get base.mem a))

/-- A step runs the decoded instruction: of a strand, of a walker, or an event (log entries 4 and 9). The parts are stated
above, each with its rules. -/
def Obligations.StepRuns : Prop :=
  Claims.StepRunsDecoded ∧ Claims.StepRunsWalkerWord ∧ Claims.StepRunsEvent ∧ Claims.StepRunsReservedCommand

/-- The word that a strand fetches is the eight bytes at its program counter, the lowest byte first (R3, R79): where the
bound that CODEB names admits the fetch, the page grants it, no byte is uncorrectable, and the word is one by itself. -/
def Obligations.FetchReadsCode : Prop :=
  ∀ (s t : State) (bs : List Byt), s.me.pc.toNat % 8 = 0 →
    (s.me.getB s.me.codeb).refuses useEX s.me.pc.toNat 8 = none →
    resolve s.who .fetch false ((s.me.getB s.me.codeb).addrs s.me.pc.toNat 8) s none [] = .ok (bs, t) →
    t.bad = [] → t.me.icache = [] → bitsOf (ofLE (bs.map (fun b => Memory.get t.mem b.loc))) 63 62 < 2 →
    ∃ u, s.fetch = .ok ([ofLE (bs.map (fun b => Memory.get t.mem b.loc))], u) ∧ u.mem = t.mem ∧
      u.me.x = s.me.x ∧ u.me.pc = s.me.pc

/-! ### Reset and the invariant -/

/-- The invariant holds right after reset. -/
def Obligations.ResetInv : Prop := Inv State.reset

/-- The invariant is kept by every step. -/
def Obligations.StepKeepsInv : Prop := ∀ s t : State, Inv s → step s = .next t → Inv t

/-! ### The register files -/

/-- R189: a write to x0 is discarded and x0 reads as zero; a write to another register is read back, and no other
register changes. -/
def Sys2Proof.Claims.XRegisters : Prop :=
  ∀ (st : Strand) (d r : XReg) (v : Word),
    st.getX 0 = 0#64 ∧ st.setX 0 v = st ∧ (d ≠ 0 → (st.setX d v).getX d = v) ∧
    (r ≠ d → (st.setX d v).getX r = st.getX r) ∧ st.setX d v = { st with x := (st.setX d v).x }

/-! ### Integer and immediate instructions (R198 to R201) -/

namespace Sys2Proof.Claims

/-- The table of R198 with R199's borderline cases: destination and value. -/
noncomputable def intValue (st : Strand) : Instr → Option (XReg × Word)
  | .add d a b => some (d, st.getX a + st.getX b)
  | .sub d a b => some (d, st.getX a - st.getX b)
  | .mul d a b => some (d, BitVec.ofNat 64 ((st.getX a).toNat * (st.getX b).toNat))
  | .mulh d a b => some (d, (((st.getX a).signExtend 128 * (st.getX b).signExtend 128) >>> 64).setWidth 64)
  | .mulhu d a b => some (d, (((st.getX a).setWidth 128 * (st.getX b).setWidth 128) >>> 64).setWidth 64)
  | .div d a b => some (d, if st.getX b = 0#64 then BitVec.allOnes 64 else (st.getX a).sdiv (st.getX b))
  | .divu d a b => some (d, if st.getX b = 0#64 then BitVec.allOnes 64 else (st.getX a).udiv (st.getX b))
  | .rem d a b => some (d, (st.getX a).srem (st.getX b))
  | .remu d a b => some (d, (st.getX a).umod (st.getX b))
  | .and d a b => some (d, st.getX a &&& st.getX b)
  | .or d a b => some (d, st.getX a ||| st.getX b)
  | .xor d a b => some (d, st.getX a ^^^ st.getX b)
  | .andn d a b => some (d, st.getX a &&& ~~~(st.getX b))
  | .shl d a b => some (d, st.getX a <<< (st.getX b &&& 63#64))
  | .shr d a b => some (d, st.getX a >>> (st.getX b &&& 63#64))
  | .sra d a b => some (d, (st.getX a).sshiftRight ((st.getX b).toNat % 64))
  | .slt d a b => some (d, if (st.getX a).slt (st.getX b) then 1#64 else 0#64)
  | .sltu d a b => some (d, if (st.getX a).ult (st.getX b) then 1#64 else 0#64)
  | .min d a b => some (d, if (st.getX a).slt (st.getX b) then st.getX a else st.getX b)
  | .max d a b => some (d, if (st.getX a).slt (st.getX b) then st.getX b else st.getX a)
  | .sel d a b c => some (d, if st.getX c ≠ 0#64 then st.getX a else st.getX b)
  | _ => none

/-- The table of R200, with LID of R201 and its two words. -/
def immValue (st : Strand) : Instr → Option (XReg × Word)
  | .addi d a i => some (d, st.getX a + i.signExtend 64)
  | .andi d a i => some (d, st.getX a &&& i.signExtend 64)
  | .ori d a i => some (d, st.getX a ||| i.signExtend 64)
  | .xori d a i => some (d, st.getX a ^^^ i.signExtend 64)
  | .shli d a n => some (d, st.getX a <<< n)
  | .shri d a n => some (d, st.getX a >>> n)
  | .srai d a n => some (d, (st.getX a).sshiftRight n.toNat)
  | .slti d a i => some (d, if (st.getX a).slt (i.signExtend 64) then 1#64 else 0#64)
  | .sltui d a i => some (d, if (st.getX a).ult (i.signExtend 64) then 1#64 else 0#64)
  | .li d i => some (d, i.signExtend 64)
  | .addpc d i => some (d, st.pc + i.signExtend 64)
  | _ => none

end Sys2Proof.Claims

/-- Every integer instruction writes its value to x[d], raises nothing, never traps, and changes no other register, no
flag and no memory (R198, R199). -/
def Sys2Proof.Claims.IntegerResults : Prop :=
  ∀ (s : State) (i : Instr) (d : XReg) (v : Word), intValue s.me i = some (d, v) → WritesX i s d v

/-- CLZ counts the zero bits above the highest set bit; POPC counts the set bits (R198). -/
def Sys2Proof.Claims.CountResults : Prop :=
  ∀ (s : State) (d a : XReg),
    (∃ n : Nat, WritesX (.clz d a) s d (BitVec.ofNat 64 n) ∧ n ≤ 64 ∧ (s.me.getX a).toNat < 2 ^ (64 - n) ∧
      (n < 64 → (s.me.getX a).getLsbD (63 - n) = true)) ∧
    WritesX (.popc d a) s d (BitVec.ofNat 64 (((List.range 64).map (fun k => ((s.me.getX a).getLsbD k).toNat)).sum))

/-- Every immediate instruction writes its value to x[d] and changes nothing else (R200); LID writes its 64 bits and goes
on behind its second word (R201). -/
def Sys2Proof.Claims.ImmediateResults : Prop :=
  (∀ (s : State) (i : Instr) (d : XReg) (v : Word), immValue s.me i = some (d, v) → WritesX i s d v) ∧
  (∀ (s : State) (d : XReg) (v : Word), ∃ t, exec (.lid d v) s = .next t ∧
    t.me.getX d = (if d = 0 then 0#64 else v) ∧ t.me.pc = s.me.pc + 16#64 ∧ OnlyX d s.me t.me ∧ sameModule s t)

/-- The integer and immediate instructions write their results and change nothing else. The parts are stated above, each
with its rules. -/
def Obligations.IntegerResults : Prop :=
  Claims.XRegisters ∧ Claims.IntegerResults ∧ Claims.CountResults ∧ Claims.ImmediateResults

/-! ### Branches and the return stack (R209 to R212) -/

namespace Sys2Proof.Claims

/-- The condition and offset of a conditional branch (R209). -/
def branchOf (st : Strand) : Instr → Option (Bool × BitVec 36)
  | .beq a b off => some (st.getX a == st.getX b, off)
  | .bne a b off => some (st.getX a != st.getX b, off)
  | .blt a b off => some ((st.getX a).slt (st.getX b), off)
  | .bge a b off => some (!(st.getX a).slt (st.getX b), off)
  | .bltu a b off => some ((st.getX a).ult (st.getX b), off)
  | .bgeu a b off => some (!(st.getX a).ult (st.getX b), off)
  | _ => none

end Sys2Proof.Claims

/-- R209: when the condition holds, the program counter becomes the branch address + 8 × offset, otherwise the branch
address + 8; nothing else changes. -/
def Sys2Proof.Claims.BranchResults : Prop :=
  ∀ (s : State) (i : Instr) (taken : Bool) (off : BitVec 36), branchOf s.me i = some (taken, off) →
    ∃ t, exec i s = .next t ∧ t.me.pc = s.me.pc + (if taken then 8#64 * off.signExtend 64 else 8#64) ∧
      sameRegisters s.me t.me ∧ sameModule s t

/-- R211: a call pushes its own address + 8 and jumps; a return pops the newest entry and jumps to it. While at most 16
entries are held, memory is not touched. -/
def Sys2Proof.Claims.CallsAndReturns : Prop :=
  (∀ (s : State) (off : BitVec 36), s.me.rbase + s.me.rdepth + ownHandler s.me < 4096 → s.me.rstack.length < 16 →
    ∃ t, exec (.jal off) s = .next t ∧ t.me.pc = s.me.pc + 8#64 * off.signExtend 64 ∧
      t.me.rstack = (s.me.pc + 8#64) :: s.me.rstack ∧ t.me.rdepth = s.me.rdepth + 1 ∧
      sameRegisters { s.me with rstack := t.me.rstack, rdepth := t.me.rdepth } t.me ∧ sameModule s t) ∧
  (∀ (s : State) (a : XReg) (off : BitVec 36), s.me.rbase + s.me.rdepth + ownHandler s.me < 4096 → s.me.rstack.length < 16 →
    ∃ t, exec (.jalr a off) s = .next t ∧ t.me.pc = s.me.getX a + 8#64 * off.signExtend 64 ∧
      t.me.rstack = (s.me.pc + 8#64) :: s.me.rstack ∧ t.me.rdepth = s.me.rdepth + 1 ∧
      sameRegisters { s.me with rstack := t.me.rstack, rdepth := t.me.rdepth } t.me ∧ sameModule s t) ∧
  (∀ (s : State) (a : Word) (as : List Word), s.me.rstack = a :: as → s.me.rdepth ≠ 0 → (as ≠ [] ∨ s.me.rdepth = 1) →
    ∃ t, exec .ret s = .next t ∧ t.me.pc = a ∧ t.me.rstack = as ∧ t.me.rdepth = s.me.rdepth - 1 ∧
      sameRegisters { s.me with rstack := t.me.rstack, rdepth := t.me.rdepth } t.me ∧ sameModule s t)

/-- R210, R399: a push that finds 16 entries held first stores the oldest held entry at SPILLRS and adds 8 to SPILLRS: its
eight bytes, and no other byte of memory but LDIRTY's, change. A pop that leaves no entry held reloads the entry below
SPILLRS. A push at depth 4,096, in handler mode one that would bring the sum of both depths there (R400), and a pop at depth
0 are class 0x07, DETAIL 0 and 1, with nothing changed before. -/
def Sys2Proof.Claims.CallSpills : Prop :=
  (∀ (s : State) (i : Instr) (target old : Word),
    ((∃ off, i = .jal off ∧ target = s.me.pc + 8#64 * off.signExtend 64) ∨
      (∃ a off, i = .jalr a off ∧ target = s.me.getX a + 8#64 * off.signExtend 64)) →
    (s.me.rbase + s.me.rdepth + ownHandler s.me < 4096 → s.me.rstack.length = 16 → s.me.rstack.getLast? = some old →
      s.writable s.me.spillRs 8 = true →
      ∃ t, exec i s = .next t ∧ t.me.pc = target ∧ t.me.rstack = (s.me.pc + 8#64) :: s.me.rstack.dropLast ∧
        t.me.spillRs = s.me.spillRs + 8 ∧ t.me.rdepth = s.me.rdepth + 1 ∧ t.me.x = s.me.x ∧
        ((∀ b n, s.ckArea = some (b, n) → b + 5 < s.me.spillRs ∨ s.me.spillRs + 8 ≤ b + 5) →
          t.readP s.me.spillRs 8 = toLE 8 old.toNat) ∧
        (∀ a, a < s.me.spillRs ∨ s.me.spillRs + 8 ≤ a → (∀ b n, s.ckArea = some (b, n) → a ≠ b + 5) →
          Memory.get t.mem a = Memory.get s.mem a)) ∧
    (4096 ≤ s.me.rbase + s.me.rdepth + ownHandler s.me →
      exec i s = .next (s.takeFault (s.me.flt 0x07 0 (s.me.rbase + s.me.rdepth) 0) s.me.pc 0))) ∧
  (∀ (s : State) (a : Word), s.me.rstack = [a] → 1 < s.me.rdepth → s.readable (s.me.spillRs - 8) 8 = true →
    ∃ t, exec .ret s = .next t ∧ t.me.pc = a ∧
      t.me.rstack = [BitVec.ofNat 64 (ofLE (s.readP (s.me.spillRs - 8) 8))] ∧ t.me.spillRs = s.me.spillRs - 8 ∧
      t.me.rdepth = s.me.rdepth - 1 ∧ t.me.x = s.me.x ∧ sameModule s t) ∧
  (∀ s : State, s.me.rdepth = 0 → exec .ret s = .next (s.takeFault (s.me.flt 0x07 1 0 0) s.me.pc 0))

/-- Calls and returns: the return stack, its spills and reloads, and its depth limits. The parts are stated above, each with
its rules. -/
def Obligations.CallsAndReturns : Prop :=
  Claims.CallsAndReturns ∧ Claims.CallSpills

/-- R212: BSTRIP with two different registers and elements left steps the loop; STRIPPREV keeps the old count. -/
def Sys2Proof.Claims.StripLoop : Prop :=
  ∀ (s : State) (a b : XReg) (off : BitVec 36), a ≠ b → s.me.getX a ≠ 0#64 → s.me.vl ≠ 0 →
    ∃ t, exec (.bstrip a b off) s = .next t ∧
      t.me.stripPrev = s.me.getX a ∧
      t.me.getX a = BitVec.ofNat 64 ((s.me.getX a).toNat - min s.me.vl (s.me.getX a).toNat) ∧
      (b ≠ 0 → t.me.getX b = s.me.getX b + BitVec.ofNat 64 (min s.me.vl (s.me.getX a).toNat)) ∧
      t.me.pc = s.me.pc + (if (s.me.getX a).toNat ≤ s.me.vl then 8#64 else 8#64 * off.signExtend 64) ∧
      (∀ r, r ≠ a → r ≠ b → t.me.getX r = s.me.getX r) ∧
      sameRegisters { s.me with x := t.me.x, stripPrev := t.me.stripPrev } t.me ∧ sameModule s t

/-- BSTRIP that makes no progress takes class 0x06 at its own address, and one register in both fields class 0x84 DETAIL
2 (R396, R439): the exception is taken from the state before the instruction. That FINFO1 of DETAIL 2 is the register's
number is the model's reading (log entry 16). -/
def Sys2Proof.Claims.StripLoopFaults : Prop :=
  ∀ (s : State) (a b : XReg) (off : BitVec 36),
    (a = b → exec (.bstrip a b off) s = .next (s.takeFault (s.me.flt 0x84 2 a.val 0) s.me.pc 0)) ∧
    (a ≠ b → s.me.getX a = 0#64 ∨ s.me.vl = 0 →
      exec (.bstrip a b off) s = .next (s.takeFault (s.me.flt 0x06 0 (s.me.getX a).toNat s.me.vl) s.me.pc 0))

/-- Conditional branches and strip loops: where they go, what BSTRIP steps, and where it faults (log entry 16: FINFO1 of
class 0x84 DETAIL 2). The parts are stated above, each with its rules. -/
def Obligations.Branches : Prop :=
  Claims.BranchResults ∧ Claims.StripLoop ∧ Claims.StripLoopFaults

/-! ### Scalar floating point (R202 to R208, R444) -/

namespace Sys2Proof.Claims

/-- The exact value that an arithmetic float instruction rounds, with the events met on the way (R203). -/
def floatExact (st : Strand) : Instr → Option (FReg × FMod × Real' × Ev)
  | .fadd d a b m => let r := exactAdd (st.fval m.ty a) (st.fval m.ty b); some (d, m, .val r.1, r.2)
  | .fsub d a b m => let r := exactAdd (st.fval m.ty a) (vneg (st.fval m.ty b)); some (d, m, .val r.1, r.2)
  | .fmul d a b m => let r := exactMul (st.fval m.ty a) (st.fval m.ty b); some (d, m, .val r.1, r.2)
  | .fdiv d a b m => let r := exactDiv (st.fval m.ty a) (st.fval m.ty b); some (d, m, .val r.1, r.2)
  | .fsqrt d a m => let r := sqrtOf (st.fval m.ty a); some (d, m, r.1, r.2)
  | .fma d a b c m => let r := fusedSum (st.fval m.ty c) [(st.fval m.ty a, st.fval m.ty b)]; some (d, m, .val r.1, r.2)
  | .fcvt d a src route m =>
    if route = 2 then none
    else
      let v := if route = 1 then ofInt (intVal src (st.getX a).toNat) else st.fval src a
      some (d, m, .val v, evIf (isSnan v) evV)
  | _ => none

/-- The result of such an instruction: the value rounded once to TYPE, and all its events. -/
def floatCode (st : Strand) (m : FMod) (x : Real') : Nat × Ev := roundTo m.ty x (st.rnd m.rnd) m.sat (st.draw 0 0)

/-- A strand in which nothing changed but one f register, the flags with their indices, RNGCTR and the PC. -/
structure OnlyF (d : FReg) (a b : Strand) : Prop where
  f : ∀ r, r ≠ d → b.getF r = a.getF r
  rest : sameRegisters { a with f := b.f, fstat := b.fstat, fidx := b.fidx, fidxSeq := b.fidxSeq, rngCtr := b.rngCtr } b

/-- A strand in which nothing changed but one x register, the flags with their indices, RNGCTR and the PC. -/
structure OnlyXFlags (d : XReg) (a b : Strand) : Prop where
  x : ∀ r, r ≠ d → b.getX r = a.getX r
  rest : sameRegisters { a with x := b.x, fstat := b.fstat, fidx := b.fidx, fidxSeq := b.fidxSeq, rngCtr := b.rngCtr } b

/-- The number `a` stands below `b`: it is less, or it is −0 and `b` is +0 (R130). -/
def below (a b : Val) : Prop := vlt a b = true ∨ (a = .zero .neg ∧ b = .zero .pos)

/-- What FMIN, or FMAX, delivers of the codes `ca` and `cb` (R204, R130): with one NaN the other operand, with two the
canonical NaN, and of two numbers one that the other does not stand below, or above. -/
def MinMaxCode (ty : ETy) (isMax : Bool) (ca cb c : Nat) : Prop :=
  (isNan (decodeVal ty ca) = true → isNan (decodeVal ty cb) = true →
    ∃ f, fmtOf ty = some f ∧ f.nan = some c) ∧
  (isNan (decodeVal ty ca) = true → isNan (decodeVal ty cb) = false → c = cb) ∧
  (isNan (decodeVal ty ca) = false → isNan (decodeVal ty cb) = true → c = ca) ∧
  (isNan (decodeVal ty ca) = false → isNan (decodeVal ty cb) = false → (c = ca ∨ c = cb) ∧
    (isMax = false → ¬ below (decodeVal ty ca) (decodeVal ty c) ∧ ¬ below (decodeVal ty cb) (decodeVal ty c)) ∧
    (isMax = true → ¬ below (decodeVal ty c) (decodeVal ty ca) ∧ ¬ below (decodeVal ty c) (decodeVal ty cb)))

/-- An instruction delivers the code `c` to f[d], raises V exactly where an operand is a signalling NaN, and goes on. -/
def DeliversF (i : Instr) (s : State) (d : FReg) (c : Nat) (sig : Bool) : Prop :=
  ∃ t, exec i s = .next t ∧ t.me.getF d = BitVec.ofNat 64 c ∧
    t.me.fstat = s.me.fstat ||| (if sig then evV.setWidth 32 else 0#32) ∧
    t.me.rngCtr = s.me.rngCtr ∧ t.me.pc = s.me.pc + 8#64 ∧ OnlyF d s.me t.me ∧ sameModule s t

/-- The class of a value as R206 numbers it, but for normal and subnormal numbers: those are told apart in `code`. -/
def classOf (v : Val) (subnormal : Bool) : Nat :=
  match v with
  | .inf true => 0
  | .inf false => 7
  | .zero .neg => 3
  | .zero _ => 4
  | .nan true => 8
  | .nan false => 9
  | .fin q => if q.num < 0 then (if subnormal then 2 else 1) else (if subnormal then 5 else 6)

end Sys2Proof.Claims

/-- R203, R205: FADD, FSUB, FMUL, FDIV, FSQRT, FMA and FCVT into an f register compute exactly, round once to TYPE and
write f[d], with its higher bits zero; the events are ORed into FSTAT, and under rst RNGCTR advances by 1. This is so
where no enabled event is raised; the frame is exact. -/
def Sys2Proof.Claims.FloatResults : Prop :=
  ∀ (s : State) (i : Instr) (d : FReg) (m : FMod) (x : Real') (e : Ev), floatExact s.me i = some (d, m, x, e) →
    (e ||| (floatCode s.me m x).2) &&& s.me.ten = 0#7 →
    ∃ t, exec i s = .next t ∧ t.me.getF d = BitVec.ofNat 64 (floatCode s.me m x).1 ∧
      t.me.fstat = s.me.fstat ||| (e ||| (floatCode s.me m x).2).setWidth 32 ∧
      t.me.rngCtr = s.me.rngCtr + (if s.me.rnd m.rnd = .rst then 1#64 else 0#64) ∧
      t.me.pc = s.me.pc + 8#64 ∧ OnlyF d s.me t.me ∧ sameModule s t

/-- R444: where an enabled event is raised the instruction has completed all the same, and the strand takes class 0x90 at
the next word, with DETAIL the enabled events raised, FADDR its address, FINFO1 index 0 and FINFO2 every event. -/
def Sys2Proof.Claims.FloatTraps : Prop :=
  ∀ (s : State) (i : Instr) (d : FReg) (m : FMod) (x : Real') (e : Ev), floatExact s.me i = some (d, m, x, e) →
    (e ||| (floatCode s.me m x).2) &&& s.me.ten ≠ 0#7 →
    ∃ t, exec i s = .next (t.takeFault
        ⟨0x90, ((e ||| (floatCode s.me m x).2) &&& s.me.ten).toNat, s.me.pc, 0#64,
          (e ||| (floatCode s.me m x).2).setWidth 64⟩ (s.me.pc + 8#64) 0) ∧
      t.me.getF d = BitVec.ofNat 64 (floatCode s.me m x).1 ∧
      t.me.fstat = s.me.fstat ||| (e ||| (floatCode s.me m x).2).setWidth 32 ∧ t.me.pc = s.me.pc + 8#64 ∧
      OnlyF d s.me t.me ∧ sameModule s t

/-- Float arithmetic computes exactly and rounds once; events join FSTAT; an enabled event traps at the next word. The parts
are stated above, each with its rules. -/
def Obligations.FloatResults : Prop :=
  Claims.FloatResults ∧ Claims.FloatTraps

/-- R204, R130: FMIN and FMAX deliver the lesser or the greater of their operands, −0 below +0, the other operand where
one is NaN and the canonical NaN where both are, and raise V only for a signalling NaN operand; nothing else changes. -/
def Sys2Proof.Claims.FloatMinMax : Prop :=
  ∀ (s : State) (d a b : FReg) (ty : ETy), isF ty = true →
    (isSnan (s.me.fval ty a) || isSnan (s.me.fval ty b)) = false ∨ s.me.ten &&& evV = 0#7 →
    (∃ c, DeliversF (.fmin d a b ty) s d c (isSnan (s.me.fval ty a) || isSnan (s.me.fval ty b)) ∧
      MinMaxCode ty false ((s.me.getF a).toNat % 2 ^ sbits ty) ((s.me.getF b).toNat % 2 ^ sbits ty) c) ∧
    (∃ c, DeliversF (.fmax d a b ty) s d c (isSnan (s.me.fval ty a) || isSnan (s.me.fval ty b)) ∧
      MinMaxCode ty true ((s.me.getF a).toNat % 2 ^ sbits ty) ((s.me.getF b).toNat % 2 ^ sbits ty) c)

/-- R205 route 2, R207: FCVT to an x register and FCMP write x[d]; the events are ORed into FSTAT. -/
def Sys2Proof.Claims.FloatToInteger : Prop :=
  (∀ (s : State) (d a : Fin 32) (src : ETy) (m : FMod),
    (floatCode s.me m (.val (s.me.fval src a))).2 &&& s.me.ten = 0#7 →
    ∃ t, exec (.fcvt d a src 2 m) s = .next t ∧
      (d ≠ 0 → t.me.getX d = intWord m.ty (floatCode s.me m (.val (s.me.fval src a))).1) ∧
      t.me.fstat = s.me.fstat ||| (floatCode s.me m (.val (s.me.fval src a))).2.setWidth 32 ∧
      t.me.pc = s.me.pc + 8#64 ∧ OnlyXFlags d s.me t.me ∧ sameModule s t) ∧
  (∀ (s : State) (d : XReg) (rel : Rel) (a b : FReg) (ty : ETy),
    relEv rel (s.me.fval ty a) (s.me.fval ty b) &&& s.me.ten = 0#7 →
    ∃ t, exec (.fcmp d rel a b ty) s = .next t ∧
      (d ≠ 0 → t.me.getX d = if relHolds rel (s.me.fval ty a) (s.me.fval ty b) then 1#64 else 0#64) ∧
      t.me.fstat = s.me.fstat ||| (relEv rel (s.me.fval ty a) (s.me.fval ty b)).setWidth 32 ∧
      t.me.pc = s.me.pc + 8#64 ∧ OnlyXFlags d s.me t.me ∧ sameModule s t)

/-- R206, R208: FCLASS writes a value with the one bit set that names its operand's class, a number below the least normal
magnitude being subnormal; FMVXF and FMVFX copy the low bits of TYPE's width,
the higher bits zero. None of them raises a flag. -/
def Sys2Proof.Claims.FloatMoves : Prop :=
  ∀ (s : State) (ty : ETy), isF ty = true →
    (∀ (d : XReg) (a : FReg) (f : Fmt), fmtOf ty = some f →
      WritesX (.fclass d a ty) s d (BitVec.ofNat 64
        (2 ^ classOf (s.me.fval ty a) (decide ((s.me.getF a).toNat % fmtSign f < 2 ^ f.fbits))))) ∧
    (∀ (d : XReg) (a : FReg), WritesX (.fmvxf d a ty) s d (BitVec.ofNat 64 ((s.me.getF a).toNat % 2 ^ sbits ty))) ∧
    (∀ (d : FReg) (a : XReg), ∃ t, exec (.fmvfx d a ty) s = .next t ∧
      t.me.getF d = BitVec.ofNat 64 ((s.me.getX a).toNat % 2 ^ sbits ty) ∧ t.me.pc = s.me.pc + 8#64 ∧
      t.me.fstat = s.me.fstat ∧ OnlyF d s.me t.me ∧ sameModule s t)

/-- Float minimum and maximum (a NaN operand as R130 says), conversions to x, comparisons, classes and moves. The parts are
stated above, each with its rules. -/
def Obligations.FloatComparesAndMoves : Prop :=
  Claims.FloatMinMax ∧ Claims.FloatToInteger ∧ Claims.FloatMoves

/-- R126: a value that the target format holds is delivered as it is, by every rounding, without an event. -/
def Obligations.RoundingKeepsValues : Prop :=
  ∀ (t : ETy) (f : Fmt) (c : Nat) (q : Q) (rm : Rnd) (sat : Bool) (d : Draw), fmtOf t = some f → c < 2 * fmtSign f →
    decodeVal t c = .fin q → roundTo t (.val (.fin q)) rm sat d = (c, 0#7)

/-! ### Scalar memory (R75, R213 to R216) -/

namespace Sys2Proof.Claims

/-- What a scalar access of `n` bytes for a use needs in order to be performed: it is admitted, giving its bytes and the
state after the walk; it conflicts with no transfer of the strand; no byte of it is uncorrectable; and a release finds no
transfer of the strand still out. -/
structure Admitted (s : State) (b : BRegNo) (use : Nat) (e : Int) (n : Nat) (o : MOrd) (w : Bool) (bs : List Byt)
    (t : State) : Prop where
  ok : access s s.who (s.me.getB b) b.val use e n 0 = .ok (bs, t)
  free : s.conflicts bs w = false
  read : s.bad = []
  order : releases o = true → s.transfersOut = false

/-- A strand in which nothing changed but one x register, its reservation, buffered strips' marks, and the PC. -/
structure OnlyXMem (d : XReg) (a b : Strand) : Prop where
  x : ∀ r, r ≠ d → b.getX r = a.getX r
  rest : sameRegisters { a with x := b.x, resv := b.resv, stream := b.stream } b

/-- The module but for memory, page-table caches, error marks, reservations, the counts of writes (log entry 151), a
checkpoint image whose bytes were overwritten (log entry 103) and the strand in front: the devices, contexts' owners,
queues, engines and other strands' registers are as they were. -/
def sameOutside (s t : State) : Prop :=
  t = { s with
    me := t.me, mem := t.mem, bad := t.bad, ctxs := t.ctxs, dirtyArmed := t.dirtyArmed, coh := t.coh, image := t.image,
    strands := t.strands } ∧
  (t.image = s.image ∨ t.image = none) ∧
  t.strands.map (fun u => { u with resv := none }) = s.strands.map (fun u => { u with resv := none })

/-- Every byte of memory outside the locations of an access reads in `u` as it does in `t`, but for LDIRTY (R373). -/
def memElsewhere (t u : State) (bs : List Byt) : Prop :=
  ∀ a, a ∉ bs.map (·.loc) → (∀ b n, t.ckArea = some (b, n) → a ≠ b + 5) → Memory.get u.mem a = Memory.get t.mem a

end Sys2Proof.Claims

/-- R75: E is ADDR + x[index] × 2^scale + offset, the index read as a signed value, as an exact integer; the bytes an
access touches are those from E upward. -/
def Sys2Proof.Claims.EffectiveAddress : Prop :=
  ∀ (s t : State) (m : WM) (use elem : Nat) (bs : List Byt),
    s.me.eaM m = ((s.me.getB m.bnd).addr.toNat : Int) + (s.me.getX m.idx).toInt * 2 ^ m.scale.toNat + m.off.toInt ∧
    (access s s.who (s.me.getB m.bnd) m.bnd.val use (s.me.eaM m) (sbytes m.ty) elem = .ok (bs, t) →
      (s.me.getB m.bnd).view = 0 →
      bs.map (·.addr) = (List.range (sbytes m.ty)).map (fun k => (s.me.eaM m + (k : Nat)).toNat))

/-- R75: what a bound refuses. An access below BASE, above BASE + LEN, or without the permission it needs is refused with
the lowest DETAIL that applies; one that is admitted lies in the range and has the permission. -/
def Sys2Proof.Claims.BoundChecks : Prop :=
  ∀ (b : Bound) (use : Nat) (e : Int) (n : Nat), 0 < n →
    (e < b.base.toNat → ∃ a, b.refuses use e n = some (0, a)) ∧
    ((b.base.toNat : Int) ≤ e → (b.base.toNat + b.len.toNat : Int) < e + n → ∃ a, b.refuses use e n = some (1, a)) ∧
    ((b.base.toNat : Int) ≤ e → e + n ≤ b.base.toNat + b.len.toNat → b.perm.getLsbD use = false →
      ∃ a, b.refuses use e n = some (2, a)) ∧
    (b.refuses use e n = none →
      (b.base.toNat : Int) ≤ e ∧ e + n ≤ b.base.toNat + b.len.toNat ∧ b.perm.getLsbD use = true)

/-- An access by address changes no byte of memory but the first byte of the table entries of the pages that it touches, as
each is translated in its turn, and the byte of LDIRTY (R373). There it can only set bits: A and D of an entry (R81), and
LDIRTY. -/
def Sys2Proof.Claims.AccessSetsOnlyMarks : Prop :=
  ∀ (s t : State) (w : Who) (b : Bound) (bno use n elem : Nat) (e : Int) (bs : List Byt),
    access s w b bno use e n elem = .ok (bs, t) → ∀ a, Memory.get t.mem a ≠ Memory.get s.mem a →
      ((∃ (k x : Nat) (u : State) (before : List Byt) (c d : Ctx) (p : Page), (b.addrs e n)[k]? = some x ∧
          resolve w (needOf use) (b.view ≠ 0) ((b.addrs e n).take k) s none [] = .ok (before, u) ∧
          u.ctx? w.ctx = some c ∧ pageOf u c x = .ok (p, d) ∧ a = p.ent) ∨
        (∃ k m, s.ckArea = some (k, m) ∧ a = k + 5)) ∧
      Memory.get t.mem a &&& 0xCE#8 = Memory.get s.mem a &&& 0xCE#8 ∧
      ((∀ k m, s.ckArea = some (k, m) → a ≠ k + 5) → Memory.get t.mem a &&& 0xCF#8 = Memory.get s.mem a &&& 0xCF#8) ∧
      Memory.get s.mem a &&& Memory.get t.mem a = Memory.get s.mem a

/-- R213, R215: LD and LR load x[data], FLD loads f[data]; LR also sets the reservation to the 64-byte block of E and its
size. No other register of any kind, no flag and no stack changes. Memory is as the walk left it. That LR asks for the
permission LD is the model's reading (log entry 15). -/
def Sys2Proof.Claims.ScalarLoads : Prop :=
  ∀ (s t : State) (m : WM) (bs : List Byt), Admitted s m.bnd useLD (s.me.eaM m) (sbytes m.ty) m.ord false bs t →
    (∃ u, exec (.ld m) s = .next u ∧
      (m.data ≠ 0 → u.me.getX m.data = extend m.ty (bs.map (fun b => Memory.get s.mem b.loc))) ∧
      u.me.pc = s.me.pc + 8#64 ∧ OnlyXMem m.data s.me u.me ∧ u.mem = t.mem ∧ sameOutside s u) ∧
    (∃ u, exec (.fld m) s = .next u ∧
      u.me.getF m.data = BitVec.ofNat 64 (ofLE (bs.map (fun b => Memory.get s.mem b.loc))) ∧
      (∀ r, r ≠ m.data → u.me.getF r = s.me.getF r) ∧ u.me.pc = s.me.pc + 8#64 ∧
      sameRegisters { s.me with f := u.me.f, resv := u.me.resv, stream := u.me.stream } u.me ∧
      u.mem = t.mem ∧ sameOutside s u) ∧
    (s.me.eaM m % (sbytes m.ty : Int) = 0 →
      ∃ u r, exec (.lr m) s = .next u ∧
        (m.data ≠ 0 → u.me.getX m.data = extend m.ty (bs.map (fun b => Memory.get s.mem b.loc))) ∧
        u.me.resv = some r ∧ r.block = keyOf s.me.core ((s.me.getB m.bnd).addrOf (s.me.eaM m)) / 64 ∧ r.size = sbytes m.ty ∧
        u.me.pc = s.me.pc + 8#64 ∧ OnlyXMem m.data s.me u.me ∧ u.mem = t.mem ∧ sameOutside s u)

/-- R213: ST and FST write the low bytes of their register at E, the lowest first, and no other byte of memory. -/
def Sys2Proof.Claims.ScalarStores : Prop :=
  ∀ (s t : State) (m : WM) (bs : List Byt), Admitted s m.bnd useST (s.me.eaM m) (sbytes m.ty) m.ord true bs t →
    (∃ u, exec (.st m) s = .next u ∧
      u.mem = (t.poke (bs.map (·.loc)) (toLE (sbytes m.ty) (s.me.getX m.data).toNat)).mem ∧ memElsewhere t u bs ∧
      u.me.pc = s.me.pc + 8#64 ∧ u.me.x = s.me.x ∧ OnlyXMem 0 s.me u.me ∧ sameOutside s u) ∧
    (∃ u, exec (.fst m) s = .next u ∧
      u.mem = (t.poke (bs.map (·.loc)) (toLE (sbytes m.ty) (s.me.getF m.data).toNat)).mem ∧ memElsewhere t u bs ∧
      u.me.pc = s.me.pc + 8#64 ∧ u.me.x = s.me.x ∧ OnlyXMem 0 s.me u.me ∧ sameOutside s u)

/-- Scalar loads, load-reserved and stores: their registers, their bytes, and nothing else (log entry 15: LR asks for LD).
The parts are stated above, each with its rules. -/
def Obligations.ScalarMemory : Prop :=
  Claims.ScalarLoads ∧ Claims.ScalarStores

/-- A store is read back: with distinct locations and LDIRTY outside them, the bytes written are the bytes that lie there
afterwards, and a reservation on one of them has ended (R102, R215). -/
def Sys2Proof.Claims.WritesReadBack : Prop :=
  ∀ (s : State) (locs : List Nat) (bs : List Byte), locs.length = bs.length → locs.Nodup →
    (∀ b n, s.ckArea = some (b, n) → b + 5 ∉ locs) →
    (s.poke locs bs).bytes locs = bs ∧
    (∀ a, a ∉ locs → (∀ b n, s.ckArea = some (b, n) → a ≠ b + 5) →
      Memory.get (s.poke locs bs).mem a = Memory.get s.mem a) ∧
    (∀ r, (s.poke locs bs).me.resv = some r → s.me.resv = some r ∧ ∀ a ∈ locs, a ∉ r.locs)

/-- An access alone changes only marks in the table entries that it uses, and LDIRTY; what is written is read back. The
parts are stated above, each with its rules. -/
def Obligations.AccessesAndMemory : Prop :=
  Claims.AccessSetsOnlyMarks ∧ Claims.WritesReadBack

/-- R215: SC with a reservation for the block of E and its size writes, and writes 0 to x[data]; without one it performs
no write and writes 1. Either way the reservation is cleared. That two names of one scratchpad block name one block,
and that SC asks for the permission ST, are the model's readings (log entries 118 and 15). -/
def Sys2Proof.Claims.StoreConditional : Prop :=
  ∀ (s t : State) (m : WM) (bs : List Byt), s.me.eaM m % (sbytes m.ty : Int) = 0 →
    Admitted s m.bnd useST (s.me.eaM m) (sbytes m.ty) m.ord true bs t →
    ∃ u, exec (.sc m) s = .next u ∧ u.me.resv = none ∧ u.me.pc = s.me.pc + 8#64 ∧ OnlyXMem m.data s.me u.me ∧
      sameOutside s u ∧
      (s.me.holds (keyOf s.me.core ((s.me.getB m.bnd).addrOf (s.me.eaM m))) (sbytes m.ty) = true →
        (m.data ≠ 0 → u.me.getX m.data = 0#64) ∧ memElsewhere t u bs ∧
        u.mem = (t.poke (bs.map (·.loc)) (toLE (sbytes m.ty) (s.me.getX m.data).toNat)).mem) ∧
      (s.me.holds (keyOf s.me.core ((s.me.getB m.bnd).addrOf (s.me.eaM m))) (sbytes m.ty) = false →
        (m.data ≠ 0 → u.me.getX m.data = 1#64) ∧ u.mem = t.mem)

namespace Sys2Proof.Claims

/-- f(M, V) of R214 on values of `8·n` bits. -/
def amoValue (op : BitVec 3) (w : Nat) (m v : BitVec w) : BitVec w :=
  if op = 0#3 then v
  else if op = 1#3 then m + v
  else if op = 2#3 then m &&& v
  else if op = 3#3 then m ||| v
  else if op = 4#3 then m ^^^ v
  else if op = 5#3 then (if m.slt v then m else v)
  else if op = 6#3 then (if m.slt v then v else m)
  else if m.ult v then v else m

end Sys2Proof.Claims

/-- R214: AMO returns the old value as LD would and writes f(M, V); PREF changes nothing, but for its checks. -/
def Sys2Proof.Claims.AtomicsAndPrefetch : Prop :=
  (∀ (s t : State) (d : XReg) (b : BRegNo) (o : XReg) (op : BitVec 3) (ord : MOrd) (sc : Scope) (ty : ETy)
      (off : BitVec 18) (bs : List Byt), isAtomTy ty = true →
    (((s.me.getB b).addr.toNat : Int) + off.toInt) % (sbytes ty : Int) = 0 →
    Admitted s b useAT (((s.me.getB b).addr.toNat : Int) + off.toInt) (sbytes ty) ord true bs t →
    ∃ u, exec (.amo d b o op ord sc ty off) s = .next u ∧
      (d ≠ 0 → u.me.getX d = extend ty (bs.map (fun x => Memory.get t.mem x.loc))) ∧
      u.mem = (t.poke (bs.map (·.loc)) (toLE (sbytes ty) (amoValue op (sbits ty)
        (BitVec.ofNat (sbits ty) (ofLE (bs.map (fun x => Memory.get t.mem x.loc))))
        (BitVec.ofNat (sbits ty) (s.me.getX o).toNat)).toNat)).mem ∧ memElsewhere t u bs ∧
      u.me.pc = s.me.pc + 8#64 ∧ OnlyXMem d s.me u.me ∧ sameOutside s u) ∧
  (∀ (s t : State) (b : BRegNo) (idx : XReg) (scale : BitVec 3) (off : BitVec 18) (bs : List Byt),
    access s s.who (s.me.getB b) b.val useLD (s.me.ea b idx scale off) 1 0 = .ok (bs, t) →
    exec (.pref b idx scale off) s = .next (s.retire 1))

/-- R439 DETAIL 3: LR, SC and AMO at an address that is not naturally aligned take class 0x84 from the state before them,
whatever their ordering and their bound. -/
def Sys2Proof.Claims.MisalignedAtomics : Prop :=
  (∀ (s : State) (m : WM), s.me.eaM m % (sbytes m.ty : Int) ≠ 0 →
    exec (.lr m) s = .next (s.takeFault (s.me.flt 0x84 3 (addrNat (s.me.eaM m)) 0) s.me.pc 0) ∧
    exec (.sc m) s = .next (s.takeFault (s.me.flt 0x84 3 (addrNat (s.me.eaM m)) 0) s.me.pc 0)) ∧
  (∀ (s : State) (d : XReg) (b : BRegNo) (o : XReg) (op : BitVec 3) (ord : MOrd) (sc : Scope) (ty : ETy)
      (off : BitVec 18), (((s.me.getB b).addr.toNat : Int) + off.toInt) % (sbytes ty : Int) ≠ 0 →
    exec (.amo d b o op ord sc ty off) s = .next (s.takeFault
      (s.me.flt 0x84 3 (addrNat (((s.me.getB b).addr.toNat : Int) + off.toInt)) 0) s.me.pc 0))

/-- Store-conditional, atomics, prefetch, and their alignment faults (log entries 15 and 118). The parts are stated above,
each with its rules. -/
def Obligations.Atomics : Prop :=
  Claims.StoreConditional ∧ Claims.AtomicsAndPrefetch ∧ Claims.MisalignedAtomics

/-- R397, R411: a scalar access that its bound or its pages refuse takes the fault that the access reports, at the
instruction's own address, from the state before it. The fault's DETAIL is the lowest that applies, in the order that log
entry 31 gives. -/
def Sys2Proof.Claims.RefusedAccessFaults : Prop :=
  ∀ (s : State) (m : WM) (f : Flt), (releases m.ord = true → s.transfersOut = false) →
    (access s s.who (s.me.getB m.bnd) m.bnd.val useLD (s.me.eaM m) (sbytes m.ty) 0 = .error f →
      (f.cls = 0x40 ∨ f.cls = 0x41) ∧ f.info2 = s.me.pc ∧
      exec (.ld m) s = .next (s.takeFault f s.me.pc 0) ∧ exec (.fld m) s = .next (s.takeFault f s.me.pc 0)) ∧
    (access s s.who (s.me.getB m.bnd) m.bnd.val useST (s.me.eaM m) (sbytes m.ty) 0 = .error f →
      (f.cls = 0x40 ∨ f.cls = 0x41) ∧ f.info2 = s.me.pc ∧
      exec (.st m) s = .next (s.takeFault f s.me.pc 0) ∧ exec (.fst m) s = .next (s.takeFault f s.me.pc 0))

/-- Effective addresses, what a bound refuses, and the fault that a refused scalar access takes. The parts are stated above,
each with its rules. -/
def Obligations.AccessChecks : Prop :=
  Claims.EffectiveAddress ∧ Claims.BoundChecks ∧ Claims.RefusedAccessFaults

/-! ### Bound registers and generic addresses (R217 to R219) -/

namespace Sys2Proof.Claims

/-- An instruction writes a bound register and goes on; nothing else changes. -/
def WritesB (i : Instr) (s : State) (d : BRegNo) (v : Bound) : Prop :=
  ∃ t, exec i s = .next t ∧ t.me.getB d = v ∧ (∀ r, r ≠ d → t.me.getB r = s.me.getB r) ∧ t.me.pc = s.me.pc + 8#64 ∧
    sameRegisters { s.me with b := t.me.b } t.me ∧ sameModule s t

end Sys2Proof.Claims

/-- R217, R218: the bound instructions write their bound register and nothing else. BPERM never adds a permission, and
BNARROW's range lies in its source's. -/
def Sys2Proof.Claims.BoundRegisters : Prop :=
  (∀ (s : State) (d : BRegNo) (n : BitVec 16) (b : Bind),
    ((s.objOf.map (·.binds)).getD [])[n.toNat]? = some b → WritesB (.bld d n) s d ⟨b.base, b.base, b.len, b.perm⟩) ∧
  (∀ (s : State) (d a : BRegNo) (b c : XReg), (s.me.getX b).toNat ≤ (s.me.getB a).len.toNat →
    (s.me.getX c).toNat ≤ (s.me.getB a).len.toNat - (s.me.getX b).toNat →
    WritesB (.bnarrow d a b c) s d
      ⟨(s.me.getB a).base + s.me.getX b, (s.me.getB a).base + s.me.getX b, s.me.getX c, (s.me.getB a).perm⟩) ∧
  (∀ (s : State) (d : BRegNo) (a : XReg), WritesB (.bseta d a) s d { s.me.getB d with addr := s.me.getX a }) ∧
  (∀ (s : State) (d a : BRegNo) (mask : BitVec 9),
    ∃ v, WritesB (.bperm d a mask) s d v ∧ v = { s.me.getB a with perm := v.perm } ∧
      ∀ k, v.perm.getLsbD k = ((s.me.getB a).perm.getLsbD k && !(mask.getLsbD k))) ∧
  (∀ (s : State) (d : XReg) (a : BRegNo), WritesX (.bgeta d a) s d (s.me.getB a).addr)

/-- R218, R396: BNARROW beyond its source's range takes class 0x84 DETAIL 4, and BLD of an absent entry class 0x0A. -/
def Sys2Proof.Claims.BoundFaults : Prop :=
  (∀ (s : State) (d a : BRegNo) (b c : XReg), (s.me.getB a).len.toNat < (s.me.getX b).toNat →
    exec (.bnarrow d a b c) s = .next (s.takeFault (s.me.flt 0x84 4 (s.me.getX b).toNat 0) s.me.pc 0)) ∧
  (∀ (s : State) (d a : BRegNo) (b c : XReg), (s.me.getX b).toNat ≤ (s.me.getB a).len.toNat →
    (s.me.getB a).len.toNat - (s.me.getX b).toNat < (s.me.getX c).toNat →
    exec (.bnarrow d a b c) s = .next (s.takeFault (s.me.flt 0x84 4 (s.me.getX c).toNat 0) s.me.pc 0)) ∧
  (∀ (s : State) (d : BRegNo) (n : BitVec 16), ((s.objOf.map (·.binds)).getD []).length ≤ n.toNat →
    exec (.bld d n) s = .next (s.takeFault
      (s.me.flt 0x0A 0 n.toNat ((s.objOf.map (·.binds)).getD []).length) s.me.pc 0))

namespace Sys2Proof.Claims

/-- R71's must-be-zero bits for an aperture are zero in a value. -/
def ApZero (ap a : Nat) : Prop :=
  (ap = 0xF0 → a % 2 ^ 56 / 2 ^ 18 = 0) ∧ (ap = 0xF1 → a % 2 ^ 56 / 2 ^ 23 = 0) ∧ (ap = 0xF2 → a % 2 ^ 48 / 2 ^ 23 = 0)

end Sys2Proof.Claims

/-- R219: ACVT converts an address of an aperture to its offset, and an offset to an address, and gives all ones where the
code or R71's zero bits do not fit; to an offset and back gives the same address in every aperture. ATEST with code 0xFF
holds exactly of what R71 calls an address. -/
def Sys2Proof.Claims.ApertureConversions : Prop :=
  (∀ (s : State) (d a : XReg) (ap : BitVec 8) (x : Nat), x = (s.me.getX a).toNat → apCode ap.toNat = true →
    (x / 2 ^ 56 = ap.toNat → ApZero ap.toNat x → WritesX (.acvt d a ap false) s d (BitVec.ofNat 64 (x % 2 ^ 56))) ∧
    (¬ (x / 2 ^ 56 = ap.toNat ∧ ApZero ap.toNat x) → WritesX (.acvt d a ap false) s d (BitVec.allOnes 64)) ∧
    (x < 2 ^ 56 → ApZero ap.toNat x → (ap = 0xF2#8 → x / 2 ^ 48 < 16) →
      WritesX (.acvt d a ap true) s d (BitVec.ofNat 64 (ap.toNat * 2 ^ 56 + x))) ∧
    (¬ (x < 2 ^ 56 ∧ ApZero ap.toNat x ∧ (ap = 0xF2#8 → x / 2 ^ 48 < 16)) →
      WritesX (.acvt d a ap true) s d (BitVec.allOnes 64))) ∧
  (∀ (ap : BitVec 8) (a : Word), apCode ap.toNat = true → a.toNat / 2 ^ 56 = ap.toNat → apertureOf a.toNat ≠ none →
    acvtVal ap.toNat true (acvtVal ap.toNat false a.toNat).toNat = a) ∧
  (∀ (s : State) (d a : XReg) (ap : BitVec 8), WritesX (.atest d a ap) s d
    (if apertureOf (s.me.getX a).toNat ≠ none ∧ (ap = 0xFF#8 ∨ (s.me.getX a).toNat / 2 ^ 56 = ap.toNat)
      then 1#64 else 0#64))

/-- The bound instructions, their faults, and the aperture conversions. The parts are stated above, each with its rules. -/
def Obligations.BoundInstructions : Prop :=
  Claims.BoundRegisters ∧ Claims.BoundFaults ∧ Claims.ApertureConversions

/-! ### System instructions (R190 to R197) -/

namespace Sys2Proof.Claims

/-- The registers that WRSR and XCHSR write (R193). -/
def writable : SysReg → Bool
  | .vtype | .tau | .fstat | .fidxA _ | .fidxE _ | .rngkey | .rngctr => true
  | _ => false

/-- A value as the register holds it: TAU and FSTAT have 32 bits. -/
def sysHeld (r : SysReg) (v : Word) : Word :=
  match r with
  | .tau | .fstat => v &&& 0xFFFFFFFF#64
  | _ => v

/-- A strand in which nothing changed but registers that WRSR writes, VL with VTYPE, and the PC. -/
def sysOnly (a b : Strand) : Prop :=
  sameRegisters { a with vtype := b.vtype, vl := b.vl, fstat := b.fstat, fidx := b.fidx, fidxSeq := b.fidxSeq, tau := b.tau,
                         rngKey := b.rngKey, rngCtr := b.rngCtr } b

/-- A read or write that waits for no queued matrix instruction (R257). -/
def sysFree (st : Strand) (r : SysReg) : Prop := waitsQueue r = true → st.mqueue = []

end Sys2Proof.Claims

/-- R193: RDSR reads the named register into x[d]; WRSR writes x[a] to a writable register, as many low bits as it holds,
and to no other register of the strand, but that a write of VTYPE sets VL to 0; to a register marked RO it has no effect;
XCHSR does both, the read first. -/
def Sys2Proof.Claims.SystemRegisters : Prop :=
  ∀ (s : State) (r : SysReg) (a d : XReg), sysFree s.me r →
    (r ≠ .time → WritesX (.rdsr d r) s d (s.readSys r)) ∧
    (badSys r (s.me.getX a) = false →
      ∃ t, exec (.wrsr r a) s = .next t ∧ t.me.pc = s.me.pc + 8#64 ∧ t.me.x = s.me.x ∧ sameModule s t ∧
        t.readSys r = (if writable r then sysHeld r (s.me.getX a) else s.readSys r) ∧
        (∀ q, q ≠ r → (r = .vtype → q ≠ .vl) → t.readSys q = s.readSys q) ∧
        (r = .vtype → t.me.vl = 0 ∧ exec (.wrsrVtype a) s = .next t) ∧ sysOnly s.me t.me) ∧
    (badSys r (s.me.getX a) = false →
      ∃ t, exec (.xchsr d r a) s = .next t ∧ t.me.pc = s.me.pc + 8#64 ∧ sameModule s t ∧
        (d ≠ 0 → t.me.getX d = s.readSys r) ∧ (∀ q, q ≠ d → t.me.getX q = s.me.getX q) ∧
        t.readSys r = (if writable r then sysHeld r (s.me.getX a) else s.readSys r) ∧
        sysOnly { s.me with x := t.me.x } t.me)

/-- R439 DETAIL 0: a value that VTYPE or FSTAT cannot hold is refused with class 0x84 DETAIL 0, and nothing is written. -/
def Sys2Proof.Claims.SystemRegisterFaults : Prop :=
  ∀ (s : State) (r : SysReg) (a d : XReg), badSys r (s.me.getX a) = true →
    exec (.wrsr r a) s = .next (s.takeFault (s.me.flt 0x84 0 (s.me.getX a).toNat 0) s.me.pc 0) ∧
    exec (.xchsr d r a) s = .next (s.takeFault (s.me.flt 0x84 0 (s.me.getX a).toNat 0) s.me.pc 0)

/-- System registers: reads, writes, exchanges, and the values they refuse. The parts are stated above, each with its rules.
-/
def Obligations.SystemRegisters : Prop :=
  Claims.SystemRegisters ∧ Claims.SystemRegisterFaults

/-- R196: RDTIME, and RDSR of TIME, write TIME to x[d]. WAITT compares TIME with x[a] as unsigned integers: at or past it,
it completes; before it, the strand is blocked. Outside a replay, with no Logline recording, nothing else changes. -/
def Sys2Proof.Claims.Time : Prop :=
  ∀ (s : State) (d a : XReg), s.replay = none → s.logArea = none →
    (∃ t, exec (.rdtime d) s = .next t ∧ exec (.rdsr d .time) s = .next t ∧ (d ≠ 0 → t.me.getX d = s.time) ∧
      t.me.pc = s.me.pc + 8#64 ∧ OnlyX d { s.me with ordTime := t.me.ordTime } t.me ∧ sameModule s t) ∧
    ((s.me.getX a).toNat ≤ s.time.toNat → ∃ t, exec (.waitt a) s = .next t ∧ t.me.pc = s.me.pc + 8#64 ∧
      sameRegisters { s.me with ordWait := t.me.ordWait } t.me ∧ sameModule s t) ∧
    (s.time.toNat < (s.me.getX a).toNat →
      exec (.waitt a) s = .next (s.setMe { s.me with blocked := some (.waitt a) }))

/-- R190, R194, R195, R106: NOP, IFENCE, YIELD and FENCE go on at the next word and change no register and no memory:
IFENCE drops the words fetched, YIELD waits for the other ready strands of its core, for 6 cycles at most, and FENCE,
which waits for the strand's transfers, marks buffered strips stale. -/
def Sys2Proof.Claims.HintsAndFences : Prop :=
  ∀ (s : State) (sc : Scope),
    (∃ t, exec .nop s = .next t ∧ t.me.pc = s.me.pc + 8#64 ∧ sameRegisters s.me t.me ∧ sameModule s t) ∧
    (∃ t, exec .ifence s = .next t ∧ t.me.pc = s.me.pc + 8#64 ∧ t.me.icache = [] ∧
      sameRegisters { s.me with icache := [] } t.me ∧ sameModule s t) ∧
    (∃ t, exec .yield s = .next t ∧ t.me.pc = s.me.pc + 8#64 ∧ t.me.yieldLeft ≤ 6 ∧
      (∀ n ∈ t.me.yieldFor, ∃ u ∈ s.strands, u.id = n ∧ u.core = s.me.core ∧ u.ready = true) ∧
      sameRegisters { s.me with yieldFor := t.me.yieldFor, yieldLeft := t.me.yieldLeft } t.me ∧ sameModule s t) ∧
    (s.transfersOut = false → ∃ t, exec (.fence sc) s = .next t ∧ t.me.pc = s.me.pc + 8#64 ∧
      (∀ q, t.me.stream = some q → ∀ g ∈ q.groups, g.stale = true) ∧
      sameRegisters { s.me with stream := t.me.stream } t.me ∧ sameModule s t) ∧
    (s.transfersOut = true → exec (.fence sc) s = .next (s.setMe { s.me with hold := some (.fence sc) }))

/-- R197: WAITE with its latch set clears it and completes, otherwise the strand is blocked; SEV sets the latch of every
strand of its node in its scope, among them its own, and no other. -/
def Sys2Proof.Claims.EventLatch : Prop :=
  (∀ s : State, s.me.latch = true → ∃ t, exec .waite s = .next t ∧ t.me.latch = false ∧ t.me.pc = s.me.pc + 8#64 ∧
    sameRegisters { s.me with latch := false } t.me ∧ sameModule s t) ∧
  (∀ s : State, s.me.latch = false → exec .waite s = .next (s.setMe { s.me with blocked := some .waite })) ∧
  (∀ (s : State) (sc : Scope), s.transfersOut = false → s.me.exists? = true →
    ∃ t, exec (.sev sc) s = .next t ∧ t.me.latch = true ∧ t.me.pc = s.me.pc + 8#64 ∧
      sameRegisters { s.me with latch := true } t.me ∧ t.mem = s.mem ∧
      t.strands = s.strands.map (fun u =>
        { u with latch := u.latch || (u.exists? && sameNode u.gang s.me.gang && inScope sc s.me u) }))

/-- TIME, WAITT, and the event latch with WAITE and SEV. The parts are stated above, each with its rules. -/
def Obligations.TimeAndEvents : Prop :=
  Claims.Time ∧ Claims.EventLatch

/-- R191, R277: outside matrix state and handler mode EXIT ends the strand: its registers and stacks go, its node counts one
more strand that has executed EXIT, and memory and every other strand are as they were. The buffer handles of its gang are
as they were while another strand of the gang is left, and belong to no gang after the last. -/
def Sys2Proof.Claims.ExitEndsStrand : Prop :=
  ∀ (s : State) (n : Node), s.me.handler = none → s.me.inMatrix = false → s.replay = none →
    s.node? s.me.gang.launch s.me.gang.node = some n →
    ∃ t, exec .exit s = .next t ∧ t.me = Strand.blank ∧ t.strands = s.strands ∧ t.mem = s.mem ∧
      t.node? s.me.gang.launch s.me.gang.node = some { n with exited := n.exited + 1 } ∧ t.ctxs = s.ctxs ∧
      t.queues = s.queues ∧ t.fabs = s.fabs ∧
      ((∃ u ∈ s.strands, u.exists? = true ∧ u.gang = s.me.gang) → t.clusters = s.clusters) ∧
      ((∀ u ∈ s.strands, u.exists? = true → u.gang ≠ s.me.gang) → ∀ k h b, (t.cluster k).buf? h = some b →
        b.gang ≠ s.me.gang)

/-- NOP, IFENCE, YIELD and FENCE change no register and no memory; EXIT ends the strand. The parts are stated above, each
with its rules. -/
def Obligations.HintsAndExit : Prop :=
  Claims.HintsAndFences ∧ Claims.ExitEndsStrand

/-! ### Taking an exception and returning (R395 to R402) -/

/-- R400: a fault, service request or breakpoint with a handler saves the strand and starts the handler: at the handler's
entry point, with x1 bytes 0x00 to 0x07 of the record, x2 FADDR, x3 FINFO1, x4 FINFO2, x5 ESR, every other x register 0,
empty stacks above the saved depths, and the saved PC in the save area. -/
def Sys2Proof.Claims.HandlerEntry : Prop :=
  ∀ (s : State) (f : Flt) (pc : Word) (reply : XReg) (entry : Word) (k : Nat) (o : Obj),
    s.me.handler = none → s.handlerOf = some (entry, k, o) → s.me.mqueue = [] →
    (s.takeFault f pc reply).me.pc = entry ∧
    (s.takeFault f pc reply).me.getX 1 = (s.me.record s.time f).word0 ∧
    (s.takeFault f pc reply).me.getX 2 = f.faddr ∧ (s.takeFault f pc reply).me.getX 3 = f.info1 ∧
    (s.takeFault f pc reply).me.getX 4 = f.info2 ∧
    (s.takeFault f pc reply).me.getX 5 = BitVec.ofNat 64 s.me.esr ∧
    (∀ r : XReg, r = 0 ∨ 5 < r.val → (s.takeFault f pc reply).me.getX r = 0#64) ∧
    (s.takeFault f pc reply).me.rstack = [] ∧ (s.takeFault f pc reply).me.rdepth = 0 ∧
    (s.takeFault f pc reply).me.rbase = s.me.rdepth ∧ (s.takeFault f pc reply).me.mbase = s.me.mdepth ∧
    (s.takeFault f pc reply).me.vl = 0 ∧ (s.takeFault f pc reply).me.fstat = 0#32 ∧
    (s.takeFault f pc reply).me.obj = k ∧ (s.takeFault f pc reply).me.inMatrix = false ∧
    (∃ h, (s.takeFault f pc reply).me.handler = some h ∧ h.rcd = s.me.record s.time f ∧ h.svcReg = reply) ∧
    ((∀ b n, s.ckArea = some (b, n) → b + 5 < s.me.areas.save + 8 ∨ s.me.areas.save + 16 ≤ b + 5) →
      (s.takeFault f pc reply).readP (s.me.areas.save + 8) 8 = toLE 8 pc.toNat) ∧
    (s.takeFault f pc reply).me.id = s.me.id ∧ (s.takeFault f pc reply).me.gang = s.me.gang ∧
    (s.takeFault f pc reply).strands.map Strand.id = s.strands.map Strand.id

/-- R395: the record of a fault: its format, class and detail, and what FRFLAGS says of the strand. -/
def Sys2Proof.Claims.FaultRecord : Prop :=
  ∀ (s : State) (f : Flt), f.cls < 2 ^ 16 → f.detail < 2 ^ 8 →
    bitsOf (s.me.record s.time f).word0.toNat 15 0 = 0x000F ∧
    bitsOf (s.me.record s.time f).word0.toNat 31 16 = 0x0004 ∧
    bitsOf (s.me.record s.time f).word0.toNat 47 32 = f.cls ∧
    bitsOf (s.me.record s.time f).word0.toNat 55 48 = f.detail ∧
    ((s.me.record s.time f).word0.getLsbD 56 = s.me.handler.isSome) ∧
    ((s.me.record s.time f).word0.getLsbD 57 = s.me.inMatrix)

/-- R192, R400: SVC and BRK with a handler are taken as at a pre-emption point between words: the saved PC is the next
word's address, FADDR the instruction's own, FINFO1 the code, and SVC's FINFO2 is x[a], its reply register x[d]; while the
matrix queue cannot drain, the word waits at issue. In handler mode, and without a handler, SVC completes with reply −1
and BRK as a NOP. -/
def Sys2Proof.Claims.ServiceRequests : Prop :=
  ∀ (s : State) (d a : XReg) (code : BitVec 24),
    (s.me.handler = none → s.handlerOf ≠ none → s.drained = true →
      exec (.svc d a code) s =
        .next (s.takeFault ⟨0x01, 0, s.me.pc, code.setWidth 64, s.me.getX a⟩ (s.me.pc + 8#64) d) ∧
      exec (.brk code) s = .next (s.takeFault ⟨0x02, 0, s.me.pc, code.setWidth 64, 0#64⟩ (s.me.pc + 8#64) 0)) ∧
    (s.me.handler = none → s.handlerOf ≠ none → s.drained = false →
      exec (.svc d a code) s = .next (s.setMe { s.me with hold := some (.svc d a code) }) ∧
      exec (.brk code) s = .next (s.setMe { s.me with hold := some (.brk code) })) ∧
    (s.me.handler.isSome = true ∨ s.handlerOf = none → WritesX (.svc d a code) s d (BitVec.allOnes 64) ∧
      ∃ t, exec (.brk code) s = .next t ∧ t.me.pc = s.me.pc + 8#64 ∧ sameRegisters s.me t.me ∧ sameModule s t)

/-- R402: in handler mode, or with no handler, a fault is unhandled: its record leaves for the host that created the
context, before it nothing new and after it only the records of failures due in other strands of the node. The node fails:
its strands are gone, no node of the launch that is not dispatched ever is, and the launch has failed; where no other node
runs and no transfer is in flight, it has completed with STATUS 5, or 4 after an abort. -/
def Sys2Proof.Claims.UnhandledFault : Prop :=
  ∀ (s : State) (f : Flt) (pc : Word) (reply : XReg), s.me.handler.isSome = true ∨ s.handlerOf = none →
    s.replay = none →
    (∃ r rest, (s.takeFault f pc reply).out = s.out ++ .record (s.hostOfCtx s.me.ctx) r :: rest ∧ r.flt = f ∧
      r.seq = BitVec.ofNat 64 (s.fseq + 1) ∧ (∀ o ∈ rest, ∃ host q, o = .record host q) ∧
      ((∀ t ∈ s.all, t.id ≠ s.me.id → sameNode t.gang s.me.gang = true → t.pending = []) → rest = [])) ∧
    (∀ l n, s.launch? s.me.gang.launch = some l → l.nodes[s.me.gang.node]? = some n →
      (∃ m, (s.takeFault f pc reply).launch? s.me.gang.launch = some m ∧ m.failed = true ∧
        (m.nodes[s.me.gang.node]?).map Node.st = some .dead ∧
        ∀ k ∈ m.nodes, k.st = .running ∨ k.st = .done ∨ k.st = .dead) ∨
      ((s.takeFault f pc reply).launch? s.me.gang.launch = none ∧
        ∀ q, s.queue? l.q = some q → ∃ q' c, (s.takeFault f pc reply).queue? l.q = some q' ∧ q'.cpls = q.cpls ++ [c] ∧
          c.no = l.no ∧ c.status = if l.aborted then 4 else 5)) ∧
    (∀ t ∈ (s.takeFault f pc reply).all, sameNode t.gang s.me.gang = false) ∧
    (s.takeFault f pc reply).mem = s.mem

/-- Taking an exception: the handler's start, the record, service requests, and unhandled faults. The parts are stated
above, each with its rules. -/
def Obligations.TakingExceptions : Prop :=
  Claims.HandlerEntry ∧ Claims.FaultRecord ∧ Claims.ServiceRequests ∧ Claims.UnhandledFault

namespace Sys2Proof.Claims

/-- The registers of a strand that its save area holds, but x, PC, ESR and the stacks, are those of an image. -/
structure RestoredAs (img t : Strand) : Prop where
  f : t.f = img.f
  v : t.v = img.v
  m : t.m = img.m
  p : t.p = img.p
  b : t.b = img.b
  alg : t.alg = img.alg
  vtype : t.vtype = img.vtype
  vl : t.vl = img.vl ∧ t.mvl = img.mvl
  flags : t.fstat = img.fstat ∧ t.fidx = img.fidx
  rest : t.tau = img.tau ∧ t.stripPrev = img.stripPrev ∧ t.rngKey = img.rngKey ∧ t.rngCtr = img.rngCtr
  depths : t.rdepth = img.rdepth ∧ t.mdepth = img.mdepth
  matrix : t.inMatrix = img.inMatrix ∧ t.active = img.active ∧ t.shadow = img.shadow ∧ t.acc = img.acc

/-- The `k` newest mask-stack entries that lie spilled below an address, the newest first, and where the oldest of them
starts (R241). -/
def maskBelow (s : State) : Nat → Nat → List MaskEntry × Nat
  | 0, top => ([], top)
  | k + 1, top =>
    let n := ofLE (s.readP (top - 8) 8)
    let b := top - 8 - 8 * maskWords n
    (⟨n, BitVec.ofNat 32768 (ofLE (s.readP b (8 * maskWords n)))⟩ :: (maskBelow s k b).1, (maskBelow s k b).2)

/-- Both stacks hold what was reloaded (R43): up to 16 and 8 of the newest entries that lie spilled. -/
def Reloaded (s : State) (img t : Strand) : Prop :=
  t.rstack = (List.range (min 16 img.rdepth)).map
    (fun k => BitVec.ofNat 64 (ofLE (s.readP (img.spillRs - 8 * (k + 1)) 8))) ∧
  t.spillRs = img.spillRs - 8 * min 16 img.rdepth ∧
  (t.mstack, t.spillMs) = maskBelow s (min 8 img.mdepth) img.spillMs

end Sys2Proof.Claims

/-- R401: ERET with action 0 restores the strand from its save area and continues at the saved PC, in the middle of an
interrupted instruction where one was saved; with action 1 it continues at x3, at its first element; for a service
request x[d] receives x2; any other action leaves the original fault unhandled. Every other register is what the save
area holds, and the stacks hold what was reloaded; a return entry that cannot be read is class 0x08 at the word to be
issued, the return stack holding no entry (R399). No byte of memory changes. -/
def Sys2Proof.Claims.HandlerReturn : Prop :=
  ∀ (s : State) (h : Handler) (img : Strand), s.me.handler = some h → s.me.mqueue = [] →
    img = loadBytes { s.me with stream := h.stream } (s.savedBytes s.me.areas.save) →
    (s.bad = [] → s.me.getX 1 = 0#64 → ∃ t, exec .eret s = .next t ∧ t.me.handler = none ∧
      t.me.pc = BitVec.ofNat 64 (field (s.savedBytes s.me.areas.save) 8 8) ∧ t.mem = s.mem ∧
      (∀ r : XReg, r ≠ 0 → (h.rcd.flt.cls = 1 → r ≠ h.svcReg) →
        t.me.getX r = BitVec.ofNat 64 (field (s.savedBytes s.me.areas.save) (0xE0 + 8 * (r.val - 1)) 8)) ∧
      (h.rcd.flt.cls = 1 → h.svcReg ≠ 0 → t.me.getX h.svcReg = s.me.getX 2) ∧
      t.me.esr = field (s.savedBytes s.me.areas.save) 0x20 4 ∧ t.me.resume = img.resume ∧
      RestoredAs img t.me ∧ Reloaded s img t.me ∧ sameModule s t) ∧
    (s.bad = [] → s.me.getX 1 = 1#64 → ∃ t, exec .eret s = .next t ∧ t.me.handler = none ∧ t.me.pc = s.me.getX 3 ∧
      t.me.esr = 0 ∧ t.me.resume = none ∧ t.mem = s.mem ∧
      (∀ r : XReg, r ≠ 0 → (h.rcd.flt.cls = 1 → r ≠ h.svcReg) →
        t.me.getX r = BitVec.ofNat 64 (field (s.savedBytes s.me.areas.save) (0xE0 + 8 * (r.val - 1)) 8)) ∧
      (h.rcd.flt.cls = 1 → h.svcReg ≠ 0 → t.me.getX h.svcReg = s.me.getX 2) ∧
      RestoredAs img t.me ∧ Reloaded s img t.me ∧ sameModule s t) ∧
    (s.me.getX 1 = 0#64 → img.rdepth ≠ 0 → s.readable (img.spillRs - 8) 8 = false →
      ∃ t, exec .eret s = .next (t.takeFault ⟨0x08, 1, t.me.pc, BitVec.ofNat 64 (img.spillRs - 8), 0x42#64⟩ t.me.pc 0) ∧
        t.me.handler = none ∧ t.me.rstack = [] ∧ t.me.spillRs = img.spillRs ∧ RestoredAs img t.me ∧
        t.me.pc = BitVec.ofNat 64 (field (s.savedBytes s.me.areas.save) 8 8) ∧ sameModule s t) ∧
    (s.me.getX 1 ≠ 0#64 → s.me.getX 1 ≠ 1#64 → exec .eret s = .next (s.unhandled h.rcd))

/-- R396 class 0x0C: ERET outside handler mode is a fault. -/
def Sys2Proof.Claims.ReturnOutsideHandler : Prop :=
  ∀ s : State, s.me.handler = none → exec .eret s = .next (s.takeFault (s.me.flt 0x0C 0 0 0) s.me.pc 0)

/-- ERET restores the strand as its action says; outside handler mode it faults. The parts are stated above, each with its
rules. -/
def Obligations.ReturningFromHandlers : Prop :=
  Claims.HandlerReturn ∧ Claims.ReturnOutsideHandler

namespace Sys2Proof.Claims

/-- A strand whose parts fit the fields of its save area (R44, R45), with nothing above its registers' high-water marks
(R31). -/
structure Savable (st : Strand) : Prop where
  counts : st.esr < 2 ^ 32 ∧ st.vl < 2 ^ 64 ∧ st.mvl < 2 ^ 64 ∧ st.rdepth < 2 ^ 16 ∧ st.mdepth < 2 ^ 16 ∧
    st.spillRs < 2 ^ 64 ∧ st.spillMs < 2 ^ 64 ∧ st.vcount ≤ 32 ∧ st.bufGroups < 2 ^ 8
  v : ∀ r : VRegNo, (st.getV r).hw < 2 ^ 16 ∧ (st.getV r).nat < 2 ^ (512 * (st.getV r).hw)
  m : ∀ r : MRegNo, st.m[r].hw < 2 ^ 16 ∧ st.m[r].bits.toNat < 2 ^ (512 * st.m[r].hw)
  p : ∀ r : PRegNo, st.p[r].hw < 2 ^ 16 ∧ st.p[r].bits.toNat < 2 ^ (512 * st.p[r].hw)
  alg : ∀ (k : Fin 4) (t : AlgTable), st.alg[k] = some t →
    t.dim < 2 ^ 8 ∧ t.ents.length < 0xFFFF ∧ ∀ e ∈ t.ents, e.k < 2 ^ 8 ∧ e.p < 2 ^ 8 ∧ e.q < 2 ^ 8
  planes : st.active.blk < 4 ∧ st.shadow.blk < 4
  bind : ∀ p k, st.bind = some (p, k) → p < 8 ∧ k < 2 ^ 64

end Sys2Proof.Claims

/-- R44, R45, R46: reading a save area back gives the registers that were saved in it: the declared vector registers, the
masks and the predicates with their marks and provenance, the algebra slots, and in matrix state the planes with their
formats, the tiles with their types, and the binding (R270). -/
def Obligations.SaveAreaRoundTrip : Prop :=
  ∀ (st other back : Strand) (pc : Word), Savable st → back = loadBytes other (saveBytes st pc) →
    back.pc = pc ∧ (∀ r : XReg, back.getX r = st.getX r) ∧ back.f = st.f ∧ back.b = st.b ∧
    back.fidx = st.fidx ∧ back.fstat = st.fstat ∧ back.vtype = st.vtype ∧ back.vl = st.vl ∧ back.mvl = st.mvl ∧
    back.esr = st.esr ∧ back.tau = st.tau ∧ back.rngKey = st.rngKey ∧ back.rngCtr = st.rngCtr ∧
    back.resume = st.resume ∧ back.stripPrev = st.stripPrev ∧ back.rdepth = st.rdepth ∧ back.mdepth = st.mdepth ∧
    back.spillRs = st.spillRs ∧ back.spillMs = st.spillMs ∧ back.vcount = st.vcount ∧
    (∀ r : VRegNo, r.val < st.vcount → back.getV r = st.getV r) ∧
    (∀ r : MRegNo, r ≠ 0 → back.m[r] = st.m[r]) ∧ (∀ r : PRegNo, r ≠ 0 → back.p[r] = st.p[r]) ∧
    back.alg = st.alg ∧ back.inMatrix = st.inMatrix ∧
    (st.inMatrix = true → back.active = st.active ∧ back.shadow = st.shadow ∧ back.acc = st.acc ∧ back.bind = st.bind ∧
      back.commitAcc = st.acc.map (·.ty) ∧ back.commitActive = st.active.fmt ∧ back.commitShadow = st.shadow.fmt)

/-! ### Vectors (R220 to R232) -/

namespace Sys2Proof.Claims

/-- What a vector instruction needs of its operands (R433, R437, R438): registers that are declared, lengths that fit, whole
blocks of block types, and no queued MRDROW; `MVL` is at most a register's 8 KiB (R29). -/
structure VecReady (st : Strand) (rs : List VRegNo) (ts : List ETy) : Prop where
  regs : ∀ r ∈ rs, r.val < st.vcount
  fits : ∀ t ∈ ts, bytesOf t st.blk st.vl ≤ st.mvl
  blocks : ∀ t ∈ ts, isBlock t = true → st.blk ≠ 0 ∧ st.vl % st.blk = 0
  rows : rowFree st = true
  mvl : st.mvl ≤ 8192

/-- A turn that begins an instruction and is not asked to stop inside it. -/
structure Whole (st : Strand) : Prop where
  esr : st.esr = 0
  stop : st.stopAt = none
  evs : st.evSoFar = 0#7

/-- The union of the events of the active elements. -/
def vecEvents (st : Strand) (m : MRegNo) (f : Nat → Nat × Ev) : Ev :=
  ((List.range st.vl).filter (st.mbit m)).foldl (fun e i => e ||| (f i).2) 0#7

/-- The strand after an interruptible instruction but for its own destination: flags, RNGCTR and PC have moved on. -/
structure VecFrame (a b : Strand) (e : Ev) (draws : Nat) : Prop where
  fstat : b.fstat = a.fstat ||| e.setWidth 32
  rng : b.rngCtr = a.rngCtr + BitVec.ofNat 64 draws
  pc : b.pc = a.pc + 8#64
  esr : b.esr = 0
  rest : sameRegisters { a with v := b.v, m := b.m, p := b.p, fstat := b.fstat, fidx := b.fidx, fidxSeq := b.fidxSeq,
                                rngCtr := b.rngCtr, esr := 0, resume := none, stopAt := none, evSoFar := 0#7,
                                evFirst := 0 } b

/-- Only vector register `d` is written; every byte of it above those of VL elements of type `t` is zero (R220). -/
structure VecOnly (a b : Strand) (d : VRegNo) (t : ETy) : Prop where
  others : ∀ r, r ≠ d → b.getV r = a.getV r
  tail : ∀ k, bytesOf t a.blk a.vl ≤ k → elem 8 (b.getV d).nat k = 0
  masks : b.m = a.m
  preds : b.p = a.p

/-- A completed write of a vector register by elements (R220): active elements hold their results, inactive ones their old
values under .keep and zero otherwise, every byte above is zero, and no other register changes. -/
structure VecWrote (a b : Strand) (d : VRegNo) (t : ETy) (active : Nat → Bool) (keep : Bool) (f : Nat → Nat) : Prop where
  elems : ∀ i, i < a.vl →
    b.code t d i = (if active i then f i % 2 ^ sbits t else if keep then a.code t d i else 0)
  tail : ∀ k, bytesOf t a.blk a.vl ≤ k → elem 8 (b.getV d).nat k = 0
  hw : (b.getV d).hw = ceilDiv (bytesOf t a.blk a.vl) 64
  others : ∀ r, r ≠ d → b.getV r = a.getV r
  masks : b.m = a.m
  preds : b.p = a.p

/-- An element-wise instruction with a vector destination: destination, the registers and types it uses, the type of its
elements, mask, .keep, rounding, and the function of an element (R224 to R229, R247, R249). -/
def vecElem (st : Strand) : Instr →
    Option (VRegNo × List VRegNo × List ETy × ETy × MRegNo × Bool × Rnd × (Nat → Nat × Ev))
  | .vadd d a b m => some (d, [d, a, b], [m.ty], m.ty, m.mask, m.keep, m.rnd, fun i =>
      elemAdd m.ty (st.rnd m.rnd) m.sat (st.draw i 0) (st.code m.ty a i) (st.code m.ty b i))
  | .vsub d a b m => some (d, [d, a, b], [m.ty], m.ty, m.mask, m.keep, m.rnd, fun i =>
      elemSub m.ty (st.rnd m.rnd) m.sat (st.draw i 0) (st.code m.ty a i) (st.code m.ty b i))
  | .vmul d a b m => some (d, [d, a, b], [m.ty], m.ty, m.mask, m.keep, m.rnd, fun i =>
      elemMul m.ty (st.rnd m.rnd) m.sat (st.draw i 0) (st.code m.ty a i) (st.code m.ty b i))
  | .vdiv d a b m => some (d, [d, a, b], [m.ty], m.ty, m.mask, m.keep, m.rnd, fun i =>
      elemDiv m.ty (st.rnd m.rnd) m.sat (st.draw i 0) (st.code m.ty a i) (st.code m.ty b i))
  | .vmulh d a b m => some (d, [d, a, b], [m.ty], m.ty, m.mask, m.keep, m.rnd, fun i =>
      (intCode (sbits m.ty) (intVal m.ty (st.code m.ty a i) * intVal m.ty (st.code m.ty b i) / 2 ^ sbits m.ty), 0#7))
  | .vrem d a b m => some (d, [d, a, b], [m.ty], m.ty, m.mask, m.keep, m.rnd, fun i =>
      intRem m.ty (intVal m.ty (st.code m.ty a i)) (intVal m.ty (st.code m.ty b i)))
  | .vmin d a b m => some (d, [d, a, b], [m.ty], m.ty, m.mask, m.keep, m.rnd, fun i =>
      elemMinSat false m.ty m.sat (st.code m.ty a i) (st.code m.ty b i))
  | .vmax d a b m => some (d, [d, a, b], [m.ty], m.ty, m.mask, m.keep, m.rnd, fun i =>
      elemMinSat true m.ty m.sat (st.code m.ty a i) (st.code m.ty b i))
  | .vand d a b m => some (d, [d, a, b], [m.ty], m.ty, m.mask, m.keep, m.rnd, fun i =>
      (st.code m.ty a i &&& st.code m.ty b i, 0#7))
  | .vor d a b m => some (d, [d, a, b], [m.ty], m.ty, m.mask, m.keep, m.rnd, fun i =>
      (st.code m.ty a i ||| st.code m.ty b i, 0#7))
  | .vxor d a b m => some (d, [d, a, b], [m.ty], m.ty, m.mask, m.keep, m.rnd, fun i =>
      (st.code m.ty a i ^^^ st.code m.ty b i, 0#7))
  | .vshl d a b m => some (d, [d, a, b], [m.ty], m.ty, m.mask, m.keep, m.rnd, fun i =>
      (st.code m.ty a i <<< (st.code m.ty b i % sbits m.ty), 0#7))
  | .vshr d a b m => some (d, [d, a, b], [m.ty], m.ty, m.mask, m.keep, m.rnd, fun i =>
      (st.code m.ty a i >>> (st.code m.ty b i % sbits m.ty), 0#7))
  | .vsra d a b m => some (d, [d, a, b], [m.ty], m.ty, m.mask, m.keep, m.rnd, fun i =>
      (intCode (sbits m.ty) (signedOf (sbits m.ty) (st.code m.ty a i) / 2 ^ (st.code m.ty b i % sbits m.ty)), 0#7))
  | .vfma d a b c m => some (d, [d, a, b, c], [m.ty], m.ty, m.mask, m.keep, m.rnd, fun i =>
      elemFma false false m.ty (st.rnd m.rnd) m.sat (st.draw i 0) (st.code m.ty a i) (st.code m.ty b i) (st.code m.ty c i))
  | .vfms d a b c m => some (d, [d, a, b, c], [m.ty], m.ty, m.mask, m.keep, m.rnd, fun i =>
      elemFma false true m.ty (st.rnd m.rnd) m.sat (st.draw i 0) (st.code m.ty a i) (st.code m.ty b i) (st.code m.ty c i))
  | .vfnma d a b c m => some (d, [d, a, b, c], [m.ty], m.ty, m.mask, m.keep, m.rnd, fun i =>
      elemFma true false m.ty (st.rnd m.rnd) m.sat (st.draw i 0) (st.code m.ty a i) (st.code m.ty b i) (st.code m.ty c i))
  | .vsqrt d a m => some (d, [d, a], [m.ty], m.ty, m.mask, m.keep, m.rnd, fun i =>
      elemFn sqrtOf m.ty (st.rnd m.rnd) m.sat (st.draw i 0) (st.code m.ty a i))
  | .vexp2 d a m => some (d, [d, a], [m.ty], m.ty, m.mask, m.keep, m.rnd, fun i =>
      elemFn exp2Of m.ty (st.rnd m.rnd) m.sat (st.draw i 0) (st.code m.ty a i))
  | .vlog2 d a m => some (d, [d, a], [m.ty], m.ty, m.mask, m.keep, m.rnd, fun i =>
      elemFn log2Of m.ty (st.rnd m.rnd) m.sat (st.draw i 0) (st.code m.ty a i))
  | .vrsq d a m => some (d, [d, a], [m.ty], m.ty, m.mask, m.keep, m.rnd, fun i =>
      elemFn rsqOf m.ty (st.rnd m.rnd) m.sat (st.draw i 0) (st.code m.ty a i))
  | .vabs d a m => some (d, [d, a], [m.ty], m.ty, m.mask, m.keep, m.rnd, fun i => elemAbs m.ty m.sat (st.code m.ty a i))
  | .vneg d a m => some (d, [d, a], [m.ty], m.ty, m.mask, m.keep, m.rnd, fun i => elemNeg m.ty m.sat (st.code m.ty a i))
  | .vcvt d a src m => some (d, [d, a], [m.ty, src], m.ty, m.mask, m.keep, m.rnd, fun i =>
      deliver m.ty ((st.val src a i).1, (st.val src a i).2 ||| evIf (isSnan (st.val src a i).1) evV) (st.rnd m.rnd) m.sat
        (st.draw i 0))
  | .vdeq d a src m => some (d, [d, a], [m.ty, src], m.ty, m.mask, m.keep, m.rnd, fun i =>
      deliver m.ty ((st.val src a i).1, (st.val src a i).2 ||| evIf (isSnan (st.val src a i).1) evV) (st.rnd m.rnd) m.sat
        (st.draw i 0))
  | .vclass d a ty mask keep => some (d, [d, a], [ty], ty, mask, keep, .rne, fun i => (classBits ty (st.code ty a i), 0#7))
  | .pblend d a b c m => some (d, [d, a, b], [m.ty], m.ty, m.mask, m.keep, m.rnd, fun i =>
      blend m.ty (st.rnd m.rnd) m.sat (st.draw i 0) (st.pcode c i) (st.code m.ty a i) (st.code m.ty b i))
  | _ => none

end Sys2Proof.Claims

/-- R220, R224 to R229, R247: an element-wise vector instruction that nothing interrupts and no enabled event stops
completes: each active element is computed from the operands as they were, each inactive one is kept or zero, the tail is
zero, events join FSTAT, RNGCTR advances by VL under rst, and nothing else changes. With VL = 0 it completes and writes
nothing. It says so for VADD, VSUB, VMUL, VMULH, VDIV, VREM, VMIN, VMAX, VAND, VOR, VXOR, VSHL, VSHR, VSRA, VFMA, VFMS,
VFNMA, VSQRT, VEXP2, VLOG2, VRSQ, VABS, VNEG, VCVT to a type that is no block type, VDEQ, VCLASS and PBLEND. -/
def Sys2Proof.Claims.VectorElements : Prop :=
  ∀ (s : State) (i : Instr) (d : VRegNo) (rs : List VRegNo) (ts : List ETy) (t : ETy) (m : MRegNo) (keep : Bool) (r : Rnd)
      (f : Nat → Nat × Ev), i.wf = true → vecElem s.me i = some (d, rs, ts, t, m, keep, r, f) →
    VecReady s.me rs ts → Whole s.me →
    (s.me.vl ≠ 0 → vecEvents s.me m f &&& s.me.ten = 0#7 → ∃ u, exec i s = .next u ∧
      VecWrote s.me u.me d t (s.me.mbit m) keep (fun k => (f k).1) ∧
      VecFrame s.me u.me (vecEvents s.me m f) (if s.me.rnd r = .rst then s.me.vl else 0) ∧ sameModule s u) ∧
    (s.me.vl = 0 → ∃ u, exec i s = .next u ∧ u.me.v = s.me.v ∧ VecFrame s.me u.me 0#7 0 ∧ sameModule s u)

/-- R41, R42: an interruption is invisible. An element-wise instruction stopped at a group boundary inside its length, and
issued again, ends in the same state as when nothing stops it. -/
def Obligations.InterruptionIsInvisible : Prop :=
  ∀ (s t : State) (i : Instr) (d : VRegNo) (rs : List VRegNo) (ts : List ETy) (ty : ETy) (m : MRegNo) (keep : Bool)
      (r : Rnd) (f : Nat → Nat × Ev) (k : Nat), i.wf = true → vecElem s.me i = some (d, rs, ts, ty, m, keep, r, f) →
    VecReady s.me rs ts → Whole s.me → vecEvents s.me m f &&& s.me.ten = 0#7 →
    exec i (s.setMe { s.me with stopAt := some k }) = .next t → 0 < t.me.esr →
    exec i t = exec i s

/-- R397, R433, R437, R438: a vector register that is not declared is class 0x81, before any length is looked at, and a
length that does not fit is class 0x82 DETAIL 0; both are taken at the instruction, from the state before it. It says so of
every instruction of `VectorElements`. -/
def Sys2Proof.Claims.VectorOperandFaults : Prop :=
  ∀ (s : State) (i : Instr) (d : VRegNo) (rs : List VRegNo) (ts : List ETy) (t : ETy) (m : MRegNo) (keep : Bool) (r : Rnd)
      (f : Nat → Nat × Ev), i.wf = true → vecElem s.me i = some (d, rs, ts, t, m, keep, r, f) →
    (∀ pre v post, rs = pre ++ v :: post → (∀ q ∈ pre, q.val < s.me.vcount) → s.me.vcount ≤ v.val →
      exec i s = .next (s.takeFault (s.me.flt 0x81 0 v.val s.me.vcount) s.me.pc 0)) ∧
    ((∀ q ∈ rs, q.val < s.me.vcount) → isBlock t = false → ts.head? = some t → s.me.mvl < bytesOf t s.me.blk s.me.vl →
      exec i s = .next (s.takeFault (s.me.flt 0x82 0 s.me.vl s.me.mvl) s.me.pc 0))

/-- Element-wise vector instructions compute every active element and clear the tail; their operand faults. The parts are
stated above, each with its rules. -/
def Obligations.VectorElements : Prop :=
  Claims.VectorElements ∧ Claims.VectorOperandFaults

namespace Sys2Proof.Claims

/-- vmax of R223 for MVL bytes and blocks of L: for a block type the largest multiple of L whose codes and scale bytes fit,
else the elements that fit, cut to a multiple of L. -/
def IsVmax (t : ETy) (l mvl m : Nat) : Prop :=
  if isBlock t = true then
    m % l = 0 ∧ bytesOf t l m ≤ mvl ∧ ∀ n, n % l = 0 → bytesOf t l n ≤ mvl → n ≤ m
  else m = mvl * 8 / sbits t - mvl * 8 / sbits t % l

/-- MVL and VL after SETVL of a count (R223). -/
def SetsLength (a b : Strand) (count : Nat) : Prop :=
  b.mvl = (if a.inMatrix then 256 else 8192 * 2 ^ a.share / a.vcount) ∧
  ∃ l m, l = (if a.blk = 0 then 1 else a.blk) ∧ IsVmax a.vty l b.mvl m ∧ b.vl = min count m - min count m % l

end Sys2Proof.Claims

/-- R222, R223: SETVL and SETVLI load MVL, G shared among the declared registers, or 256 bytes in matrix state; with L the
block length or 1, they set VL to the count cut to vmax, and then to a multiple of L; RDVL reads both;
SETVT sets VTYPE and makes VL 0; CFGREG declares registers and makes them zero. -/
def Sys2Proof.Claims.VectorConfiguration : Prop :=
  (∀ (s : State) (d a : XReg), ∃ u, exec (.setvl d a) s = .next u ∧ SetsLength s.me u.me (s.me.getX a).toNat ∧
    (d ≠ 0 → u.me.getX d = BitVec.ofNat 64 u.me.vl) ∧ u.me.pc = s.me.pc + 8#64 ∧
    OnlyX d { s.me with vl := u.me.vl, mvl := u.me.mvl } u.me ∧ sameModule s u) ∧
  (∀ (s : State) (d : XReg) (n : BitVec 36), 0 ≤ n.toInt → ∃ u, exec (.setvli d n) s = .next u ∧
    SetsLength s.me u.me n.toNat ∧ (d ≠ 0 → u.me.getX d = BitVec.ofNat 64 u.me.vl) ∧
    u.me.pc = s.me.pc + 8#64 ∧ OnlyX d { s.me with vl := u.me.vl, mvl := u.me.mvl } u.me ∧ sameModule s u) ∧
  (∀ (s : State) (d a : XReg), ∃ u, exec (.rdvl d a) s = .next u ∧
    (a ≠ 0 → u.me.getX a = BitVec.ofNat 64 s.me.mvl) ∧ (d ≠ 0 → d ≠ a → u.me.getX d = BitVec.ofNat 64 s.me.vl) ∧
    (∀ r, r ≠ d → r ≠ a → u.me.getX r = s.me.getX r) ∧ u.me.pc = s.me.pc + 8#64 ∧
    sameRegisters { s.me with x := u.me.x } u.me ∧ sameModule s u) ∧
  (∀ (s : State) (ty : ETy) (blk : BitVec 2), (isBlock ty = true → blk ≠ 0#2) →
    ∃ u, exec (.setvt ty blk) s = .next u ∧ u.me.vl = 0 ∧ u.me.vty = ty ∧ u.me.blkCode = blk.toNat ∧
      u.me.pc = s.me.pc + 8#64 ∧ sameRegisters { s.me with vtype := u.me.vtype, vl := 0 } u.me ∧ sameModule s u) ∧
  (∀ (s : State) (c : VCount) (g : BitVec 4) (k : VRegNo), g.toNat ≤ 8 → k.val + g.toNat ≤ countOf c →
    (g = 0#4 → k = 0) → s.me.inMatrix = false →
    ∃ u, exec (.cfgreg c g k) s = .next u ∧ u.me.vcount = countOf c ∧ u.me.bufFirst = k.val ∧
      u.me.bufGroups = g.toNat ∧ u.me.stream = none ∧ u.me.vl = 0 ∧ u.me.mvl = 0 ∧
      (∀ r, u.me.getV r = VReg.zero) ∧ u.me.pc = s.me.pc + 8#64 ∧ u.me.x = s.me.x ∧ u.me.f = s.me.f ∧
      u.me.m = s.me.m ∧ u.me.p = s.me.p ∧ u.me.b = s.me.b ∧ u.me.vtype = s.me.vtype ∧ sameModule s u)

/-- R34, R35, R403: MSTART enters matrix state in a node with the matrix flag, with every vector register, plane and tile
zero; MSTOP leaves it once the queue is empty, the same all zero. Out of place, both are class 0x09. -/
def Sys2Proof.Claims.MatrixState : Prop :=
  ∀ s : State,
    (s.me.inMatrix = false → s.matrixNode = true → ∃ u, exec .mstart s = .next u ∧ u.me.inMatrix = true ∧
      u.me.mvl = 256 ∧ u.me.vl = 0 ∧ (∀ r, u.me.getV r = VReg.zero) ∧ u.me.active = Plane.zero ∧
      u.me.shadow = Plane.zero ∧ u.me.acc = Vector.replicate 4 Tile.zero ∧ u.me.mqueue = [] ∧ u.me.stream = none ∧
      u.me.pc = s.me.pc + 8#64 ∧ u.me.x = s.me.x ∧ u.me.f = s.me.f ∧ u.me.m = s.me.m ∧ u.me.p = s.me.p ∧
      u.me.fstat = s.me.fstat ∧ sameModule s u) ∧
    (s.me.inMatrix = true → s.me.bind = none → s.me.mqueue = [] → ∃ u, exec .mstop s = .next u ∧
      u.me.inMatrix = false ∧ u.me.vl = 0 ∧ u.me.mvl = 0 ∧ (∀ r, u.me.getV r = VReg.zero) ∧
      u.me.acc = Vector.replicate 4 Tile.zero ∧ u.me.pc = s.me.pc + 8#64 ∧ u.me.x = s.me.x ∧ u.me.f = s.me.f ∧
      u.me.m = s.me.m ∧ u.me.p = s.me.p ∧ u.me.fstat = s.me.fstat ∧ sameModule s u) ∧
    (s.me.inMatrix = true → exec .mstart s = .next (s.takeFault (s.me.flt 0x09 1 0 0) s.me.pc 0)) ∧
    (s.me.inMatrix = false → s.matrixNode = false →
      exec .mstart s = .next (s.takeFault (s.me.flt 0x09 2 0 0) s.me.pc 0)) ∧
    (s.me.inMatrix = false → exec .mstop s = .next (s.takeFault (s.me.flt 0x09 0 6 0) s.me.pc 0))

/-- Vector configuration, and entering and leaving matrix state. The parts are stated above, each with its rules. -/
def Obligations.VectorConfiguration : Prop :=
  Claims.VectorConfiguration ∧ Claims.MatrixState

namespace Sys2Proof.Claims

/-- Where an element of a move comes from, as the spec says it (R229): another element, a scalar, its old value, or zero. -/
inductive From where
  | elem (r : VRegNo) (k : Nat)
  | value (c : Nat)
  | old
  | none

/-- A move instruction: its destination, the registers and type it uses, and where element i comes from (R229). -/
def moveOf (st : Strand) : Instr → Option (VRegNo × List VRegNo × ETy × (Nat → From))
  | .vsel d a b ty mask => some (d, [d, a, b], ty, fun i => .elem (if st.mbit mask i then a else b) i)
  | .vmv d a ty mask keep => some (d, [d, a], ty.getD st.vty, fun i =>
      if st.mbit mask i then .elem a i else if keep then .old else .none)
  | .vsplat d a fromF ty => some (d, [d], ty, fun _ => .value (if fromF then st.getF a else st.getX a).toNat)
  | .vslide d a b ty mask keep => some (d, [d, a], ty, fun i =>
      if st.mbit mask i then
        (if 0 ≤ (i : Int) + (st.getX b).toInt ∧ (i : Int) + (st.getX b).toInt < st.vl
          then .elem a ((i : Int) + (st.getX b).toInt).toNat else .none)
      else if keep then .old else .none)
  | .vperm d a b ty mask keep => some (d, [d, a, b], ty, fun i =>
      if st.mbit mask i then
        (if st.code ty b i % 2 ^ widthOf ty < st.vl then .elem a (st.code ty b i % 2 ^ widthOf ty) else .none)
      else if keep then .old else .none)
  | .vmvx true useF d a b ty => some (d, [d], ty, fun i =>
      if i = (st.getX b).toNat then .value (if useF then st.getF a else st.getX a).toNat else .old)
  | _ => none

def moved (st : Strand) (d : VRegNo) (t : ETy) (i : Nat) : From → Nat
  | .elem r k => st.code t r k
  | .value c => c % 2 ^ sbits t
  | .old => st.code t d i
  | .none => 0

end Sys2Proof.Claims

/-- R229: VSEL, VMV, VSPLAT, VSLIDE, VPERM and VMVX into a vector register move codes bit for bit, make every byte above
VL's elements zero, raise nothing, and change no register but their destination; VMVX out of one copies the element, zero beyond VL, into x[d] or f[d]: a type
that is neither an integer by signedness nor floating is zero-extended there by the model's choice (log entry 120). -/
def Sys2Proof.Claims.VectorMoves : Prop :=
  (∀ (s : State) (i : Instr) (d : VRegNo) (rs : List VRegNo) (t : ETy) (f : Nat → From), i.wf = true →
    moveOf s.me i = some (d, rs, t, f) → VecReady s.me rs [t] → Whole s.me → s.me.vl ≠ 0 →
    ∃ u, exec i s = .next u ∧ (∀ k, k < s.me.vl → u.me.code t d k = moved s.me d t k (f k)) ∧
      VecOnly s.me u.me d t ∧ VecFrame s.me u.me 0#7 0 ∧ sameModule s u) ∧
  (∀ (s : State) (useF : Bool) (d : Fin 32) (a : VRegNo) (b : XReg) (t : ETy), VecReady s.me [a] [t] → Whole s.me →
    ∃ u, exec (.vmvx false useF d a b t) s = .next u ∧
      (useF = true → u.me.getF d =
        (if (s.me.getX b).toNat < s.me.vl then codeWord t (s.me.code t a (s.me.getX b).toNat) else 0#64) ∧ u.me.x = s.me.x) ∧
      (useF = false → d ≠ 0 → u.me.getX d =
        (if (s.me.getX b).toNat < s.me.vl then codeWord t (s.me.code t a (s.me.getX b).toNat) else 0#64)) ∧
      (useF = false → u.me.f = s.me.f) ∧ (∀ r, r ≠ d → u.me.getX r = s.me.getX r ∧ u.me.getF r = s.me.getF r) ∧
      u.me.v = s.me.v ∧ u.me.m = s.me.m ∧ u.me.p = s.me.p ∧ VecFrame { s.me with x := u.me.x, f := u.me.f } u.me 0#7 0 ∧ sameModule s u)

/-- R229: VCOMP moves the active elements to the front in index order, and zeros behind them. -/
def Sys2Proof.Claims.VectorCompress : Prop :=
  ∀ (s : State) (d a : VRegNo) (t : ETy) (mask : MRegNo), isBlock t = false → VecReady s.me [d, a] [t] → Whole s.me →
    s.me.vl ≠ 0 →
    ∃ u, exec (.vcomp d a t mask) s = .next u ∧
      (List.range s.me.vl).map (u.me.code t d) =
        (((List.range s.me.vl).filter (s.me.mbit mask)).map (s.me.code t a) ++ List.replicate s.me.vl 0).take s.me.vl ∧
      VecOnly s.me u.me d t ∧ VecFrame s.me u.me 0#7 0 ∧ sameModule s u

/-- R227: VQUANT quantises block by block: scale byte and codes of each block are those of its own source elements. -/
def Sys2Proof.Claims.VectorQuantise : Prop :=
  ∀ (s : State) (d a : VRegNo) (t : ETy) (rnd : Rnd) (sat : Bool) (src : ETy) (kind : BitVec 2) (q : Nat → Nat × List Nat × Evs),
    isBlock t = true → isF src = true → VecReady s.me [d, a] [t, src] → Whole s.me → s.me.vl ≠ 0 →
    (∀ j, q j = quantBlock t kind.toNat (s.me.rnd rnd) sat (fun i => s.me.draw i 0) (j * s.me.blk)
      ((List.range s.me.blk).map (fun k => (s.me.val src a (j * s.me.blk + k)).1))) →
    evUnion ((List.range (s.me.vl / s.me.blk)).flatMap (fun j => (q j).2.2)) &&& s.me.ten = 0#7 →
    ∃ u, exec (.vquant d a t rnd sat src kind) s = .next u ∧
      (∀ j k, j < s.me.vl / s.me.blk → k < s.me.blk →
        u.me.code t d (j * s.me.blk + k) = ((q j).2.1.getD k 0) % 2 ^ sbits t ∧ u.me.scale t d j = (q j).1 % 256) ∧
      VecOnly s.me u.me d t ∧
      VecFrame s.me u.me (evUnion ((List.range (s.me.vl / s.me.blk)).flatMap (fun j => (q j).2.2)))
        (if s.me.rnd rnd = .rst then s.me.vl else 0) ∧ sameModule s u

/-- Vector moves bit for bit, compression, and block quantisation. The parts are stated above, each with its rules. -/
def Obligations.VectorMoves : Prop :=
  Claims.VectorMoves ∧ Claims.VectorCompress ∧ Claims.VectorQuantise

namespace Sys2Proof.Claims

/-- R135: the value of a reduction: groups of sixteen in order, each summed by its tree and added to the running value. -/
def treeReduce (op : Nat → Nat → Nat × Ev) (leaves : Nat → List Leaf) (init : Nat) : Nat → Nat × Evs
  | 0 => (init, [])
  | g + 1 =>
    let r := treeReduce op leaves init g
    let x := tree16 op none (leaves g)
    let y := addGroup op r.1 x.1
    (y.1, r.2 ++ x.2 ++ y.2)

/-- What a reduction changes: its scalar destination, the flags and the PC. -/
structure RedFrame (a b : Strand) (t : ETy) (d : Fin 32) (e : Ev) : Prop where
  fstat : b.fstat = a.fstat ||| e.setWidth 32
  pc : b.pc = a.pc + 8#64
  x : ∀ r, isF t = true ∨ r ≠ d → b.getX r = a.getX r
  f : ∀ r, isF t = false ∨ r ≠ d → b.getF r = a.getF r
  rest : sameRegisters { a with x := b.x, f := b.f, fstat := b.fstat, fidx := b.fidx, fidxSeq := b.fidxSeq, esr := 0,
                                resume := none, stopAt := none, evSoFar := 0#7, evFirst := 0 } b

end Sys2Proof.Claims

/-- R230, R135: VREDS and VREDM reduce the active elements by the canonical tree from their initial operand, into f[d] for
a float type and x[d] for an integer type; with no element the result is the initial operand. An integer VREDS without
.sat is the sum modulo 2^64. -/
def Sys2Proof.Claims.VectorReductions : Prop :=
  (∀ (s : State) (d : Fin 32) (a : VRegNo) (c : Fin 32) (t : ETy) (rnd : Rnd) (sat : Bool) (mask : MRegNo) (v : Nat) (evs : Evs),
    isFI t = true → s.me.dynRst rnd = false → VecReady s.me [a] [t] → Whole s.me →
    treeReduce (addIn (redTy t) (s.me.rnd rnd) sat) (s.me.leaves t a mask) (s.me.redIn t c) ((s.me.vl + 15) / 16) = (v, evs) →
    evUnion evs &&& s.me.ten = 0#7 →
    ∃ u, exec (.vreds d a c t rnd sat mask) s = .next u ∧ (isF t = true → u.me.getF d = BitVec.ofNat 64 v) ∧
      (isF t = false → d ≠ 0 → u.me.getX d = BitVec.ofNat 64 v) ∧ RedFrame s.me u.me t d (evUnion evs) ∧ sameModule s u ∧
      (isF t = false → sat = false → d ≠ 0 → u.me.getX d = s.me.getX c + BitVec.ofInt 64
        ((((List.range s.me.vl).filter (s.me.mbit mask)).map (fun i => intVal t (s.me.code t a i))).sum))) ∧
  (∀ (s : State) (d : Fin 32) (a : VRegNo) (c : Fin 32) (t : ETy) (isMax : Bool) (mask : MRegNo) (v : Nat) (evs : Evs),
    isFI t = true → VecReady s.me [a] [t] → Whole s.me →
    (treeReduce (minVal isMax (redTy t)) (s.me.leaves t a mask) (s.me.redIn t c) ((s.me.vl + 15) / 16)).1 = v →
    s.me.nanEvs t a mask (s.me.redIn t c) 0 s.me.vl = evs →
    evUnion evs &&& s.me.ten = 0#7 →
    ∃ u, exec (.vredm d a c t isMax mask) s = .next u ∧ (isF t = true → u.me.getF d = BitVec.ofNat 64 v) ∧
      (isF t = false → d ≠ 0 → u.me.getX d = BitVec.ofNat 64 v) ∧ RedFrame s.me u.me t d (evUnion evs) ∧ sameModule s u)

namespace Sys2Proof.Claims

/-- R231: the running value of a scan at element `k`: the groups before its own, then its own group's tree over the active
elements up to it. -/
def treeScan (op : Nat → Nat → Nat × Ev) (leaves : Nat → List Leaf) (init k : Nat) : Nat :=
  let acc := (treeReduce op leaves init (k / 16)).1
  match (tree16 op none ((leaves (k / 16)).zipIdx.map (fun p => if 16 * (k / 16) + p.2 ≤ k then p.1 else none))).1 with
  | some (v, _) => (op acc v).1
  | none => acc

end Sys2Proof.Claims

/-- R231: each element of VSCAN is the running value up to it, delivered in the element's type, or its old value where it
is inactive under .keep. For an integer type without .sat that is the sum, modulo its width, of the initial operand and
the active elements up to it, and no event is raised. -/
def Sys2Proof.Claims.VectorScan : Prop :=
  (∀ (s : State) (d a : VRegNo) (c : Fin 32) (m : VMod), isFI m.ty = true → s.me.dynRst m.rnd = false → s.me.ten = 0#7 →
    VecReady s.me [d, a] [m.ty] → Whole s.me → s.me.vl ≠ 0 →
    ∃ u e, exec (.vscan d a c m) s = .next u ∧
      (∀ k, k < s.me.vl → u.me.code m.ty d k =
        (if m.keep && !s.me.mbit m.mask k then s.me.code m.ty d k
        else
          let y := treeScan (addIn (redTy m.ty) (s.me.rnd m.rnd) m.sat) (s.me.leaves m.ty a m.mask) (s.me.redIn m.ty c) k
          (if isF m.ty then (deliver m.ty (decodeVal m.ty y, 0#7) (s.me.rnd m.rnd) m.sat 0).1
            else (deliverInt m.ty (intVal (redTy m.ty) y) m.sat).1) % 2 ^ sbits m.ty)) ∧
      (∀ r, r ≠ d → u.me.getV r = s.me.getV r) ∧ VecFrame s.me u.me e 0 ∧ sameModule s u) ∧
  (∀ (s : State) (d a : VRegNo) (c : Fin 32) (m : VMod), isI m.ty = true → m.sat = false → m.rnd = .rne →
    VecReady s.me [d, a] [m.ty] → Whole s.me → s.me.vl ≠ 0 →
    ∃ u, exec (.vscan d a c m) s = .next u ∧
      (∀ k, k < s.me.vl → u.me.code m.ty d k =
        (if m.keep && !s.me.mbit m.mask k then s.me.code m.ty d k
        else intCode (sbits m.ty) ((s.me.getX c).toInt +
          (((List.range (k + 1)).filter (s.me.mbit m.mask)).map (fun i => intVal m.ty (s.me.code m.ty a i))).sum))) ∧
      (∀ r, r ≠ d → u.me.getV r = s.me.getV r) ∧ VecFrame s.me u.me 0#7 0 ∧ sameModule s u)

/-- Reductions by the canonical tree, and scans. The parts are stated above, each with its rules. -/
def Obligations.ReductionsAndScans : Prop :=
  Claims.VectorReductions ∧ Claims.VectorScan

/-! ### Masks and predicates (R239 to R251) -/

namespace Sys2Proof.Claims

/-- The bits that a mask instruction gives its destination (R240). -/
def maskOf (st : Strand) : Instr → Option (MRegNo × (Nat → Bool))
  | .mand d a b => some (d, fun i => st.mbit a i && st.mbit b i)
  | .mor d a b => some (d, fun i => st.mbit a i || st.mbit b i)
  | .mxor d a b => some (d, fun i => xor (st.mbit a i) (st.mbit b i))
  | .mnot d a => some (d, fun i => !st.mbit a i)
  | .msetx d a b => if 64 * (st.getX b).toNat < st.vl then some (d, fun i =>
      if i / 64 = (st.getX b).toNat then (st.getX a).getLsbD (i % 64) else st.mbit d i) else none
  | _ => none

/-- A completed write of a mask register (R239): bits below VL as given, bits at and above VL clear, HWM set, no other mask
register changed; a write to m0 is discarded. -/
structure MaskWrote (a b : Strand) (d : MRegNo) (f : Nat → Bool) : Prop where
  bits : d ≠ 0 → ∀ i, b.m[d].bits.getLsbD i = (decide (i < a.vl) && f i)
  hw : d ≠ 0 → b.m[d].hw = (a.vl + 511) / 512
  zero : d = 0 → b.m = a.m
  others : ∀ r : MRegNo, r ≠ d → b.m[r] = a.m[r]

/-- A completed write of a predicate register (R242): codes below VL as given, zero above, HWP and the provenance set, no
other predicate register changed; a write to p0 is discarded. -/
structure PredWrote (a b : Strand) (d : PRegNo) (prov : BitVec 16) (f : Nat → Nat) : Prop where
  codes : d ≠ 0 → ∀ i, i < a.vl → elem 16 b.p[d].bits.toNat i = f i % 65536
  tail : d ≠ 0 → ∀ i, a.vl ≤ i → elem 16 b.p[d].bits.toNat i = 0
  prov : d ≠ 0 → b.p[d].prov = prov
  hw : d ≠ 0 → b.p[d].hw = (2 * a.vl + 63) / 64
  zero : d = 0 → b.p = a.p
  others : ∀ r : PRegNo, r ≠ d → b.p[r] = a.p[r]

end Sys2Proof.Claims

/-- R239, R240: MAND, MOR, MXOR, MNOT and MSETX write the bits below VL and clear the rest; with VL = 0 they write nothing, nor does MSETX of 64 bits at or above VL.
MPOPC counts the set bits below VL, MFIRST gives the index of the first or all ones, MMOVX 64 bits from bit 64·x[b]. None
of them changes another register. -/
def Sys2Proof.Claims.MaskResults : Prop :=
  (∀ (s : State) (i : Instr) (d : MRegNo) (f : Nat → Bool), maskOf s.me i = some (d, f) → s.me.vl ≤ 32768 →
    ∃ u, exec i s = .next u ∧ (s.me.vl ≠ 0 → MaskWrote s.me u.me d f) ∧ (s.me.vl = 0 → u.me.m = s.me.m) ∧
      u.me.pc = s.me.pc + 8#64 ∧ sameRegisters { s.me with m := u.me.m } u.me ∧ sameModule s u) ∧
  (∀ (s : State) (d : MRegNo) (a b : XReg), s.me.vl ≤ 64 * (s.me.getX b).toNat →
    ∃ u, exec (.msetx d a b) s = .next u ∧ u.me.m = s.me.m ∧ u.me.pc = s.me.pc + 8#64 ∧ sameRegisters s.me u.me ∧
      sameModule s u) ∧
  (∀ (s : State) (d : XReg) (a : MRegNo),
    WritesX (.mpopc d a) s d (BitVec.ofNat 64 (((List.range s.me.vl).filter (s.me.mbit a)).length)) ∧
    (∀ k, k < s.me.vl → s.me.mbit a k = true → (∀ j, j < k → s.me.mbit a j = false) →
      WritesX (.mfirst d a) s d (BitVec.ofNat 64 k)) ∧
    ((∀ j, j < s.me.vl → s.me.mbit a j = false) → WritesX (.mfirst d a) s d (BitVec.allOnes 64))) ∧
  (∀ (s : State) (d : XReg) (a : MRegNo) (b : XReg), ∃ v, WritesX (.mmovx d a b) s d v ∧
    ∀ j, j < 64 → v.getLsbD j =
      (decide (64 * (s.me.getX b).toNat + j < s.me.vl) && s.me.mbit a (64 * (s.me.getX b).toNat + j)))

/-- R241: MPUSH pushes the bits below VL with their count, and MPOP after it gives them back: with room among the held
entries and the same VL, mask register d then reads below VL as mask register a did. -/
def Sys2Proof.Claims.MaskStack : Prop :=
  ∀ (s : State) (a d : MRegNo), s.me.mbase + s.me.mdepth + ownHandler s.me < 1024 → s.me.mstack.length < 8 → s.me.vl ≤ 32768 →
    (s.me.mstack = [] → s.me.mdepth = 0) →
    ∃ t u, exec (.mpush a) s = .next t ∧ t.me.mdepth = s.me.mdepth + 1 ∧ t.me.mstack.tail = s.me.mstack ∧
      t.me.m = s.me.m ∧ t.me.pc = s.me.pc + 8#64 ∧ sameModule s t ∧
      exec (.mpop d) t = .next u ∧ u.me.mdepth = s.me.mdepth ∧ u.me.mstack = s.me.mstack ∧
      (s.me.vl ≠ 0 → MaskWrote s.me u.me d (s.me.mbit a)) ∧ (s.me.vl = 0 → u.me.m = s.me.m) ∧ sameModule s u

/-- R241, R396: a push at depth 1,024 and a pop at depth 0 are class 0x07, DETAIL 2 and 3, with nothing changed before. -/
def Sys2Proof.Claims.StackLimits : Prop :=
  ∀ (s : State) (a : MRegNo) (off : BitVec 36),
    (1024 ≤ s.me.mbase + s.me.mdepth + ownHandler s.me →
      exec (.mpush a) s = .next (s.takeFault (s.me.flt 0x07 2 (s.me.mbase + s.me.mdepth) 0) s.me.pc 0)) ∧
    (s.me.mdepth = 0 → exec (.mpop a) s = .next (s.takeFault (s.me.flt 0x07 3 0 0) s.me.pc 0)) ∧
    (4096 ≤ s.me.rbase + s.me.rdepth + ownHandler s.me →
      exec (.jal off) s = .next (s.takeFault (s.me.flt 0x07 0 (s.me.rbase + s.me.rdepth) 0) s.me.pc 0)) ∧
    (s.me.rdepth = 0 → exec .ret s = .next (s.takeFault (s.me.flt 0x07 1 0 0) s.me.pc 0))

/-- The mask instructions, the mask stack and its limits. The parts are stated above, each with its rules. -/
def Obligations.Masks : Prop :=
  Claims.MaskResults ∧ Claims.MaskStack ∧ Claims.StackLimits

namespace Sys2Proof.Claims

/-- An element-wise instruction with a mask destination: destination, registers and types, mask, .keep, the bit and events
of an element, and how many draws it makes (R229, R248). -/
def maskElem (st : Strand) : Instr →
    Option (MRegNo × List VRegNo × List ETy × MRegNo × Bool × (Nat → Bool × Ev) × Nat)
  | .vcmp d rel a b ty mask keep => some (d, [a, b], [ty], mask, keep,
      fun i => relCodes ty rel (st.code ty a i) (st.code ty b i), 0)
  | .pcoll d a mask keep => some (d, [], [], mask, keep,
      fun i => (decide (uniformBelow 65535 st.rngKey.toNat (st.rngCtr.toNat + i) < st.pcode a i), 0#7), st.vl)
  | .phard d a b mask keep => some (d, [], [], mask, keep,
      fun i => (decide (min (st.getX b).toNat 65536 ≤ st.pcode a i), 0#7), 0)
  | _ => none

/-- An element-wise instruction with a predicate destination: destination, registers and types, mask, .keep, rounding, the
provenance it gives, and the code and events of an element (R245, R246, R250). -/
def predElem (st : Strand) : Instr →
    Option (PRegNo × List VRegNo × List ETy × MRegNo × Bool × Rnd × BitVec 16 × (Nat → Nat × Ev))
  | .pcmp d rel a b tag ty mask keep => some (d, [a, b], [ty], mask, keep, .rne, BitVec.ofNat 16 (2 ^ tag.toNat),
      fun i => (pcmpCode rel st.tauVal (decodeVal ty (st.code ty a i)) (decodeVal ty (st.code ty b i)),
        relEv rel (decodeVal ty (st.code ty a i)) (decodeVal ty (st.code ty b i))))
  | .pand d a b mode rnd mask keep => some (d, [], [], mask, keep, rnd, st.prov a ||| st.prov b,
      fun i => (pandCode mode.val (st.rnd rnd) (st.draw i 0) (st.pcode a i) (st.pcode b i), 0#7))
  | .por d a b mode rnd mask keep => some (d, [], [], mask, keep, rnd, st.prov a ||| st.prov b,
      fun i => (porCode mode.val (st.rnd rnd) (st.draw i 0) (st.pcode a i) (st.pcode b i), 0#7))
  | .pnot d a mask keep => some (d, [], [], mask, keep, .rne, st.prov a, fun i => (65535 - st.pcode a i, 0#7))
  | .pmv d a mask keep => some (d, [], [], mask, keep, .rne, st.prov a, fun i => (st.pcode a i, 0#7))
  | .pseed d a tag ty rnd mask keep => some (d, [a], [ty], mask, keep, rnd, BitVec.ofNat 16 (2 ^ tag.toNat),
      fun i => if ty = .fr16 then (st.code ty a i, 0#7)
        else roundTo .fr16 (.val (decodeVal ty (st.code ty a i))) (st.rnd rnd) false (st.draw i 0))
  | _ => none

/-- Does an instruction read the temperature (R243, R245). -/
def readsTau : Instr → Bool
  | .pcmp .. => true
  | _ => false

/-- The event D that PAND and POR in product mode raise over operands that share provenance (R246, R443). -/
def clashOf (st : Strand) : Instr → Bool
  | .pand _ a b mode _ mask _ | .por _ a b mode _ mask _ =>
    mode == 0 && decide (st.prov a &&& st.prov b ≠ 0#16) && st.anyActive mask
  | _ => false

end Sys2Proof.Claims

/-- R229, R248: VCMP, PCOLL and PHARD write a mask register; PCOLL advances RNGCTR by VL, the others by nothing. -/
def Sys2Proof.Claims.MaskElements : Prop :=
  ∀ (s : State) (i : Instr) (d : MRegNo) (rs : List VRegNo) (ts : List ETy) (m : MRegNo) (keep : Bool)
      (f : Nat → Bool × Ev) (n : Nat), i.wf = true → maskElem s.me i = some (d, rs, ts, m, keep, f, n) →
    VecReady s.me rs ts → Whole s.me → s.me.vl ≠ 0 → s.me.vl ≤ 32768 →
    vecEvents s.me m (fun k => (0, (f k).2)) &&& s.me.ten = 0#7 →
    ∃ u, exec i s = .next u ∧
      MaskWrote s.me u.me d (fun k => if s.me.mbit m k then (f k).1 else keep && s.me.mbit d k) ∧
      VecFrame s.me u.me (vecEvents s.me m (fun k => (0, (f k).2))) n ∧ u.me.v = s.me.v ∧ u.me.p = s.me.p ∧
      sameModule s u

/-- R242, R245, R246, R250: PCMP (with a temperature that is +0 or positive and finite), PAND, POR, PNOT, PMV and PSEED
write a predicate register's codes and its provenance, joined with the old one under .keep; PAND and POR in product mode
raise D where their operands share provenance and an element is active. -/
def Sys2Proof.Claims.PredicateElements : Prop :=
  ∀ (s : State) (i : Instr) (d : PRegNo) (rs : List VRegNo) (ts : List ETy) (m : MRegNo) (keep : Bool) (r : Rnd)
      (prov : BitVec 16) (f : Nat → Nat × Ev), i.wf = true → predElem s.me i = some (d, rs, ts, m, keep, r, prov, f) →
    VecReady s.me rs ts → Whole s.me → s.me.vl ≠ 0 → s.me.vl ≤ 32768 →
    (readsTau i = true → s.me.tauOk = true) →
    (clashOf s.me i = true → s.me.pstrict = false) →
    (vecEvents s.me m f ||| (if clashOf s.me i then evD else 0#7)) &&& s.me.ten = 0#7 →
    ∃ u, exec i s = .next u ∧
      PredWrote s.me u.me d (if keep then prov ||| s.me.prov d else prov)
        (fun k => if s.me.mbit m k then (f k).1 else if keep then s.me.pcode d k else 0) ∧
      VecFrame s.me u.me (vecEvents s.me m f ||| (if clashOf s.me i then evD else 0#7))
        (if s.me.rnd r = .rst then s.me.vl else 0) ∧ u.me.v = s.me.v ∧ u.me.m = s.me.m ∧ sameModule s u

/-- Comparisons into masks, predicate elements, hardening and collapse. The parts are stated above, each with its rules. -/
def Obligations.Predicates : Prop :=
  Claims.MaskElements ∧ Claims.PredicateElements

/-- R242, R250: PPROV writes or reads a provenance, and changes nothing else; p0's is 0 and a write to it is discarded. -/
def Sys2Proof.Claims.Provenance : Prop :=
  ∀ (s : State) (x : XReg) (p : PRegNo),
    WritesX (.pprov false x p) s x ((if p = 0 then 0#16 else s.me.p[p].prov).setWidth 64) ∧
    ∃ u, exec (.pprov true x p) s = .next u ∧ u.me.prov p = (if p = 0 then 0#16 else (s.me.getX x).setWidth 16) ∧
      (∀ q : PRegNo, u.me.p[q].bits = s.me.p[q].bits ∧ (q ≠ p → u.me.p[q] = s.me.p[q])) ∧
      u.me.pc = s.me.pc + 8#64 ∧ sameRegisters { s.me with p := u.me.p } u.me ∧ sameModule s u

/-- R249: PGRAD delivers, for each active element, its kind's exact value rounded once; with a temperature that R243 does
not allow it takes class 0x88. (Log entry 29: the sign of a zero gradient is the model's choice.) -/
def Sys2Proof.Claims.PredicateGradients : Prop :=
  ∀ (s : State) (d a : VRegNo) (b c : Fin 32) (kind : Fin 4) (m : VMod) (f : Nat → Nat × Ev),
    isF m.ty = true → VecReady s.me (if kind = 1 then [d, a, b, c] else [d, a]) [m.ty] → Whole s.me → s.me.vl ≠ 0 →
    (∀ k, f k = deliver m.ty (gradOf kind.val s.me.tauVal (decodeVal m.ty (s.me.code m.ty a k))
      (decodeVal m.ty (s.me.code m.ty b k)) (decodeVal m.ty (s.me.code m.ty c k)) (s.me.pcode (Fin.ofNat 8 c.val) k))
      (s.me.rnd m.rnd) m.sat (s.me.draw k 0)) →
    (s.me.tauOk = true → vecEvents s.me m.mask f &&& s.me.ten = 0#7 → ∃ u, exec (.pgrad d a b c kind m) s = .next u ∧
      VecWrote s.me u.me d m.ty (s.me.mbit m.mask) m.keep (fun k => (f k).1) ∧
      VecFrame s.me u.me (vecEvents s.me m.mask f) (if s.me.rnd m.rnd = .rst then s.me.vl else 0) ∧ sameModule s u) ∧
    (s.me.tauOk = false →
      exec (.pgrad d a b c kind m) s = .next (s.takeFault (s.me.flt 0x88 0 s.me.tau.toNat 0) s.me.pc 0))

/-- Provenance reads and writes, and predicate gradients with their temperature fault. The parts are stated above, each with
its rules. -/
def Obligations.ProvenanceAndGradients : Prop :=
  Claims.Provenance ∧ Claims.PredicateGradients

/-! ### Algebras (R142 to R154, R252 to R256) -/

namespace Sys2Proof.Claims

/-- A product instruction works tuple by tuple (R147 to R151, R255): each active tuple is alg_tuple of its operands from
zeros, or, accumulating, from the destination's old tuple; the components behind the last whole tuple are +0, no other
register changes; an empty slot is class 0x83 DETAIL 7. -/
def AlgProduct (i : Instr) (acc : Bool) (s : State) (d a b : VRegNo) (c : AlgNo) (m : VMod) (cjg opp : Bool) : Prop :=
  (∀ (tb : AlgTable) (g : Nat → List (Nat × Ev)), s.me.alg[c] = some tb → 0 < tb.dim → Whole s.me → s.me.vl ≠ 0 →
    s.me.ten = 0#7 →
    (∀ j, g j = algTuple tb cjg opp m.ty (s.me.rnd m.rnd) m.sat (fun k i => s.me.draw (j * tb.dim + k) i)
      ((List.range tb.dim).map (fun k => if acc then s.me.code m.ty d (j * tb.dim + k) else 0))
      (fun i => s.me.code m.ty a (j * tb.dim + i)) (fun i => s.me.code m.ty b (j * tb.dim + i))) →
    ∃ u e, exec i s = .next u ∧
      (∀ j k, k < tb.dim → j < s.me.vl / tb.dim → u.me.code m.ty d (j * tb.dim + k) =
        (if s.me.mbit m.mask j then ((g j).getD k (0, 0#7)).1 % 2 ^ sbits m.ty
        else if m.keep then s.me.code m.ty d (j * tb.dim + k) else 0)) ∧
      (∀ i, s.me.vl / tb.dim * tb.dim ≤ i → u.me.code m.ty d i = 0) ∧
      (∀ r, r ≠ d → u.me.getV r = s.me.getV r) ∧
      VecFrame s.me u.me e (if s.me.rnd m.rnd = .rst then s.me.vl else 0) ∧ sameModule s u) ∧
  (s.me.alg[c] = none → exec i s =
    .next (s.takeFault (s.me.flt 0x83 7 0 c.val) s.me.pc 0))

end Sys2Proof.Claims

/-- R147 to R151, R255: AMUL and AMAC over a loaded table work tuple by tuple; the components behind the last
whole tuple are +0. An empty slot is class 0x83 DETAIL 7. -/
def Sys2Proof.Claims.AlgebraProducts : Prop :=
  ∀ (s : State) (d a b : VRegNo) (c : AlgNo) (m : VMod) (cjg opp : Bool),
    isF m.ty = true → VecReady s.me [d, a, b] [m.ty] →
    AlgProduct (.amul d a b c m cjg opp) false s d a b c m cjg opp ∧
    AlgProduct (.amac d a b c m cjg opp) true s d a b c m cjg opp

/-- R254, R256: ATINFO reads a slot's dimension, entry count, conjugation bits and identity, or 0 and −1 of an empty slot;
ACONJ inverts the sign bits of the selected components of each active tuple, bit for bit, and raises nothing; the
components behind the last whole tuple are +0 (R255), and an empty slot is class 0x83 DETAIL 7 (R440). -/
def Sys2Proof.Claims.AlgebraConjugate : Prop :=
  (∀ (s : State) (d : XReg) (a : AlgNo) (tb : AlgTable), s.me.alg[a] = some tb →
    WritesX (.atinfo d a 0) s d (BitVec.ofNat 64 tb.dim) ∧ WritesX (.atinfo d a 1) s d (BitVec.ofNat 64 tb.ents.length) ∧
    WritesX (.atinfo d a 2) s d (tb.conj.setWidth 64) ∧ WritesX (.atinfo d a 3) s d (tb.atid.setWidth 64)) ∧
  (∀ (s : State) (d : XReg) (a : AlgNo), s.me.alg[a] = none →
    WritesX (.atinfo d a 0) s d 0#64 ∧ WritesX (.atinfo d a 1) s d (BitVec.allOnes 64) ∧
    WritesX (.atinfo d a 2) s d 0#64 ∧ WritesX (.atinfo d a 3) s d 0#64) ∧
  (∀ (s : State) (d a : VRegNo) (c : AlgNo) (t : ETy) (mask : MRegNo) (keep : Bool) (tb : AlgTable),
    isF t = true → s.me.alg[c] = some tb → 0 < tb.dim → VecReady s.me [d, a] [t] → Whole s.me → s.me.vl ≠ 0 →
    ∃ u, exec (.aconj d a c t mask keep) s = .next u ∧
      (∀ j k, k < tb.dim → j < s.me.vl / tb.dim → u.me.code t d (j * tb.dim + k) =
        (if s.me.mbit mask j then
          (if tb.conj.getLsbD k then s.me.code t a (j * tb.dim + k) ^^^ 2 ^ (sbits t - 1)
            else s.me.code t a (j * tb.dim + k))
        else if keep then s.me.code t d (j * tb.dim + k) else 0)) ∧
      (∀ i, s.me.vl / tb.dim * tb.dim ≤ i → u.me.code t d i = 0) ∧
      (∀ r, r ≠ d → u.me.getV r = s.me.getV r) ∧ VecFrame s.me u.me 0#7 0 ∧ sameModule s u) ∧
  (∀ (s : State) (d a : VRegNo) (c : AlgNo) (t : ETy) (mask : MRegNo) (keep : Bool),
    isF t = true → s.me.alg[c] = none → VecReady s.me [d, a] [t] →
    exec (.aconj d a c t mask keep) s = .next (s.takeFault (s.me.flt 0x83 7 0 c.val) s.me.pc 0))

/-- R253, R144: ATLD of a well-formed table at a 64-byte aligned address, of a slot that no queued instruction reads, loads it
compacted: entries with a zero constant are dropped, the others keep their order; no other slot and no register changes. -/
def Sys2Proof.Claims.AlgebraLoad : Prop :=
  ∀ (s s1 s2 : State) (d : AlgNo) (b : BRegNo) (off : BitVec 9) (h es : List Byte) (ents : List AlgEntry),
    s.me.eb b (64 * off.toInt) % 64 = 0 → s.loadE b useLD (s.me.eb b (64 * off.toInt)) 64 0 = .ok (h, s1) →
    firstFlt (s.me.headChk h (addr64 (s.me.eb b (64 * off.toInt)))) = none →
    s1.loadE b useLD (s.me.eb b (64 * off.toInt) + 64) (8 * field h 6 2) 0 = .ok (es, s2) →
    s.me.entries (field h 4 1) (addr64 (s.me.eb b (64 * off.toInt))) es (field h 6 2) 0 0 = .ok ents →
    s.me.mqueue.any (fun q => algOfInstr q.instr == some d) = false →
    ∃ u, exec (.atld d b off) s = .next u ∧
      u.me.alg[d] = some ⟨field h 4 1, BitVec.ofNat 16 (field h 8 2), BitVec.ofNat 32 (field h 12 4), ents⟩ ∧
      (∀ e ∈ ents, constZero e.c.toNat = false ∧ constBad e.c.toNat = false ∧ e.k < field h 4 1 ∧ e.p < field h 4 1 ∧
        e.q < field h 4 1) ∧ ents.length ≤ 1024 ∧
      (∀ q : AlgNo, q ≠ d → u.me.alg[q] = s2.me.alg[q]) ∧ u.me.pc = s2.me.pc + 8#64 ∧
      sameRegisters { s2.me with alg := u.me.alg } u.me ∧ sameModule s2 u

/-- Algebra products, conjugation, table items, and loading a table. The parts are stated above, each with its rules. -/
def Obligations.Algebra : Prop :=
  Claims.AlgebraProducts ∧ Claims.AlgebraConjugate ∧ Claims.AlgebraLoad

/-! ### Vector memory and atomics (R233 to R238, R288 to R294) -/

namespace Sys2Proof.Claims

/-- The accesses of an instruction, each with its element's index, its address and its length. -/
abbrev Accs := List (Nat × Int × Nat)

/-- The accesses are admitted and give these bytes, whatever memory holds by then: every page is translated and marked
already, or they lie in a scratchpad. -/
def Steady (s : State) (b : BRegNo) (use : Nat) (as : Accs) (bs : Nat → List Byt) : Prop :=
  ∀ u : State, u = { s with
      me := u.me, mem := u.mem, dirtyArmed := u.dirtyArmed, coh := u.coh, image := u.image, strands := u.strands } →
    ∀ a ∈ as, access u s.who (s.me.getB b) b.val use a.2.1 a.2.2 a.1 = .ok (bs a.1, u)

/-- No transfer of the strand covers bytes: what it still has in the interlock table is a window set's entry. -/
def noneOut (s : State) : Prop := ∀ e ∈ (s.core s.me.core).entries, e.sid = s.me.id → e.free = true

/-- No transfer of the strand is out and no byte is uncorrectable. -/
structure Calm (s : State) : Prop where
  entries : noneOut s
  out : s.transfersOut = false
  read : s.bad = []

/-- Every byte of memory but those of some accesses, and LDIRTY (R373), is as it was. -/
def memBut (s t : State) (as : Accs) (bs : Nat → List Byt) : Prop :=
  ∀ x, (∀ a ∈ as, x ∉ (bs a.1).map (·.loc)) → (∀ b n, s.ckArea = some (b, n) → x ≠ b + 5) →
    Memory.get t.mem x = Memory.get s.mem x

/-- The number that an access's bytes hold. -/
def heldAt (s : State) (bs : List Byt) : Nat := ofLE (s.bytes (bs.map (·.loc)))

/-- No byte of `bs` is LDIRTY's. -/
def notDirty (s : State) (bs : List Byt) : Prop := ∀ b n, s.ckArea = some (b, n) → b + 5 ∉ bs.map (·.loc)

/-- The element form of a vector load or store: its modifiers, whether it stores, the registers and types it uses, and the
address of an element (R233). -/
def vmemOf (st : Strand) : Instr → Option (WM × Bool × List VRegNo × List ETy × (Nat → Int))
  | .vld m => some (m, false, [m.data], [m.ty], unit m)
  | .vst m => some (m, true, [m.data], [m.ty], unit m)
  | .vlds m => some (m, false, [m.data], [m.ty], strided m)
  | .vsts m => some (m, true, [m.data], [m.ty], strided m)
  | .vldx m => some (m, false, [m.data, m.idx], [m.ty, .i32], indexed m)
  | .vstx m => some (m, true, [m.data, m.idx], [m.ty, .i32], indexed m)
  | .vldt m => some (m, false, [m.data], [m.ty], tiled m)
  | .vstt m => some (m, true, [m.data], [m.ty], tiled m)
  | _ => none
where
  base (m : WM) : Int := ((st.getB m.bnd).addr.toNat : Int) + m.off.toInt
  step (m : WM) : Int := (st.getX m.idx).toInt * 2 ^ m.scale.toNat
  unit (m : WM) (i : Nat) : Int := base m + step m + (i * sbits m.ty / 8 : Nat)
  strided (m : WM) (i : Nat) : Int := base m + i * step m
  indexed (m : WM) (i : Nat) : Int := base m + signedOf 32 (st.code .i32 m.idx i) * 2 ^ m.scale.toNat
  tiled (m : WM) (i : Nat) : Int :=
    base m + (i / (64 / sbytes m.ty) : Nat) * step m + (i % (64 / sbytes m.ty) * sbytes m.ty : Nat)

/-- All accesses of such a form: the elements, then, of a block type, the scale bytes behind them (R458). -/
def vmemAccs (st : Strand) (t : ETy) (ad : Nat → Int) : Accs :=
  (List.range st.vl).map (fun i => (i, ad i, max 1 (sbytes t))) ++
    (if isBlock t then (List.range (st.vl / st.blk)).map (fun j => (st.vl + j, ad st.vl + (j : Nat), 1)) else [])

end Sys2Proof.Claims

/-- R233, R458: a vector load whose accesses are all admitted puts element i's code into d[i] and the scale bytes behind
them, clears the tail, and changes no other register and no memory. It says so for VLD, VLDS, VLDX and VLDT. -/
def Sys2Proof.Claims.VectorLoads : Prop :=
  ∀ (s : State) (i : Instr) (m : WM) (rs : List VRegNo) (ts : List ETy) (ad : Nat → Int) (bs : Nat → List Byt),
    i.wf = true → vmemOf s.me i = some (m, false, rs, ts, ad) → VecReady s.me rs ts → Whole s.me → Calm s →
    Steady s m.bnd useLD (vmemAccs s.me m.ty ad) bs → s.me.vl ≠ 0 →
    ∃ u, exec i s = .next u ∧
      (∀ k, k < s.me.vl →
        u.me.code m.ty m.data k = (heldAt s (bs k) >>> (k * sbits m.ty % 8)) % 2 ^ sbits m.ty) ∧
      (isBlock m.ty = true → ∀ j, j < s.me.vl / s.me.blk → u.me.scale m.ty m.data j = heldAt s (bs (s.me.vl + j))) ∧
      (∀ k, bytesOf m.ty s.me.blk s.me.vl ≤ k → elem 8 (u.me.getV m.data).nat k = 0) ∧
      (u.me.getV m.data).hw = ceilDiv (bytesOf m.ty s.me.blk s.me.vl) 64 ∧
      (∀ r, r ≠ m.data → u.me.getV r = s.me.getV r) ∧ u.me.m = s.me.m ∧ u.me.p = s.me.p ∧
      VecFrame { s.me with stream := u.me.stream } u.me 0#7 0 ∧ sameModule s u

/-- R233, R101, R458: a vector store whose accesses are all admitted writes element i at its address, where no other element
of it lies over it, and the scale bytes behind them; every other byte of memory and every register is as it was. It says so
for VST, VSTS, VSTX and VSTT. -/
def Sys2Proof.Claims.VectorStores : Prop :=
  ∀ (s : State) (i : Instr) (m : WM) (rs : List VRegNo) (ts : List ETy) (ad : Nat → Int) (bs : Nat → List Byt),
    i.wf = true → vmemOf s.me i = some (m, true, rs, ts, ad) → VecReady s.me rs ts → Whole s.me → Calm s →
    Steady s m.bnd useST (vmemAccs s.me m.ty ad) bs → s.me.vl ≠ 0 →
    ∃ u, exec i s = .next u ∧ memBut s u (vmemAccs s.me m.ty ad) bs ∧
      (∀ k, k < s.me.vl → ((bs k).map (·.loc)).Nodup → notDirty s (bs k) →
        (∀ a ∈ vmemAccs s.me m.ty ad, a.1 ≠ k → (∀ x ∈ (bs a.1).map (·.loc), x ∉ (bs k).map (·.loc)) ∨
          (a.1 < s.me.vl ∧ bs a.1 = bs k ∧ a.1 * sbits m.ty % 8 ≠ k * sbits m.ty % 8)) →
        (heldAt u (bs k) >>> (k * sbits m.ty % 8)) % 2 ^ sbits m.ty = s.me.code m.ty m.data k) ∧
      (isBlock m.ty = true → ∀ j, j < s.me.vl / s.me.blk → notDirty s (bs (s.me.vl + j)) →
        (∀ a ∈ vmemAccs s.me m.ty ad, a.1 ≠ s.me.vl + j →
          ∀ x ∈ (bs a.1).map (·.loc), x ∉ (bs (s.me.vl + j)).map (·.loc)) →
        heldAt u (bs (s.me.vl + j)) = s.me.scale m.ty m.data j) ∧
      u.me.v = s.me.v ∧ u.me.m = s.me.m ∧ u.me.p = s.me.p ∧
      VecFrame { s.me with resv := u.me.resv, stream := u.me.stream } u.me 0#7 0 ∧ sameOutside s u

/-- Vector loads and stores: elements, scale bytes, and nothing else. The parts are stated above, each with its rules. -/
def Obligations.VectorMemory : Prop :=
  Claims.VectorLoads ∧ Claims.VectorStores

/-- R236, R237: SLQ over an admitted range with no device page starts a stream of x[data] elements, one strip of VL elements
to a group. SLQTAKE takes the next strip into d: from its buffer where that is loaded and not stale, else from memory; VL
and x[a] become its length, x[b] the elements left; with no strip left it gives 0. -/
def Obligations.StripQueue : Prop :=
  (∀ (s t : State) (m : WM), VecReady s.me [] [m.ty] → s.me.vl ≠ 0 → s.me.bufGroups ≠ 0 → s.me.inMatrix = false →
    (releases m.ord = true → s.transfersOut = false) →
    admission s.who (s.me.getB m.bnd) m.bnd.val useLD [(s.me.eaM m, (s.me.getX m.data).toNat * sbytes m.ty)] = none →
    streamPages s (s.me.getB m.bnd) m.bnd (pieces2k (s.me.eaM m) ((s.me.getX m.data).toNat * sbytes m.ty)) =
      .ok (none, t) →
    ∃ u, exec (.slq m) s = .next u ∧ ((s.me.getX m.data).toNat = 0 → u.me.stream = none) ∧
      ((s.me.getX m.data).toNat ≠ 0 → ∃ q, u.me.stream = some q ∧ q.next = s.me.eaM m ∧
        q.remain = (s.me.getX m.data).toNat ∧ q.slen = s.me.vl ∧ q.ty = m.ty ∧ q.nextBuf = 0 ∧
        q.groups.length = s.me.bufGroups ∧ ∀ j g, q.groups[j]? = some g →
          g.src = s.me.eaM m + (j * s.me.vl * sbytes m.ty : Nat) ∧
          g.len = min s.me.vl ((s.me.getX m.data).toNat - j * s.me.vl) ∧
          (g.assigned = true ↔ j * s.me.vl < (s.me.getX m.data).toNat) ∧ g.loaded = false ∧ g.stale = false) ∧
      (∀ r : VRegNo, r.val < s.me.bufFirst ∨ s.me.bufFirst + s.me.bufGroups ≤ r.val → u.me.getV r = s.me.getV r) ∧
      u.mem = t.mem ∧ u.me.pc = s.me.pc + 8#64 ∧
      sameRegisters { s.me with v := u.me.v, stream := u.me.stream, resv := u.me.resv } u.me ∧ sameOutside s u) ∧
  (∀ (s : State) (d : VRegNo) (a b : XReg), d.val < s.me.vcount → rowFree s.me = true → s.me.stream = none →
    ∃ u, exec (.slqtake d a b) s = .next u ∧ u.me.getX a = 0#64 ∧ u.me.getX b = 0#64 ∧ u.me.vl = 0 ∧
      (∀ r, r ≠ a → r ≠ b → u.me.getX r = s.me.getX r) ∧ u.me.pc = s.me.pc + 8#64 ∧
      sameRegisters { s.me with x := u.me.x, vl := 0 } u.me ∧ sameModule s u) ∧
  (∀ (s t : State) (d : VRegNo) (a b : XReg) (q : Stream) (g : Group) (bs : List Byt) (vs : List Byte),
    d.val < s.me.vcount → rowFree s.me = true → noneOut s → s.me.stream = some q →
    q.groups[q.nextBuf]? = some g → s.stripBytes q g = .ok (bs, vs, t) → isByteTy q.ty = true →
    g.len * sbytes q.ty ≤ 8192 → vs.length = g.len * sbytes q.ty →
    ∃ u, exec (.slqtake d a b) s = .next u ∧ u.me.vl = g.len ∧
      (a ≠ 0 → a ≠ b → u.me.getX a = BitVec.ofNat 64 g.len) ∧
      (b ≠ 0 → u.me.getX b = BitVec.ofNat 64 (q.remain - g.len)) ∧
      (∀ r, r ≠ a → r ≠ b → u.me.getX r = s.me.getX r) ∧
      (∀ k, k < g.len → u.me.code q.ty d k =
        if g.loaded = true ∧ g.stale = false then s.me.code q.ty (Fin.ofNat 32 (s.me.bufFirst + q.nextBuf)) k
        else elem (sbits q.ty) (ofLE vs) k) ∧
      (∀ k, g.len ≤ k → u.me.code q.ty d k = 0) ∧ (∀ r, r ≠ d → u.me.getV r = s.me.getV r) ∧
      (u.me.stream = none ↔ q.remain ≤ g.len) ∧
      (∀ q', u.me.stream = some q' → q'.remain = q.remain - g.len ∧ q'.next = q.next + (q.stride : Nat) ∧
        q'.nextBuf = (q.nextBuf + 1) % q.groups.length) ∧
      u.me.pc = s.me.pc + 8#64 ∧
      sameRegisters { s.me with x := u.me.x, v := u.me.v, vl := u.me.vl, stream := u.me.stream } u.me ∧ sameModule s u)

namespace Sys2Proof.Claims

/-- E_i of R288. -/
def atomAt (st : Strand) (b : BRegNo) (k : VRegNo) (scale : BitVec 3) (i : Nat) : Int :=
  ((st.getB b).addr.toNat : Int) + signedOf 32 (st.code .i32 k i) * 2 ^ scale.toNat

/-- The accesses of a vector atomic: its active elements. -/
def atomAccs (st : Strand) (b : BRegNo) (k : VRegNo) (scale : BitVec 3) (mask : MRegNo) (n : Nat) : Accs :=
  ((List.range st.vl).filter (st.mbit mask)).map (fun i => (i, atomAt st b k scale i, n))

/-- VAMO and VCAS (R289, R290): what element `i` leaves in memory over an old value, with its events. -/
def atomOf (st : Strand) :
    Instr → Option (VRegNo × BRegNo × VRegNo × VRegNo × AMod × (Nat → Nat → Nat × Ev))
  | .vamo d b k c op m => some (d, b, k, c, m, fun i old => vamoFn op m.ty (st.rnd m.rnd) m.sat old (st.code m.ty c i))
  | .vcas d b k c m => some (d, b, k, c, m, fun i old =>
      (if old = st.code m.ty d i then st.code m.ty c i else old, 0#7))
  | _ => none

end Sys2Proof.Claims

/-- R288 to R290: VAMO and VCAS on active elements at distinct, aligned, admitted places: d[i] is the old value (zero where
inactive), each place receives its new value, events join FSTAT, and no other register and no other byte of memory changes.
R291: GCSLEEP completes when a watched word differs from what is expected or none is watched, and is blocked otherwise. -/
def Obligations.VectorAtomics : Prop :=
  (∀ (s : State) (i : Instr) (d : VRegNo) (b : BRegNo) (k c : VRegNo) (m : AMod) (f : Nat → Nat → Nat × Ev)
      (bs : Nat → List Byt), i.wf = true → atomOf s.me i = some (d, b, k, c, m, f) →
    VecReady s.me [d, k, c] [m.ty, .i32] → Whole s.me → Calm s → s.me.vl ≠ 0 → s.me.dynRst m.rnd = false →
    (∀ a ∈ atomAccs s.me b k m.scale m.mask (sbytes m.ty), a.2.1 % (sbytes m.ty : Int) = 0) →
    Steady s b useAT (atomAccs s.me b k m.scale m.mask (sbytes m.ty)) bs →
    ((atomAccs s.me b k m.scale m.mask (sbytes m.ty)).flatMap (fun a => (bs a.1).map (·.loc))).Nodup →
    (∀ a ∈ atomAccs s.me b k m.scale m.mask (sbytes m.ty), notDirty s (bs a.1)) →
    vecEvents s.me m.mask (fun j => f j (heldAt s (bs j))) &&& s.me.ten = 0#7 →
    ∃ u, exec i s = .next u ∧
      (∀ j, j < s.me.vl → u.me.code m.ty d j = if s.me.mbit m.mask j then heldAt s (bs j) % 2 ^ sbits m.ty else 0) ∧
      (∀ j, j < s.me.vl → s.me.mbit m.mask j = true →
        heldAt u (bs j) = (f j (heldAt s (bs j))).1 % 2 ^ sbits m.ty) ∧
      memBut s u (atomAccs s.me b k m.scale m.mask (sbytes m.ty)) bs ∧
      (∀ r, r ≠ d → u.me.getV r = s.me.getV r) ∧ u.me.m = s.me.m ∧ u.me.p = s.me.p ∧
      VecFrame { s.me with resv := u.me.resv, stream := u.me.stream } u.me
        (vecEvents s.me m.mask (fun j => f j (heldAt s (bs j)))) 0 ∧ sameOutside s u) ∧
  (∀ (s : State) (b : BRegNo) (k c : VRegNo) (ty : ETy) (mask : MRegNo) (scale : BitVec 3) (bs : Nat → List Byt),
    isAtomTy ty = true → VecReady s.me [k, c] [ty, .i32] → Calm s →
    (∀ a ∈ atomAccs s.me b k scale mask (sbytes ty), a.2.1 % (sbytes ty : Int) = 0) →
    Steady s b useLD (atomAccs s.me b k scale mask (sbytes ty)) bs →
    ((∃ j, j < s.me.vl ∧ s.me.mbit mask j = true ∧ heldAt s (bs j) ≠ s.me.code ty c j) ∨
      (∀ j, j < s.me.vl → s.me.mbit mask j = false) →
      ∃ u, exec (.gcsleep b k c ty mask scale) s = .next u ∧ u.me.pc = s.me.pc + 8#64 ∧ sameRegisters s.me u.me ∧
        sameModule s u) ∧
    ((∃ j, j < s.me.vl ∧ s.me.mbit mask j = true) →
      (∀ j, j < s.me.vl → s.me.mbit mask j = true → heldAt s (bs j) = s.me.code ty c j) →
      exec (.gcsleep b k c ty mask scale) s =
        .next (s.setMe { s.me with blocked := some (.gcsleep b k c ty mask scale) })))

namespace Sys2Proof.Claims

/-- One value added into a bin of a window (R293): the first is stored as it is, a later one is added. -/
def binStep (t : ETy) (rm : Rnd) (sat : Bool) (old : Option Nat) (v : Nat) : Option Nat :=
  match old with
  | none => some v
  | some o => some ((elemAdd t rm sat 0 o v).1 % 2 ^ sbits t)

/-- The bytes of a window set's storage in the strand's own scratch. -/
def inStorage (s : State) (q : Windows) (x : Nat) : Prop :=
  locOf s.me.core q.storage ≤ x ∧ x < locOf s.me.core q.storage + setBytes q.n q.w (sbytes q.ty)

/-- The active elements of an AACC that go to window `l`, bin `k`, in index order (R293). -/
def binElems (st : Strand) (q : Windows) (b : BRegNo) (k c : VRegNo) (m : AMod) (l j : Nat) : List Nat :=
  ((List.range st.vl).filter (fun i => st.mbit m.mask i && i % q.w == l &&
    decide (atomAt st b k m.scale i = (q.wbase + j * sbytes q.ty : Nat)))).map (st.code m.ty c)

end Sys2Proof.Claims

/-- R292 to R294: AWIN opens a set of windows in the strand's scratch, every bin empty; AACC adds each active element into
its bin of window i mod W, in index order; AMERGE adds every present bin into its element in window order, and closes the
set with its storage zero. No vector, mask or predicate register and nothing else in memory changes. The statement is about
traps disabled. -/
def Obligations.AccumulationWindows : Prop :=
  (∀ (s : State) (d : XReg) (b : BRegNo) (w : BitVec 6) (ty : ETy) (rnd : Rnd) (n : Nat), isWinTy ty = true →
    s.me.dynRst rnd = false →
    w.toNat ∈ [1, 2, 4, 8, 16] → 1 ≤ n →
    n = (min ((s.me.getB b).base.toNat + (s.me.getB b).len.toNat - (s.me.getB b).addr.toNat) 16384) / sbytes ty →
    storageOk (s.me.getX d).toNat (setBytes n w.toNat (sbytes ty)) = true →
    (s.me.getB b).addr.toNat % sbytes ty = 0 → s.me.windows = none → noneOut s →
    (s.core s.me.core).entries.length < 32 →
    ∃ u q, exec (.awin d b w ⟨ty, rnd, false⟩) s = .next u ∧ u.me.windows = some q ∧
      q = ⟨(s.me.getX d).toNat, (s.me.getB b).addr.toNat, n, w.toNat, ty⟩ ∧
      (∀ l k, l < q.w → k < q.n → q.value u l k = none) ∧
      (∀ x, ¬ inStorage s q x → Memory.get u.mem x = Memory.get s.mem x) ∧ u.me.pc = s.me.pc + 8#64 ∧ u.me.x = s.me.x ∧
      u.me.v = s.me.v ∧ u.me.fstat = s.me.fstat ∧
      sameRegisters { s.me with windows := some q, resv := u.me.resv, stream := u.me.stream } u.me) ∧
  (∀ (s : State) (q : Windows) (b : BRegNo) (k c : VRegNo) (m : AMod), isWinTy m.ty = true → s.me.windows = some q →
    q.ty = m.ty → 0 < q.w → storageOk q.storage (setBytes q.n q.w (sbytes q.ty)) = true → VecReady s.me [k, c] [m.ty, .i32] →
    Whole s.me → Calm s → s.me.ten = 0#7 → s.me.dynRst m.rnd = false → s.me.vl ≠ 0 →
    (∀ i, i < s.me.vl → s.me.mbit m.mask i = true → (q.wbase : Int) ≤ atomAt s.me b k m.scale i ∧
      atomAt s.me b k m.scale i < (q.wbase + q.n * sbytes q.ty : Nat) ∧
      (atomAt s.me b k m.scale i - q.wbase) % (sbytes q.ty : Int) = 0 ∧
      atomAt s.me b k m.scale i % (sbytes q.ty : Int) = 0 ∧
      (s.me.getB b).refuses useAT (atomAt s.me b k m.scale i) (sbytes q.ty) = none) →
    ∃ u, exec (.aacc b k c m) s = .next u ∧
      (∀ l j, l < q.w → j < q.n → q.value u l j =
        (binElems s.me q b k c m l j).foldl (binStep m.ty (s.me.rnd m.rnd) m.sat) (q.value s l j)) ∧
      (∀ x, ¬ inStorage s q x → Memory.get u.mem x = Memory.get s.mem x) ∧ u.me.v = s.me.v ∧ u.me.x = s.me.x ∧
      u.me.windows = some q ∧ u.me.m = s.me.m ∧ u.me.p = s.me.p ∧
      (∃ e, VecFrame { s.me with resv := u.me.resv, stream := u.me.stream } u.me e 0)) ∧
  (∀ (s : State) (q : Windows) (b : BRegNo) (c : XReg) (ty : ETy) (rnd : Rnd) (sat : Bool) (ord : MOrd) (sc : Scope)
      (bs : Nat → List Byt) (as : Accs), isWinTy ty = true → s.me.windows = some q → q.ty = ty →
    (s.me.getB b).addr.toNat = q.wbase → (s.me.getX c).toNat = q.storage →
    storageOk q.storage (setBytes q.n q.w (sbytes q.ty)) = true → Whole s.me → Calm s → s.me.ten = 0#7 →
    s.me.dynRst rnd = false →
    as = ((List.range q.n).filter (fun k => (List.range q.w).any (fun l => (q.value s l k).isSome))).map
      (fun k => (k, ((q.wbase + k * sbytes ty : Nat) : Int), sbytes ty)) →
    Steady s b useAT as bs → (as.flatMap (fun a => (bs a.1).map (·.loc))).Nodup →
    (∀ a ∈ as, notDirty s (bs a.1) ∧ ∀ x ∈ (bs a.1).map (·.loc), ¬ inStorage s q x) →
    ∃ u, exec (.amerge b c ty rnd sat ord sc) s = .next u ∧ u.me.windows = none ∧
      (∀ x, inStorage s q x → Memory.get u.mem x = 0#8) ∧
      (∀ a ∈ as, heldAt u (bs a.1) = ((List.range q.w).filterMap (fun l => q.value s l a.1)).foldl
        (fun v w => (elemAdd ty (s.me.rnd rnd) sat 0 v w).1) (heldAt s (bs a.1)) % 2 ^ sbits ty) ∧
      (∀ x, ¬ inStorage s q x → (∀ a ∈ as, x ∉ (bs a.1).map (·.loc)) →
        (∀ p n, s.ckArea = some (p, n) → x ≠ p + 5) → Memory.get u.mem x = Memory.get s.mem x) ∧
      u.me.v = s.me.v ∧ u.me.x = s.me.x ∧ u.me.m = s.me.m ∧ u.me.p = s.me.p ∧
      (∃ e, VecFrame { s.me with windows := none, resv := u.me.resv, stream := u.me.stream } u.me e 0))

/-! ### The matrix queue (R257 to R271) -/

namespace Sys2Proof.Claims

/-- An instruction that goes on at the next word, having put an entry into its strand's matrix queue: nothing else of the
strand changes but the types tracked at commit (R403) and RNGCTR. -/
structure Queued (s u : State) (i : Instr) (e : MEntry) : Prop where
  queue : u.me.mqueue = s.me.mqueue ++ [e]
  entry : e.instr = i ∧ e.iaddr = s.me.pc ∧ e.vl = s.me.vl ∧ e.fstat = s.me.fstat ∧ e.ready = true ∧ e.own = true ∧
    e.seq = s.me.seq
  pc : u.me.pc = s.me.pc + 8#64
  rest : sameRegisters { s.me with
    mqueue := u.me.mqueue, commitAcc := u.me.commitAcc, commitActive := u.me.commitActive,
    commitShadow := u.me.commitShadow, rngCtr := u.me.rngCtr } u.me

/-- An array operand's type has its block length (R438). -/
def arrayOk (st : Strand) (t : ETy) : Prop := isBlock t = true → st.blk ≠ 0

/-- The slot an instruction names holds a table. -/
def slotOk (st : Strand) (a : Option AlgNo) : Prop := ∀ c, a = some c → st.alg[c] ≠ none

/-- The tile's tracked type admits the instruction's (R403). -/
def latchOk (st : Strand) (d : AccNo) (t : ETy) : Prop := st.commitAcc[d] = .none ∨ st.commitAcc[d] = accTyOf t

/-- What a matrix instruction without a transfer needs of its operands (R403, R433), and the images and the row that its
entry holds: its operands as they stand at commit (R257). -/
noncomputable def queuedOf (st : Strand) : Instr → Option (Prop × Nat × Nat × Nat)
  | .mzero _ => some (True, 0, 0, 0)
  | .mswap => some (True, 0, 0, 0)
  | .mopa d a b m | .mops d a b m => some (a.val < st.vcount ∧ b.val < st.vcount ∧ arrayOk st m.ty ∧ slotOk st m.alg ∧
      st.dynRst m.rnd = false ∧ latchOk st d m.ty ∧ rowFree st = true, (st.getV a).nat, (st.getV b).nat, 0)
  | .mstrm d a b m => some (a.val < st.vcount ∧ arrayOk st m.ty ∧ slotOk st m.alg ∧ (st.getX b).toNat ≤ 63 ∧
      st.dynRst m.rnd = false ∧ latchOk st d m.ty ∧ st.commitActive = some m.ty ∧ rowFree st = true,
      (st.getV a).nat, 0, (st.getX b).toNat)
  | .mrdrow d _ b m => some (d.val < st.vcount ∧ bytesOf m.ty st.blk st.vl ≤ st.mvl ∧ (st.getX b).toNat ≤ 63,
      0, st.rngCtr.toNat + 2 ^ 64 * st.rngKey.toNat, (st.getX b).toNat)
  | .mwrrow _ a b m => some (a.val < st.vcount ∧ bytesOf m.ty st.blk st.vl ≤ st.mvl ∧ (st.getX b).toNat ≤ 63 ∧
      rowFree st = true, (st.getV a).nat, st.rngCtr.toNat + 2 ^ 64 * st.rngKey.toNat, (st.getX b).toNat)
  | _ => none

/-- E of a matrix transfer is 64-byte aligned (R262). -/
def matAligned (st : Strand) (a : BRegNo) (off : BitVec 9) : Prop :=
  (((st.getB a).addr.toNat : Int) + 64 * off.toInt) % 64 = 0

/-- What a matrix instruction other than STPAIR checks before its state (R433), and its minor, which class 0x09 reports
(R403). -/
def matrixOf (st : Strand) : Instr → Option (Prop × Nat)
  | .mzero _ => some (True, 0)
  | .mopa _ a b m => some (a.val < st.vcount ∧ b.val < st.vcount ∧ arrayOk st m.ty ∧ slotOk st m.alg ∧
      st.dynRst m.rnd = false, 1)
  | .mops _ a b m => some (a.val < st.vcount ∧ b.val < st.vcount ∧ arrayOk st m.ty ∧ slotOk st m.alg ∧
      st.dynRst m.rnd = false, 2)
  | .mldw a off ty _ => some (arrayOk st ty ∧ matAligned st a off, 3)
  | .mswap => some (True, 4)
  | .mstrm _ a b m => some (a.val < st.vcount ∧ arrayOk st m.ty ∧ slotOk st m.alg ∧ (st.getX b).toNat ≤ 63 ∧
      st.dynRst m.rnd = false, 5)
  | .mrdrow d _ b m => some (d.val < st.vcount ∧ bytesOf m.ty st.blk st.vl ≤ st.mvl ∧
      (isBlock m.ty = true → st.blk ≠ 0 ∧ st.vl % st.blk = 0) ∧ (st.getX b).toNat ≤ 63, 6)
  | .mwrrow _ a b m => some (a.val < st.vcount ∧ bytesOf m.ty st.blk st.vl ≤ st.mvl ∧
      (isBlock m.ty = true → st.blk ≠ 0 ∧ st.vl % st.blk = 0) ∧ (st.getX b).toNat ≤ 63, 7)
  | .mldacc _ a off _ => some (matAligned st a off, 8)
  | .mstacc d a _ _ off m => some (matAligned st a off ∧ st.pitch d m.ty % 16 = 0 ∧ bytesOf m.ty 0 64 ≤ st.pitch d m.ty, 9)
  | .mbind _ => some (True, 10)
  | .msync _ => some (True, 11)
  | _ => none

/-- The state but for the strand in front, the interlock table and the next transfer's number; one transfer's entries are
added to the table. -/
def transferOut (s u : State) : Prop :=
  u = { s with me := u.me, cores := u.cores, nextOp := s.nextOp + 1 } ∧
  ∃ es, u.core s.me.core = { s.core s.me.core with entries := (s.core s.me.core).entries ++ es } ∧
    (∀ c, c ≠ s.me.core → u.core c = s.core c) ∧ ∀ x ∈ es, x.sid = s.me.id ∧ x.op = s.nextOp

end Sys2Proof.Claims

/-- R257, R403: in matrix state and unbound, with room in the queue, MZERO, MOPA, MOPS, MSWAP, MSTRM, MRDROW and MWRROW are
committed to the queue with their operands as they stand, and the strand goes on. Outside matrix state every matrix
instruction whose operands pass is class 0x09 DETAIL 0 with its minor; STPAIR reads its descriptor before, and one that it
does not allow is class 0x84 DETAIL 12 (R433). -/
def Sys2Proof.Claims.MatrixCommits : Prop :=
  (∀ (s : State) (i : Instr) (ok : Prop) (va vb row : Nat), i.wf = true → queuedOf s.me i = some (ok, va, vb, row) → ok →
    s.me.inMatrix = true → s.me.bind = none → s.me.mqueue.length < 64 →
    ∃ u e, exec i s = .next u ∧ Queued s u i e ∧ e.va = va ∧ e.vb = vb ∧ e.row = row ∧ sameModule s u) ∧
  (∀ (s : State) (i : Instr) (ok : Prop) (minor : Nat), i.wf = true → matrixOf s.me i = some (ok, minor) → ok →
    s.me.inMatrix = false → exec i s = .next (s.takeFault (s.me.flt 0x09 0 minor 0) s.me.pc 0)) ∧
  (∀ (s t : State) (d : XReg) (a : BRegNo) (b : AccNo) (c : FReg) (off : BitVec 9) (f : FMod) (e : Int) (bs : List Byte)
      (good : Bool), e = ((s.me.getB a).addr.toNat : Int) + 64 * off.toInt → e % 64 = 0 →
    s.loadE a useLD e 128 0 = .ok (bs, t) →
    (good = true ↔ (tensorOf bs).valid = true ∧ (tensorOf bs).paired = true ∧ (tensorOf bs).ncomp = 1 ∧
      (tensorOf bs).etype = etyCode f.ty) →
    (good = false → exec (.stpair d a b c off f) s = .next (s.takeFault (s.me.flt 0x84 12 (addr64 e) 0) s.me.pc 0)) ∧
    (good = true → s.me.inMatrix = false →
      exec (.stpair d a b c off f) s = .next (s.takeFault (s.me.flt 0x09 0 12 0) s.me.pc 0)))

/-- R261 to R268: MLDW, MLDACC, MSTACC and STPAIR, admitted at an aligned address, are committed with their address and
bound, and their transfer is entered in the interlock table; STPAIR reads its descriptor first. MSYNC goes on once the queue
is empty and waits before. -/
def Sys2Proof.Claims.MatrixTransfers : Prop :=
  (∀ (s : State) (a : BRegNo) (off : BitVec 9) (e : Int), e = ((s.me.getB a).addr.toNat : Int) + 64 * off.toInt →
    e % 64 = 0 → s.me.inMatrix = true → s.me.bind = none → s.me.mqueue.length < 64 → noneOut s →
    (s.core s.me.core).entries.length < 31 →
    (admission s.who (s.me.getB a) a.val useER [(e, 16384)] = none →
      (∀ (ty : ETy) (trn : Bool), arrayOk s.me ty → ∃ u m, exec (.mldw a off ty trn) s = .next u ∧
        Queued s u (.mldw a off ty trn) m ∧ m.addr = e ∧ m.bnd = s.me.getB a ∧ m.op = s.nextOp ∧ transferOut s u) ∧
      (∀ (d : AccNo) (ty : ETy), ∃ u m, exec (.mldacc d a off ty) s = .next u ∧ Queued s u (.mldacc d a off ty) m ∧
        m.addr = e ∧ m.bnd = s.me.getB a ∧ m.op = s.nextOp ∧ transferOut s u)) ∧
    (∀ (d : XReg) (b : AccNo) (c : FReg) (f : FMod), s.me.pitch d f.ty % 16 = 0 → bytesOf f.ty 0 64 ≤ s.me.pitch d f.ty →
      admission s.who (s.me.getB a) a.val useST
        ((List.range 64).map (fun r => (e + (r * s.me.pitch d f.ty : Nat), bytesOf f.ty 0 64))) = none →
      ∃ u m, exec (.mstacc d a b c off f) s = .next u ∧ Queued s u (.mstacc d a b c off f) m ∧ m.addr = e ∧
        m.pitch = (if d = 0 then bytesOf f.ty 0 64 else (s.me.getX d).toNat) ∧ m.scale = (s.me.getF c).toNat ∧
        m.bnd = s.me.getB a ∧ m.op = s.nextOp ∧ transferOut s u) ∧
    (∀ (t : State) (bs : List Byte) (d : XReg) (b : AccNo) (c : FReg) (f : FMod) (w : List (Int × List Byte) × List (Int × List Byte)),
      s.loadE a useLD e 128 0 = .ok (bs, t) → (tensorOf bs).valid = true → (tensorOf bs).paired = true →
      (tensorOf bs).ncomp = 1 → (tensorOf bs).etype = etyCode f.ty →
      w = pairWrites (tensorOf bs) ((s.me.getX d).toNat % 2 ^ 32) ((s.me.getX d).toNat / 2 ^ 32) (List.replicate 4096 0) →
      admission s.who (s.me.getB a) a.val usePR
        ((w.1 ++ w.2).map (fun x => (x.1, x.2.length))) = none →
      ∃ u m, exec (.stpair d a b c off f) s = .next u ∧ Queued t u (.stpair d a b c off f) m ∧ m.desc = bs ∧
        m.row = (s.me.getX d).toNat ∧ m.scale = (s.me.getF c).toNat ∧ m.bnd = s.me.getB a ∧ m.op = t.nextOp ∧
        transferOut t u)) ∧
  (∀ (s : State) (sc : Scope), s.me.inMatrix = true → s.me.bind = none →
    (s.me.mqueue = [] → ∃ u, exec (.msync sc) s = .next u ∧ u.me.pc = s.me.pc + 8#64 ∧ sameRegisters s.me u.me ∧
      sameModule s u) ∧
    (s.me.mqueue ≠ [] → exec (.msync sc) s = .next (s.setMe { s.me with hold := some (.msync sc) })))

namespace Sys2Proof.Claims

/-- A strand but for its binding, its place in the program and its waits. -/
def waitless (t : Strand) : Strand :=
  { t with bind := none, pc := 0, prev := 0, seq := 0, hold := none, blocked := none, blockedFor := 0 }

end Sys2Proof.Claims

/-- R269, R271: MBIND of 0 unbinds a strand: at once where it is not bound, and where it is, once its queue is empty and,
for a follower, its leader is bound no longer; until then it is blocked. A strand whose seven peers wait or are bound under
the key on distinct cores of its cluster at the seven other positions is bound with them, from whatever grid it was bound in
(log entry 144); one whose grid is not complete is blocked. A key of 0 with a position, or a position that is taken under
the key, is class 0x09 DETAIL 5; with 64 entries in its queue MBIND waits as every matrix instruction does. -/
def Sys2Proof.Claims.MatrixBinding : Prop :=
  ∀ (s : State) (a : XReg) (pos key : Nat) (taken : Prop), s.me.inMatrix = true →
    pos = (s.me.getX a).toNat % 8 → key = (s.me.getX a).toNat / 8 →
    (taken ↔ s.me.bind = some (pos, key) ∨
      ∃ t ∈ s.strands, t.exists? = true ∧ t.gang = s.me.gang ∧ (t.wantsBind = some (pos, key) ∨ t.boundAs = some (pos, key))) →
    (s.me.getX a = 0#64 → s.me.bind = none → s.me.mqueue.length < 64 → ∃ u, exec (.mbind a) s = .next u ∧
      u.me.bind = none ∧ u.me.pc = s.me.pc + 8#64 ∧ sameRegisters s.me u.me ∧ sameModule s u) ∧
    (∀ p k, s.me.getX a = 0#64 → s.me.bind = some (p, k) → s.me.mqueue.length < 64 →
      (s.me.mqueue = [] → (p % 2 = 0 ∨ ∀ t ∈ s.strands, t.exists? = true → t.gang = s.me.gang →
          t.boundAs ≠ some (p - 1, k)) →
        ∃ u, exec (.mbind a) s = .next u ∧ u.me.bind = none ∧ u.me.pc = s.me.pc + 8#64 ∧
          sameRegisters { s.me with bind := none } u.me ∧ sameModule s u) ∧
      (s.me.mqueue ≠ [] ∨ (p % 2 = 1 ∧ ∃ t ∈ s.strands, t.exists? = true ∧ t.gang = s.me.gang ∧
          t.boundAs = some (p - 1, k)) →
        exec (.mbind a) s = .next (s.setMe { s.me with blocked := some (.mbind a) }))) ∧
    (s.me.getX a ≠ 0#64 → key = 0 ∨ taken →
      exec (.mbind a) s = .next (s.takeFault (s.me.flt 0x09 5 (s.me.getX a).toNat 0) s.me.pc 0)) ∧
    (s.me.getX a = 0#64 ∨ key ≠ 0 ∧ ¬taken → 64 ≤ s.me.mqueue.length →
      exec (.mbind a) s = .next (s.setMe { s.me with hold := some (.mbind a) })) ∧
    (key ≠ 0 → ¬taken → s.me.mqueue.length < 64 →
      (s.gridComplete pos (s.bindPeers key) = true →
        ∃ u, exec (.mbind a) s = .next u ∧ u.me.bind = some (pos, key) ∧ u.me.pc = s.me.pc + 8#64 ∧
          sameRegisters { s.me with bind := some (pos, key) } u.me ∧ u.mem = s.mem ∧
          (∀ p ∈ s.bindPeers key, ∃ t ∈ u.strands, t.id = p.1.id ∧ t.bind = some (p.2, key)) ∧
          u.strands.map waitless = s.strands.map waitless) ∧
      (s.gridComplete pos (s.bindPeers key) = false →
        exec (.mbind a) s = .next (s.setMe { s.me with blocked := some (.mbind a) })))

/-- Matrix instructions are committed with their operands; MSYNC and MBIND. The parts are stated above, each with its rules.
-/
def Obligations.MatrixQueue : Prop :=
  Claims.MatrixCommits ∧ Claims.MatrixTransfers ∧ Claims.MatrixBinding

namespace Sys2Proof.Claims

/-- What a queued instruction leaves in a tile (R261 to R266): the tile and the code of each cell, from the entry's images.
Rows that MSTRM and MWRROW do not name keep their cells. -/
noncomputable def cellsOf (st : Strand) (e : MEntry) : Option (AccNo × (Nat → Nat)) :=
  match e.instr with
  | .mzero d => some (d, fun _ => 0)
  | .mopa d _ _ m => some (d, fun i => outer d m false i)
  | .mops d _ _ m => some (d, fun i => outer d m true i)
  | .mstrm d _ _ m => some (d, fun i =>
      if i / 64 = e.row then
        (if m.trn then dotCell (accTyOf m.ty) (rndUnder e.fstat m.rnd) m.sat (old d i) 64 (img m.ty e.va) (plane m.ty (i % 64))
        else dotCell (accTyOf m.ty) (rndUnder e.fstat m.rnd) m.sat (old d i) (depthOf m.ty) (img m.ty e.va)
          (fun k => plane m.ty k (i % 64))).1
      else old d i)
  | .mwrrow d _ _ m => if e.vl = 0 then none else some (d, fun i =>
      if i / 64 = e.row ∧ i % 64 < min e.vl 64 then
        (deliver (accEty (if st.acc[d].ty = .none then rowTyOf m.ty else st.acc[d].ty))
          (imgVal m.ty e.blk e.vl e.va (i % 64)) (rndUnder e.fstat m.rnd) m.sat
          (drawOf (e.vb / 2 ^ 64) (e.vb % 2 ^ 64 + i % 64) 0)).1
      else old d i)
  | _ => none
where
  old (d : AccNo) (i : Nat) : Nat := st.acc[d].codes.getD i 0
  img (t : ETy) (n i : Nat) : Val × Ev := imgVal t e.blk (depthOf t) n i
  plane (t : ETy) (k c : Nat) : Val × Ev :=
    imgVal t (blkLen st.active.blk) (depthOf t) ((st.active.bits.toNat >>> (2048 * c)) % 2 ^ 2048) k
  outer (d : AccNo) (m : PMod) (neg : Bool) (i : Nat) : Nat :=
    (dotCell (accTyOf m.ty) (rndUnder e.fstat m.rnd) m.sat (old d i) (depthOf m.ty / 64)
      (fun q => let v := img m.ty e.va (i / 64 * (depthOf m.ty / 64) + q); (if neg then vneg v.1 else v.1, v.2))
      (fun q => img m.ty e.vb (i % 64 * (depthOf m.ty / 64) + q))).1

end Sys2Proof.Claims

/-- R261 to R267, R271: the next instruction of a strand's queue executes: MZERO, MOPA, MOPS, MSTRM (those of them with no
algebra slot) and MWRROW change one tile's cells; MSWAP exchanges the planes; MRDROW writes a vector register; MLDW and
MLDACC load what their 16 KiB read as, MLDW.t transposed. A counted instruction waits once the window's budget is spent, and
GOVST counts it once; the controller sets a budget not below the floor once in a window of 256 cycles, it holds from
the next window on, and no budget changes within a window (R359). -/
def Sys2Proof.Claims.MatrixExecution : Prop :=
  (∀ (s : State) (e : MEntry) (rest : List MEntry), s.me.exists? = true → s.me.mqueue = e :: rest → e.ready = true →
    (governed e = true → (s.gov s.me.core).used < (s.gov s.me.core).budget) →
    ∃ u, exec (.matrixQueueExecute s.me.id) s = .next u ∧ u.me.mqueue = rest ∧ u.me.x = s.me.x ∧ u.me.f = s.me.f ∧
      u.me.pc = s.me.pc ∧
      (e.table = none → ∀ d f, cellsOf s.me e = some (d, f) →
        (∀ i, i < 4096 → u.me.acc[d].codes.getD i 0 = f i % 2 ^ 32) ∧
        (∀ q : AccNo, q ≠ d → u.me.acc[q] = s.me.acc[q]) ∧ u.me.active = s.me.active ∧ u.me.v = s.me.v ∧
        u.mem = s.mem) ∧
      (e.instr = .mswap → u.me.active = s.me.shadow ∧ u.me.shadow = s.me.active ∧ u.me.acc = s.me.acc ∧
        u.mem = s.mem) ∧
      (∀ d a r m, e.instr = .mrdrow d a r m → e.vl ≠ 0 → e.vl * sbits m.ty ≤ 65536 →
        (∀ c, c < e.vl → u.me.code m.ty d c = (if c < 64 then
          (deliver m.ty (decodeVal (accEty s.me.acc[a].ty) (s.me.acc[a].codes.getD (64 * e.row + c) 0), 0#7)
            (rndUnder e.fstat m.rnd) m.sat (drawOf (e.vb / 2 ^ 64) (e.vb % 2 ^ 64 + c) 0)).1 else 0) % 2 ^ sbits m.ty) ∧
        (∀ q, q ≠ d → u.me.getV q = s.me.getV q) ∧ u.me.acc = s.me.acc ∧ u.mem = s.mem) ∧
      (∀ a off ty bs t, e.instr = .mldw a off ty false →
        engRead s ⟨s.me.ctx, s.me.core, e.iaddr, some s.me.id⟩ e.bnd e.addr 16384 = .ok (bs, t) →
        u.me.shadow = ⟨BitVec.ofNat 131072 (ofLE bs), some ty, if isBlock ty then e.blk else 0⟩ ∧
        u.me.acc = s.me.acc ∧ u.mem = t.mem) ∧
      (∀ a off ty bs t, e.instr = .mldw a off ty true → depthOf ty * sbits ty ≤ 2048 →
        engRead s ⟨s.me.ctx, s.me.core, e.iaddr, some s.me.id⟩ e.bnd e.addr 16384 = .ok (bs, t) →
        (∀ c k, c < 64 → k < depthOf ty → elem (sbits ty) ((u.me.shadow.bits.toNat >>> (2048 * c)) % 2 ^ 2048) k =
          elem (sbits ty) (ofLE bs) (64 * k + c)) ∧
        u.me.shadow.fmt = some ty ∧ u.me.acc = s.me.acc ∧ u.mem = t.mem) ∧
      (∀ d a off ty bs t, e.instr = .mldacc d a off ty →
        engRead s ⟨s.me.ctx, s.me.core, e.iaddr, some s.me.id⟩ e.bnd e.addr 16384 = .ok (bs, t) →
        u.me.acc[d].bits = BitVec.ofNat 131072 (ofLE bs) ∧ (∀ q : AccNo, q ≠ d → u.me.acc[q] = s.me.acc[q]) ∧
        u.mem = t.mem)) ∧
  (∀ (s : State) (e : MEntry) (rest : List MEntry), s.me.exists? = true → s.me.mqueue = e :: rest → e.ready = true →
    governed e = true → (s.gov s.me.core).budget ≤ (s.gov s.me.core).used →
    ∃ u, exec (.matrixQueueExecute s.me.id) s = .next u ∧ u.mem = s.mem ∧
      u.me = { s.me with mqueue := { e with held := true } :: rest } ∧
      (u.core s.me.core).govst = (s.core s.me.core).govst + (if e.held then 0#64 else 1#64)) ∧
  (∀ (s : State) (c b : Nat),
    (s.gfloor ≤ b → b ≤ 256 → (s.gov c).next = none → ∃ u, exec (.governorWindow c b) s = .next u ∧
      u.gov c = u.core c ∧ (u.core c).budget = (s.gov c).budget ∧ (u.core c).used = (s.gov c).used ∧
      (u.core c).next = some (s.cycle / 256 + 1, b) ∧ (u.core c).govst = (s.core c).govst ∧
      (∀ k, k ≠ c → u.core k = s.core k) ∧ u = { s with cores := u.cores }) ∧
    (b < s.gfloor ∨ 256 < b ∨ (s.gov c).next ≠ none → exec (.governorWindow c b) s = .next s)) ∧
  (∀ (k : Core) (w : Nat), (k.window = w → k.inWindow w = k) ∧
    (k.window ≠ w → (k.inWindow w).window = w ∧ (k.inWindow w).used = 0 ∧ (k.inWindow w).govst = k.govst ∧
      (k.next = none → (k.inWindow w).budget = k.budget) ∧
      (∀ v b, k.next = some (v, b) → v ≤ w → (k.inWindow w).budget = b ∧ (k.inWindow w).next = none) ∧
      (∀ v b, k.next = some (v, b) → w < v → (k.inWindow w).budget = k.budget ∧ (k.inWindow w).next = some (v, b))))

namespace Sys2Proof.Claims

/-- Writes of a transfer lie at fixed places, whatever its strand, its core and memory hold by then, and none of them
fails: write `k` touches the bytes `bs k`. -/
def Lands (s : State) (e : MEntry) (rows : List (Int × List Byte)) (bs : Nat → List Byt) : Prop :=
  ∀ u : State, u = { s with
      me := u.me, cores := u.cores, mem := u.mem, bad := u.bad, dirtyArmed := u.dirtyArmed, coh := u.coh,
      image := u.image, strands := u.strands } →
    ∀ k r, rows[k]? = some r →
      resolve (entryWho s e) .write (e.bnd.view ≠ 0) (e.bnd.addrs r.1 r.2.length) u none [] = .ok (bs k, u) ∧
      ∀ y ∈ bs k, y.loc ∉ s.wbad

/-- Memory after the writes: each that no other lies over has its bytes, and every other byte but LDIRTY (R373) is as it
was. -/
def HoldsRows (s u : State) (rows : List (Int × List Byte)) (bs : Nat → List Byt) : Prop :=
  (∀ k r, rows[k]? = some r → ((bs k).map (·.loc)).Nodup → notDirty s (bs k) →
    (∀ j, j < rows.length → j ≠ k → ∀ x ∈ (bs j).map (·.loc), x ∉ (bs k).map (·.loc)) →
    u.bytes ((bs k).map (·.loc)) = r.2) ∧
  (∀ x, (∀ k, k < rows.length → x ∉ (bs k).map (·.loc)) → (∀ b n, s.ckArea = some (b, n) → x ≠ b + 5) →
    Memory.get u.mem x = Memory.get s.mem x)

/-- The code that MSTACC and STPAIR store of cell `i` of a tile: the cell times SCALE, exactly, rounded once to the type
(R140). -/
def storedCell (st : Strand) (e : MEntry) (b : AccNo) (f : FMod) (i : Nat) : Nat :=
  (deliver f.ty (exactMul (decodeVal (accEty st.acc[b].ty) (st.acc[b].codes.getD i 0)) (decodeVal .f64 e.scale))
    (rndUnder e.fstat f.rnd) f.sat (drawOf (e.vb / 2 ^ 64) (e.vb % 2 ^ 64 + i) 0)).1

end Sys2Proof.Claims

/-- R267, R268: what a queued MSTACC writes: row r of the tile at E + r × pitch, its cells packed from the lowest address,
each converted as R140 says; a queued STPAIR writes each cell of its tile that lies in GSHAPE at its place and at the place
of its transposed element in the second copy. Nothing else in memory and no tile changes, and the transfer's entries
retire. -/
def Sys2Proof.Claims.MatrixStores : Prop :=
  (∀ (s : State) (e : MEntry) (rest : List MEntry) (d : XReg) (a : BRegNo) (b : AccNo) (c : FReg) (off : BitVec 9) (f : FMod)
      (bs : Nat → List Byt) (rows : List (Int × List Byte)), s.me.exists? = true → s.me.mqueue = e :: rest →
    e.ready = true → e.instr = .mstacc d a b c off f →
    rows = (List.range 64).map (fun r => (e.addr + (r * e.pitch : Nat), toLE (bytesOf f.ty 0 64)
      (pack (sbits f.ty) ((List.range 64).map (fun k => storedCell s.me e b f (64 * r + k)))))) →
    Lands s e rows bs →
    ∃ u, exec (.matrixQueueExecute s.me.id) s = .next u ∧ u.me.mqueue = rest ∧ HoldsRows s u rows bs ∧
      u.me.acc = s.me.acc ∧ u.me.pc = s.me.pc ∧ ∀ x ∈ (u.core s.me.core).entries, x.op ≠ e.op) ∧
  (∀ (s : State) (e : MEntry) (rest : List MEntry) (d : XReg) (a : BRegNo) (b : AccNo) (c : FReg) (off : BitVec 9) (f : FMod)
      (bs : Nat → List Byt) (w : List (Int × List Byte) × List (Int × List Byte)), s.me.exists? = true →
    s.me.mqueue = e :: rest → e.ready = true → e.instr = .stpair d a b c off f → e.bnd.view = 0 →
    w = pairWrites (tensorOf e.desc) (e.row % 2 ^ 32) (e.row / 2 ^ 32)
      ((List.range 4096).map (storedCell s.me e b f)) → Lands s e (w.1 ++ w.2) bs →
    ∃ u, exec (.matrixQueueExecute s.me.id) s = .next u ∧ u.me.mqueue = rest ∧ HoldsRows s u (w.1 ++ w.2) bs ∧
      u.me.acc = s.me.acc ∧ u.me.pc = s.me.pc ∧ ∀ x ∈ (u.core s.me.core).entries, x.op ≠ e.op) ∧
  (∀ (t : Tensor) (ti tj : Nat) (g : Nat → Nat) (x : Int × List Byte),
    (x ∈ (pairWrites t ti tj ((List.range 4096).map g)).1 ↔ ∃ i j, i < 64 ∧ j < 64 ∧
      64 * ti + i < t.gshape.getD 0 0 ∧ 64 * tj + j < t.gshape.getD 1 0 ∧
      x = (((t.addr + (t.offset [64 * ti + i, 64 * tj + j]).getD 0 : Nat) : Int), toLE (sbytes t.ty) (g (64 * i + j)))) ∧
    (x ∈ (pairWrites t ti tj ((List.range 4096).map g)).2 ↔ ∃ i j, i < 64 ∧ j < 64 ∧
      64 * ti + i < t.gshape.getD 0 0 ∧ 64 * tj + j < t.gshape.getD 1 0 ∧
      x = (((t.paddr + (t.flip.offset [64 * tj + j, 64 * ti + i]).getD 0 : Nat) : Int), toLE (sbytes t.ty) (g (64 * i + j)))))

/-- What a queued matrix instruction does when it executes, which bytes MSTACC and STPAIR write, and the governor's window.
The parts are stated above, each with its rules. -/
def Obligations.MatrixExecution : Prop :=
  Claims.MatrixExecution ∧ Claims.MatrixStores

/-! ### Copies (R279 to R285, R417) -/

/-- R281 to R284: CPSET writes one level's sixteen bytes; CPGO and CPGOB of a well-formed block whose runs are admitted put
the copy that the block describes on the channel, a CPGOB's handle moving from free to filling; CPWP reads WP; CPCAN takes
the strand's copies off a channel, one in the middle of a run once that run is written; CPINV drops cached blocks. A copy
of no bytes makes its events at once, and takes no place on the channel. -/
def Obligations.CopyInstructions : Prop :=
  (∀ (s t : State) (lev : BitVec 6) (a : BRegNo) (n ss ds : BitVec 32) (bs : List Byt), lev.toNat ≤ 5 →
    Admitted s a useST (((s.me.getB a).addr.toNat + 0x40 + 16 * lev.toNat : Nat) : Int) 16 .plain true bs t →
    ∃ u, exec (.cpset lev a n ss ds) s = .next u ∧ u.mem = (t.poke (bs.map (·.loc))
        (toLE 4 n.toNat ++ toLE 4 0 ++ toLE 4 ss.toNat ++ toLE 4 ds.toNat)).mem ∧ memElsewhere t u bs ∧
      u.me.cache.all (fun c => c.1 != (s.me.getB a).addr.toNat) = true ∧ u.me.pc = s.me.pc + 16#64 ∧
      sameRegisters { s.me with cache := u.me.cache, resv := u.me.resv, stream := u.me.stream } u.me ∧ sameOutside s u) ∧
  (∀ (s t : State) (ch : BitVec 6) (a : BRegNo) (x : XReg) (bs : List Byte) (sb db : BRegNo) (c : Copy), ch.toNat ≤ 3 →
    (s.me.getB a).addr.toNat % 64 = 0 → s.me.cache.all (fun c => c.1 != (s.me.getB a).addr.toNat) = true →
    s.loadE a useLD ((s.me.getB a).addr.toNat : Nat) 160 0 = .ok (bs, t) → firstBad (cpChecks bs) = none →
    sb.val = field bs 5 1 % 16 → db.val = field bs 5 1 / 16 →
    ((t.core t.me.core).onChan ch.toNat).length < 4 → noneOut t → (t.core t.me.core).entries.length < 31 →
    admission t.who (t.me.getB sb) sb.val useER c.reads = none →
    admission t.who (t.me.getB db) db.val useEW c.writes = none →
    (∀ b, c.srev = some b → firstFlt (t.barChk b) = none) →
    (c = copyOf t.nextOp ch.toNat t.issuer bs (field bs 0x10 8 : Nat) (t.me.getB sb) (t.me.getB db)
        (if x = 0 then none else some (t.me.getX x).toNat) none → c.total = 0 → t.bad = [] →
      (∀ b, c.dvis = some b → firstFlt (t.barChk b) = none) →
      ∃ u, exec (.cpgo ch a x) s = .next u ∧ u.me.pc = s.me.pc + 8#64 ∧ u.me.x = s.me.x ∧ u.cores = t.cores ∧
        (c.srev = none → c.dvis = none → u.mem = t.mem) ∧
        (∀ b o, c.srev = none → c.dvis = some b → (t.barAt t.me.core b).arrive = some o →
          u.mem = (t.setBar t.me.core b o).mem) ∧
        (∀ b o, c.srev = some b → c.dvis = none → (t.barAt t.me.core b).arrive = some o →
          u.mem = (t.setBar t.me.core b o).mem)) ∧
    (c = copyOf t.nextOp ch.toNat t.issuer bs (field bs 0x10 8 : Nat) (t.me.getB sb) (t.me.getB db)
        (if x = 0 then none else some (t.me.getX x).toNat) none → c.total ≠ 0 →
      (∀ b, c.dvis = some b → firstFlt (t.barChk b) = none) →
      ∃ u, exec (.cpgo ch a x) s = .next u ∧ (u.core t.me.core).copies = (t.core t.me.core).copies ++ [c] ∧
        u.mem = t.mem ∧ u.me.pc = s.me.pc + 8#64 ∧ u.me.x = s.me.x ∧ u.me.newest = t.me.newest.set! ch.toNat (some c.op) ∧
        u.clusters = t.clusters) ∧
    (∀ buf, t.ownBuf (t.me.getX x).toNat = .ok buf → buf.st = 0 → c.total ≤ buf.len → c.total = 0 → c.srev = none →
      c = copyOf t.nextOp ch.toNat t.issuer bs (buf.addr : Nat) (t.me.getB sb) (t.me.getB db) none
        (some (t.me.getX x).toNat) →
      ∃ u, exec (.cpgob ch a x) s = .next u ∧ u.me.pc = s.me.pc + 8#64 ∧ u.me.x = s.me.x ∧ u.cores = t.cores ∧
        u.mem = t.mem ∧ (u.cluster u.me.cluster).buf? (t.me.getX x).toNat = some { buf with st := 2 }) ∧
    (∀ buf, t.ownBuf (t.me.getX x).toNat = .ok buf → buf.st = 0 → c.total ≤ buf.len → c.total ≠ 0 →
      c = copyOf t.nextOp ch.toNat t.issuer bs (buf.addr : Nat) (t.me.getB sb) (t.me.getB db) none
        (some (t.me.getX x).toNat) →
      ∃ u, exec (.cpgob ch a x) s = .next u ∧ (u.core t.me.core).copies = (t.core t.me.core).copies ++ [c] ∧
        u.mem = t.mem ∧ u.me.pc = s.me.pc + 8#64 ∧ u.me.x = s.me.x ∧
        (u.cluster u.me.cluster).buf? (t.me.getX x).toNat = some { buf with st := 1 })) ∧
  (∀ (s : State) (d : XReg) (ch : BitVec 6), ch.toNat ≤ 3 →
    WritesX (.cpwp d ch) s d (BitVec.ofNat 64 (s.wpOf ch.toNat))) ∧
  (∀ (s : State) (ch : BitVec 6), ch.toNat ≤ 3 → ((s.core s.me.core).copies.map (·.op)).Nodup →
    (∀ c ∈ (s.core s.me.core).copies, c.ch = ch.toNat → c.iss.sid = some s.me.id → c.pend = []) →
    ∃ u, exec (.cpcan ch) s = .next u ∧ u.me.pc = s.me.pc + 8#64 ∧ u.mem = s.mem ∧ u.me.x = s.me.x ∧
      (u.core s.me.core).copies = (s.core s.me.core).copies.filter
        (fun c => !(c.ch == ch.toNat && c.iss.sid == some s.me.id))) ∧
  (∀ (s w : State) (ch : BitVec 6) (c : Copy) (e : Int) (bs : List Byte) (rest : List (Int × List Byte)), ch.toNat ≤ 3 →
    (s.core s.me.core).copies.filter (fun c => c.ch == ch.toNat && c.iss.sid == some s.me.id) = [c] →
    ((s.core s.me.core).copies.map (·.op)).Nodup → c.pend = (e, bs) :: rest →
    engWrite s c.iss.who c.iss.sid c.dstView e bs = (w, none) →
    ∃ u, exec (.cpcan ch) s = .next u ∧ u.me.pc = s.me.pc + 8#64 ∧ u.mem = w.mem ∧ u.me.x = s.me.x ∧
      (u.core s.me.core).copies = (s.core s.me.core).copies.filter (fun d => d.op != c.op)) ∧
  (∀ (s : State) (a : XReg) (all : Bool), ∃ u, exec (.cpinv a all) s = .next u ∧
    u.me.cache = (if all then [] else s.me.cache.filter (fun c => c.1 != (s.me.getX a).toNat)) ∧
    u.me.pc = s.me.pc + 8#64 ∧ sameRegisters { s.me with cache := u.me.cache } u.me ∧ sameModule s u)

/-- R280, R282, R114, R417: the copy at work on a channel reads its next run whole and writes its bytes in ascending order,
WP counting them; with every read performed it arrives at its source-released barrier, with every write performed it
leaves the channel, and its handle is full or its data-visible barrier has an arrival; at a write that fails, or at an
arrival whose barrier cannot be read, it stops and class 0x50 is pending against its strand, the bytes before the failing
one having been performed (log entry 43). -/
def Obligations.CopyProgress : Prop :=
  ∀ (s : State) (core ch : Nat) (c : Copy), s.chanHead core ch = some c →
    ((s.core core).copies.map (·.op)).Nodup →
    (∀ (n : Nat) (e : Int) (bs : List Byte) (t u : State), 0 < n → c.bytesMode = false →
      (c.pend = [(e, bs)] ∧ t = s ∨ c.pend = [] ∧ c.next < c.runs ∧ e = c.dstAt c.next ∧
        engRead s c.iss.who c.srcView (c.srcAt c.next) c.run = .ok (bs, t)) → bs ≠ [] →
      engWrite t c.iss.who c.iss.sid c.dstView e (bs.take n) = (u, none) →
      ∃ v d, exec (.copyByteSignal core ch n) s = .next v ∧ v.mem = u.mem ∧ v.chanHead core ch = some d ∧
        d.op = c.op ∧ d.wp = c.wp + min n bs.length ∧
        d.pend = (if bs.length ≤ n then [] else [(e + (n : Nat), bs.drop n)])) ∧
    (c.allRead = true → c.srDone = false → c.bytesMode = false →
      (∀ a, c.srev = some a → s.readable (locOf c.iss.core a) 16 = true) →
      ∃ v, exec (.copySourceReleased core ch) s = .next v ∧
        (∃ d, v.chanHead core ch = some d ∧ d.op = c.op ∧ d.srDone = true ∧ d.wp = c.wp) ∧
        (c.srev = none → v.mem = s.mem) ∧
        (∀ e ∈ (v.core core).entries, e.op = c.op → e.write = true) ∧
        (∀ a o, c.srev = some a → (s.barAt c.iss.core a).arrive = some o →
          v.mem = (s.setBar c.iss.core a o).mem)) ∧
    (c.allWritten = true → c.bytesMode = false → (c.srev.isSome = true → c.srDone = true) →
      (∀ a, c.handle = none → c.dvis = some a → s.readable (locOf c.iss.core a) 16 = true) →
      ∃ v, exec (.copyDataVisible core ch) s = .next v ∧
        (v.core core).copies = (s.core core).copies.filter (fun d => d.op != c.op) ∧
        (∀ e ∈ (v.core core).entries, e.op ≠ c.op) ∧
        (∀ h b, c.handle = some h → (s.cluster (clusterOf c.iss.core)).buf? h = some b →
          (v.cluster (clusterOf c.iss.core)).buf? h = some { b with st := 2 } ∧ v.mem = s.mem) ∧
        (∀ a o, c.handle = none → c.dvis = some a → (s.barAt c.iss.core a).arrive = some o → v.mem = (s.setBar c.iss.core a o).mem)) ∧
    (∀ (e : Int) (bs : List Byte) (rest : List (Int × List Byte)) (u : State) (cause a : Nat),
      c.pend = (e, bs) :: rest → c.handle = none →
      engWrite s c.iss.who c.iss.sid c.dstView e bs = (u, some (cause, a)) →
      c.iss.sid = some s.me.id → s.me.exists? = true → (s.core core).onChan ch = [c] →
      ∃ v, exec (.copyFailed core ch) s = .next v ∧ v.mem = u.mem ∧
        (v.core core).copies = (s.core core).copies.filter (fun d => d.op != c.op) ∧
        ∃ p, v.me.pending = s.me.pending ++ [p] ∧ p.op = c.op ∧ p.flt.cls = 0x50 ∧ p.flt.detail = cause ∧
          p.flt.faddr = BitVec.ofNat 64 a ∧ p.flt.info1 = c.iss.iaddr) ∧
    (∀ a : Nat, c.handle = none → c.bytesMode = false → s.readable (locOf c.iss.core a) 16 = false →
      (c.allRead = true ∧ c.pend = [] ∧ c.srDone = false ∧ c.srev = some a ∨
        c.allWritten = true ∧ (c.srev.isSome = true → c.srDone = true) ∧ c.dvis = some a) →
      c.iss.sid = some s.me.id → s.me.exists? = true → (s.core core).onChan ch = [c] →
      ∃ v, exec (.copyFailed core ch) s = .next v ∧ v.mem = s.mem ∧
        (v.core core).copies = (s.core core).copies.filter (fun d => d.op != c.op) ∧
        ∃ p, v.me.pending = s.me.pending ++ [p] ∧ p.op = c.op ∧ p.flt.cls = 0x50 ∧
          (isPad (locOf c.iss.core a) = true → p.flt.detail = 12) ∧
          (isPad (locOf c.iss.core a) = false → isScratch (locOf c.iss.core a) = true → p.flt.detail = 13) ∧ p.flt.faddr = BitVec.ofNat 64 a ∧ p.flt.info1 = c.iss.iaddr)

/-! ### Buffers, barriers, tags and scratchpad (R94, R95, R272 to R278, R286, R287) -/

/-- R277, R278: a handle's states. BUFSET defines an undefined or free handle over a region of the strand's node, BUFCLAIM
takes a full one to draining or a free one to filling and gives its address, BUFREL takes it on to free or full, and
BUFSTAT reads it, whichever gang has defined it (log entry 50). What another gang has defined is class 0x45 DETAIL 1 to
BUFSET, BUFCLAIM and BUFREL, a state that does not allow the change DETAIL 2, and an undefined handle DETAIL 0. -/
def Sys2Proof.Claims.BufferHandles : Prop :=
  ∀ (s : State) (h : Nat), h < 256 →
    (∀ (a b c : XReg) (off : Nat), (s.me.getX a).toNat = h → 0 < (s.me.getX c).toNat → (s.me.getX c).toNat ≤ 2 ^ 23 →
      s.regionOff (s.me.getX b).toNat (s.me.getX c).toNat = some off →
      (∀ x, (s.cluster s.me.cluster).buf? h = some x → x.gang = s.me.gang ∧ x.st = 0) →
      ∃ u x, exec (.bufset a b c) s = .next u ∧ (u.cluster s.me.cluster).buf? h = some x ∧ x.st = 0 ∧
        x.len = (s.me.getX c).toNat ∧ x.off = off ∧ x.gang = s.me.gang ∧
        (∀ k, k ≠ h → (u.cluster s.me.cluster).buf? k = (s.cluster s.me.cluster).buf? k) ∧ u.me.pc = s.me.pc + 8#64 ∧
        sameRegisters s.me u.me ∧ u = { s with me := u.me, clusters := u.clusters }) ∧
    (∀ (a : XReg) (x : Buf), (s.me.getX a).toNat = h → (s.cluster s.me.cluster).buf? h = some x →
      (x.gang = s.me.gang →
        (∀ (d : XReg) (p : Bool), x.st = (if p then 0 else 2) → x.waiters = [] →
          ∃ u, exec (.bufclaim d a p) s = .next u ∧
            (u.cluster s.me.cluster).buf? h = some { x with st := if p then 1 else 3 } ∧
            (d ≠ 0 → u.me.getX d = BitVec.ofNat 64 (0xF1 * 2 ^ 56 + x.off)) ∧ u.me.pc = s.me.pc + 8#64 ∧
            (∀ r, r ≠ d → u.me.getX r = s.me.getX r) ∧ u = { s with me := u.me, clusters := u.clusters } ∧
            sameRegisters { s.me with x := u.me.x, stream := u.me.stream } u.me) ∧
        (∀ (d : XReg) (p : Bool), x.st ≠ (if p then 0 else 2) → ∃ u, exec (.bufclaim d a p) s = .next u ∧
          u.me = { s.me with blocked := some (.bufclaim d a p) } ∧
          ∃ y, (u.cluster s.me.cluster).buf? h = some y ∧ y.st = x.st ∧ s.me.id ∈ y.waiters) ∧
        (x.st % 2 = 1 → s.transfersOut = false → ∃ u, exec (.bufrel a) s = .next u ∧
          (u.cluster s.me.cluster).buf? h = some { x with st := if x.st = 1 then 2 else 0 } ∧ u.me.pc = s.me.pc + 8#64 ∧
          sameRegisters s.me u.me ∧ u = { s with me := u.me, clusters := u.clusters }) ∧
        (x.st % 2 = 0 → exec (.bufrel a) s = .next (s.takeFault (s.bufFlt 2 h) s.me.pc 0))) ∧
      (x.gang ≠ s.me.gang → exec (.bufrel a) s = .next (s.takeFault (s.bufFlt 1 h) s.me.pc 0) ∧
        (∀ b c, exec (.bufset a b c) s = .next (s.takeFault (s.bufFlt 1 h) s.me.pc 0)) ∧
        ∀ d p, exec (.bufclaim d a p) s = .next (s.takeFault (s.bufFlt 1 h) s.me.pc 0)) ∧
      (x.gang = s.me.gang → x.st ≠ 0 → ∀ b c, exec (.bufset a b c) s = .next (s.takeFault (s.bufFlt 2 h) s.me.pc 0)) ∧
      (∀ d, WritesX (.bufstat d a) s d (BitVec.ofNat 64 (2 ^ 63 + x.st * 2 ^ 58 + x.len * 2 ^ 32 + x.off)))) ∧
    (∀ (d a : XReg), (s.me.getX a).toNat = h → (s.cluster s.me.cluster).buf? h = none →
      WritesX (.bufstat d a) s d 0#64 ∧ exec (.bufrel a) s = .next (s.takeFault (s.bufFlt 0 h) s.me.pc 0) ∧
      ∀ p, exec (.bufclaim d a p) s = .next (s.takeFault (s.bufFlt 0 h) s.me.pc 0))

namespace Sys2Proof.Claims

/-- A barrier object that the strand may name: its place, its alignment, no transfer of the strand over it, readable. -/
structure Object (s : State) (a : Nat) : Prop where
  place : placeOk s s.me.core s.me.gang a 16 = true
  aligned : a % 16 = 0
  calm : Calm s

/-- The strand has written object `o` at `a` and gone on; its registers are as they were. -/
def Wrote (s u : State) (a : Nat) (o : Bar) : Prop :=
  u.mem = (s.writeP (locOf s.me.core a) (toLE 16 o.nat)).mem ∧ u.me.pc = s.me.pc + 8#64 ∧
  sameRegisters { s.me with resv := u.me.resv, stream := u.me.stream } u.me ∧ sameOutside s u

end Sys2Proof.Claims

/-- R273 to R276: BINIT makes an object with ACNT = ARRV = x[b] and PEND 0; BEXP adds to PEND; BARR takes one from ARRV, and
with ARRV and PEND both 0 the phase changes and ARRV is ACNT again; BWAIT goes on when the phase differs from bit 0 of x[b]
and is blocked otherwise; BTRY tells which. -/
def Sys2Proof.Claims.Barriers : Prop :=
  ∀ (s : State) (a b : XReg) (v : Nat) (o : Bar), v = (s.me.getX a).toNat → Object s v →
    o = s.barAt s.me.core v →
    (∀ sc, sc ≠ .fa → (s.me.getX b).toNat ≤ 65535 → ∃ u, exec (.binit a b sc) s = .next u ∧
      Wrote s u v ⟨0, scopeCode sc, 0, (s.me.getX b).toNat, (s.me.getX b).toNat, 0⟩) ∧
    (o.pend + (s.me.getX b).toNat < 2 ^ 32 → ∃ u, exec (.bexp a b) s = .next u ∧
      Wrote s u v { o with pend := o.pend + (s.me.getX b).toNat }) ∧
    (o.arrv ≠ 0 → ∃ u, exec (.barr a) s = .next u ∧ Wrote s u v
      (if o.arrv = 1 ∧ o.pend = 0 then { o with phase := (o.phase + 1) % 2, arrv := o.acnt }
        else { o with arrv := o.arrv - 1 })) ∧
    (o.arrv = 0 → exec (.barr a) s = .next (s.takeFault (barFlt 4 v o.nat) s.me.pc 0)) ∧
    (o.phase ≠ (s.me.getX b).toNat % 2 → (∃ u, exec (.bwait a b) s = .next u ∧ u.me.pc = s.me.pc + 8#64 ∧
        sameRegisters { s.me with stream := u.me.stream } u.me ∧ sameModule s u) ∧
      (∀ d, ∃ u, exec (.btry d a b) s = .next u ∧ u.me.getX d = (if d = 0 then 0#64 else 1#64) ∧
        u.me.pc = s.me.pc + 8#64 ∧ OnlyX d { s.me with stream := u.me.stream } u.me ∧ sameModule s u)) ∧
    (o.phase = (s.me.getX b).toNat % 2 →
      exec (.bwait a b) s = .next (s.setMe { s.me with blocked := some (.bwait a b) }) ∧
      ∀ d, WritesX (.btry d a b) s d 0#64)

/-- The states of buffer handles, and barrier objects. The parts are stated above, each with its rules. -/
def Obligations.BuffersAndBarriers : Prop :=
  Claims.BufferHandles ∧ Claims.Barriers

/-- R95, R286, R287: TGINS inserts a key with its entry, answers 1 where the key is present and 2 where its set is full;
TGLOOK then finds it, and TGDEL removes it. SPALLOC gives the lowest place that no allocation touches, its bytes zero, or
0; SPFREE of it makes it free again. -/
def Obligations.TagsAndScratchpad : Prop :=
  (∀ (s : State) (d a b : XReg), tagReserved (s.me.getX b) = false →
    ((s.cluster s.me.cluster).tag? (s.me.getX a) = none →
      (∀ w, (s.cluster s.me.cluster).freeWay (tagSet (s.me.getX a).toNat) = some w →
        ∃ u t, exec (.tgins d a b) s = .next u ∧ u.me.getX d = 0#64 ∧
          (u.cluster s.me.cluster).tag? (s.me.getX a) = some t ∧ t.e = (s.me.getX b ||| 0x8000000000000000#64) ∧
          t.way = w ∧ (∀ k, k ≠ s.me.getX a → (u.cluster s.me.cluster).tag? k = (s.cluster s.me.cluster).tag? k) ∧
          OnlyX d s.me u.me ∧ u = { s with me := u.me, clusters := u.clusters }) ∧
      ((s.cluster s.me.cluster).freeWay (tagSet (s.me.getX a).toNat) = none → WritesX (.tgins d a b) s d 2#64)) ∧
    ((s.cluster s.me.cluster).tag? (s.me.getX a) ≠ none → WritesX (.tgins d a b) s d 1#64)) ∧
  (∀ (s : State) (d a : XReg),
    WritesX (.tglook d a) s d (((s.cluster s.me.cluster).tag? (s.me.getX a)).map (·.e) |>.getD 0#64) ∧
    ((s.cluster s.me.cluster).tag? (s.me.getX a) = none → WritesX (.tgdel d a) s d 0#64) ∧
    ((s.cluster s.me.cluster).tag? (s.me.getX a) ≠ none → ∃ u, exec (.tgdel d a) s = .next u ∧
      u.me.getX d = (if d = 0 then 0#64 else 1#64) ∧ (u.cluster s.me.cluster).tag? (s.me.getX a) = none ∧
      (∀ k, k ≠ s.me.getX a → (u.cluster s.me.cluster).tag? k = (s.cluster s.me.cluster).tag? k) ∧
      OnlyX d s.me u.me ∧ u = { s with me := u.me, clusters := u.clusters })) ∧
  (∀ (s : State) (d a : XReg) (z : Fin 6), noneOut s → 0 < (s.me.getX a).toNat → (s.me.getX a).toNat ≤ 2 ^ 23 →
    (∀ off, (s.cluster s.me.cluster).place (((s.me.getX a).toNat + 1023) / 1024 * 1024) = some off →
      ∃ u, exec (.spalloc d a z) s = .next u ∧ (d ≠ 0 → u.me.getX d = BitVec.ofNat 64 (0xF1 * 2 ^ 56 + off)) ∧
        (∀ x, padLoc s.me.cluster off ≤ x → x < padLoc s.me.cluster off + ((s.me.getX a).toNat + 1023) / 1024 * 1024 →
          Memory.get u.mem x = 0#8) ∧
        (∀ x, x < padLoc s.me.cluster off ∨ padLoc s.me.cluster off + ((s.me.getX a).toNat + 1023) / 1024 * 1024 ≤ x →
          Memory.get u.mem x = Memory.get s.mem x) ∧
        (∀ y ∈ (s.cluster s.me.cluster).allocs, y.off + y.len ≤ off ∨
          off + ((s.me.getX a).toNat + 1023) / 1024 * 1024 ≤ y.off ∨ y.len = 0) ∧
        (∀ o, o < off → (s.cluster s.me.cluster).padFree o (((s.me.getX a).toNat + 1023) / 1024 * 1024) = false) ∧
        (u.cluster s.me.cluster).padFree off (((s.me.getX a).toNat + 1023) / 1024 * 1024) = false ∧
        u.me.pc = s.me.pc + 8#64 ∧ (∀ r, r ≠ d → u.me.getX r = s.me.getX r)) ∧
    ((s.cluster s.me.cluster).place (((s.me.getX a).toNat + 1023) / 1024 * 1024) = none →
      WritesX (.spalloc d a z) s d 0#64)) ∧
  (∀ (s : State) (a : XReg) (off : Nat) (x : Alloc), off < 2 ^ 23 →
    (s.me.getX a).toNat = 0xF1 * 2 ^ 56 + off → x ∈ (s.cluster s.me.cluster).allocs → x.off = off → x.gang = s.me.gang →
    ∃ u, exec (.spfree a) s = .next u ∧
      (u.cluster s.me.cluster).allocs = (s.cluster s.me.cluster).allocs.filter
        (fun y => !(y.off == off && y.gang == s.me.gang)) ∧
      u.mem = s.mem ∧ u.me.pc = s.me.pc + 8#64 ∧ sameRegisters s.me u.me ∧
      u = { s with me := u.me, clusters := u.clusters })

/-! ### Tensor descriptors and the fabric (R97, R295 to R302, R422 to R424) -/

namespace Sys2Proof.Claims

/-- A fabric instruction: its minor, barrier register, descriptor register, type, rounding and .sat (R298). -/
def fabOf : Instr → Option (Nat × XReg × BRegNo × ETy × Rnd × Bool)
  | .fgath d a ty => some (1, d, a, ty, .rne, false)
  | .fscat d a ty => some (2, d, a, ty, .rne, false)
  | .fscata d a m => some (3, d, a, m.ty, m.rnd, m.sat)
  | .coll d a m => some (4, d, a, m.ty, m.rnd, m.sat)
  | .rput d a ty => some (5, d, a, ty, .rne, false)
  | .rget d a ty => some (6, d, a, ty, .rne, false)
  | _ => none

/-- The barrier that an x register names: none for x0. -/
def barOfX (st : Strand) (d : XReg) : Option Nat := if d = 0 then none else some (st.getX d).toNat

end Sys2Proof.Claims

/-- R295, R296: TDNEW checks the descriptor at an aligned address, writes VALID (bit 7 of FLAGS) as it found and gives the
number of the first condition that fails, 0 where none does. TDSHARD gives the first shard of a member and the number of its
shards. Neither changes another register. -/
def Sys2Proof.Claims.TensorDescriptors : Prop :=
  (∀ (s t u : State) (d : XReg) (a : BRegNo) (off : BitVec 62) (e : Int) (bs : List Byte),
    e = ((s.me.getB a).addr.toNat : Int) + off.toInt → e % 64 = 0 → s.loadE a useLD e 128 0 = .ok (bs, t) →
    t.storeE a useST (e + 7) [BitVec.ofNat 8 (field bs 7 1 % 128 + (if (tensorOf bs).firstFail = 0 then 128 else 0))] 0 =
      .ok u →
    ∃ v, exec (.tdnew d a off) s = .next v ∧ (d ≠ 0 → v.me.getX d = BitVec.ofNat 64 (tensorOf bs).firstFail) ∧
      v.mem = u.mem ∧ v.me.pc = s.me.pc + 16#64 ∧ (∀ r, r ≠ d → v.me.getX r = s.me.getX r) ∧
      sameRegisters { s.me with x := v.me.x, resv := v.me.resv, stream := v.me.stream } v.me ∧ sameOutside s v) ∧
  (∀ (s t : State) (d : XReg) (a : BRegNo) (b c : XReg) (bs : List Byte) (m mm : Nat),
    (s.me.getB a).addr.toNat % 64 = 0 → s.loadE a useLD ((s.me.getB a).addr.toNat : Nat) 128 0 = .ok (bs, t) →
    (tensorOf bs).valid = true → m = (s.me.getX b).toNat → mm = (s.me.getX c).toNat → m < mm → mm ≤ (tensorOf bs).nl →
    ∃ v, exec (.tdshard d a b c) s = .next v ∧
      (d ≠ 0 → v.me.getX d = BitVec.ofNat 64 (firstShard (tensorOf bs).nl m mm +
        (firstShard (tensorOf bs).nl (m + 1) mm - firstShard (tensorOf bs).nl m mm) * 2 ^ 32)) ∧
      v.mem = t.mem ∧ v.me.pc = s.me.pc + 8#64 ∧ (∀ r, r ≠ d → v.me.getX r = s.me.getX r) ∧
      sameRegisters { s.me with x := v.me.x, resv := v.me.resv } v.me ∧ sameOutside s v)

/-- R298, R301: FGATH, FSCAT, FSCATA, COLL, RPUT and RGET of a well-formed exchange descriptor, all bytes admitted, put the
operation in flight with the descriptors as read and the bounds as they stand; with COUNT 0 those that are no collective
arrive at once. RND and SAT are zero but for FSCATA and the sums of COLL (log entry 113). -/
def Sys2Proof.Claims.FabricIssue : Prop :=
  ∀ (s t u : State) (i : Instr) (minor : Nat) (d : XReg) (a : BRegNo) (ty : ETy) (rnd : Rnd) (sat : Bool) (x td : List Byte),
    fabOf i = some (minor, d, a, ty, rnd, sat) → (5 ≤ minor → ty = .n8) → (s.me.getB a).addr.toNat % 64 = 0 →
    s.loadE a useLD ((s.me.getB a).addr.toNat : Nat) 128 0 = .ok (x, t) →
    (minor = 4 → 2 ≤ xKind x → xKind x ≤ 5 → rnd = .rne ∧ sat = false) →
    firstBad (s.xdChecks minor x (xdLate x (tensorOf td))) = none → (minor ≤ 4 → t.loadE (xHighB x) useLD (xTd x : Nat) 128 0 = .ok (td, u)) → (4 < minor → td = [] ∧ u = t) →
    (minor ≤ 4 → (tensorOf td).etype = etyCode ty ∧ firstBad (tdChecks x (tensorOf td)) = none) →
    fabAdmit s.who x (tensorOf td) (s.me.getB (xLowB x)) (s.me.getB (xHighB x)) = none →
    (∀ b, barOfX s.me d = some b → firstFlt (s.barChk b) = none) →
    (xCount x ≠ 0 ∨ minor = 3 ∨ minor = 4 → noneOut s → (s.core s.me.core).entries.length < 31 →
      ∃ v f, exec i s = .next v ∧ v.fabs = s.fabs ++ [f] ∧ f.op = s.nextOp ∧ f.iss = s.issuer ∧ f.xdesc = x ∧ f.tdesc = td ∧
        f.locBound = s.me.getB (xLowB x) ∧ f.idxBound = s.me.getB (xHighB x) ∧ f.ty = ty ∧ f.sat = sat ∧
        f.barrier = barOfX s.me d ∧ f.sentAt = none ∧ f.mine = none ∧ f.issued = s.time ∧ v.mem = u.mem ∧ v.out = s.out ∧ v.me.pc = s.me.pc + 8#64 ∧
        v.me.x = s.me.x ∧ v.me.v = s.me.v ∧ v.me.fstat = s.me.fstat) ∧
    (xCount x = 0 → minor ≠ 3 → minor ≠ 4 → 
      (∀ b, barOfX s.me d = some b →
        u.readable (locOf s.me.core b) 16 = true ∧ (u.barAt s.me.core b).arrive ≠ none) →
      ∃ v, exec i s = .next v ∧ v.fabs = s.fabs ∧ v.me.pc = s.me.pc + 8#64 ∧ v.me.x = s.me.x ∧
        (barOfX s.me d = none → v.mem = u.mem) ∧
        (∀ b o, barOfX s.me d = some b → (u.barAt s.me.core b).arrive = some o →
          v.mem = (u.setBar s.me.core b o).mem))

/-- Tensor descriptors, and putting fabric operations in flight. The parts are stated above, each with its rules. -/
def Obligations.FabricIssue : Prop :=
  Claims.TensorDescriptors ∧ Claims.FabricIssue

namespace Sys2Proof.Claims

/-- Memory once the operation's arrival, if it has a barrier, is made in `t`: the object can be read and takes it. -/
def EndMem (f : FabOp) (t : State) (m : List Host.Cell) : Prop :=
  (f.barrier = none ∧ m = t.mem) ∨ ∃ b o, f.barrier = some b ∧ t.readable (locOf f.iss.core b) 16 = true ∧
    (t.barAt f.iss.core b).arrive = some o ∧ m = (t.setBar f.iss.core b o).mem

/-- The operation has left: none of its entries stays, memory is that of `t` with its arrival, and `msgs` have gone
out behind what `t` has. -/
def Left (s v t : State) (f : FabOp) (msgs : List Out) : Prop :=
  v.fabs = s.fabs.filter (fun g => g.op != f.op) ∧ (∀ e ∈ (v.core f.iss.core).entries, e.op ≠ f.op) ∧
    ∀ m, EndMem f t m → v.mem = m ∧ v.out = t.out ++ msgs

/-- The operation has failed: class 0x52 of cause `k` is pending against its strand, in front, and nothing has arrived. -/
def FabFailed (s v : State) (f : FabOp) (k : Nat) (addr info2 : Word) : Prop :=
  v.fabs = s.fabs.filter (fun g => g.op != f.op) ∧ (∀ e ∈ (v.core f.iss.core).entries, e.op ≠ f.op) ∧
    ∃ p, v.me.pending = s.me.pending ++ [p] ∧ p.flt.cls = 0x52 ∧ p.flt.detail = k ∧ p.flt.faddr = addr ∧ p.flt.info2 = info2

/-- The members' items of a collective. -/
abbrev Items := List (Nat × Nat × List Nat)

/-- This module's message of a collective: its rank, the fields that the members must agree in, its items, whether it has
failed. -/
def contributed (s : State) (f : FabOp) (items : Items) (failed : Bool) : Out :=
  .contribution (xGroup f.xdesc) (xSeq f.xdesc)
    ⟨f.rank s, xOp f.xdesc, xKind f.xdesc, xCount f.xdesc, f.ty, f.rnd, f.sat, f.td.dims f.td.gshape, items, failed⟩

/-- The messages of a scatter's row whose elements all lie on peers: each element at its place, in linear order (R299). -/
def rowMsgs (f : FabOp) (x : Nat) (bs : List Byte) : List Out :=
  (rowPlaces f x).zipIdx.map (fun p => .put (xGroup f.xdesc) p.1.1 (xWin f.xdesc) p.1.2
    ((bs.drop (p.2 * (f.td.eb / 8))).take (f.td.eb / 8)) none)

end Sys2Proof.Claims

/-- R298, R299, R302, R417, R423, R424: how FGATH, FSCAT, RPUT and RGET end, outside a replay and with nothing of the strand
ahead on the ordered flow. FGATH writes row k's bytes, as the peers return them, at LOCAL + k × RB; FSCAT sends every
element of row k to its owner's window at its place there; RPUT sends its local bytes, RGET writes what the peer returned;
a timed put is sent once TIME has reached TREL, not before and after those of an earlier TREL, and bears it as its mark;
its read entry then retires (R112), and untimed frames wait for a timed put that is due.
The operation then leaves and makes one arrival, if it has a barrier. A peer that refuses is cause 18, one that cannot be
reached 17, an index out of range 19, the operation then having performed nothing. The event of an operation is the
model's, and so is the split of what it takes and does into one step (log entry 57). -/
def Sys2Proof.Claims.FabricProgress : Prop :=
  ∀ (s : State) (f : FabOp), s.fab? f.op = some f → s.replay = none → s.logArea = none → s.flowBehind f = false →
    f.evs = 0#7 →
    (s.timedDue = true → f.collective = false → f.timed = false → ∀ peer p,
      exec (.fabricOpComplete f.op peer) s = .next s ∧ exec (.fabricOpFailed f.op p) s = .next s) ∧
    (s.timedDue = false →
      (∀ (xs : List Nat) (peer : List Byte) (st : Nat → State), xOp f.xdesc = 1 → readIdx s f = .ok (xs, st 0) →
        (∀ x ∈ xs, ∀ p ∈ rowPlaces f x, p.1 ≠ f.rank s) → peer.length = xs.length * f.td.rowBytes →
        f.td.eb % 8 = 0 →
        (∀ k, k < xs.length → engWrite (st k) f.iss.who f.iss.sid f.locBound (xLocal f.xdesc + k * f.td.rowBytes : Nat)
          ((peer.drop (k * f.td.rowBytes)).take f.td.rowBytes) = (st (k + 1), none)) →
        ∃ v, exec (.fabricOpComplete f.op peer) s = .next v ∧ Left s v (st xs.length) f []) ∧
      (∀ (xs : List Nat) (st : Nat → State), xOp f.xdesc = 2 → readIdx s f = .ok (xs, st 0) →
        (∀ x ∈ xs, ∀ p ∈ rowPlaces f x, p.1 ≠ f.rank s) →
        (∀ k x, xs[k]? = some x → ∃ bs t, engRead (st k) f.iss.who f.locBound (xLocal f.xdesc + k * f.td.rowBytes : Nat)
          f.td.rowBytes = .ok (bs, t) ∧ st (k + 1) = { t with out := t.out ++ rowMsgs f x bs }) →
        ∃ v, exec (.fabricOpComplete f.op []) s = .next v ∧ Left s v (st xs.length) f []) ∧
      (∀ (xs : List Nat) (t u : State) (peer : List Byte), xOp f.xdesc = 1 ∨ xOp f.xdesc = 2 → readIdx s f = .ok (xs, t) →
        peer.length = peerBytes s f →
        (if xOp f.xdesc = 1 then gather f (f.rank s) t (f.served peer) 0 xs
          else scatter f (f.rank s) t (f.served peer) 0 xs) = (u, none) →
        ∃ v, exec (.fabricOpComplete f.op peer) s = .next v ∧ ∀ m, EndMem f u m → v.mem = m) ∧
      (∀ (bs : List Byte) (t : State), xOp f.xdesc = 5 → xTimed f.xdesc = false → xPeer f.xdesc ≠ f.rank s →
        engRead s f.iss.who f.locBound (xLocal f.xdesc : Nat) (xCount f.xdesc) = .ok (bs, t) →
        ∃ v, exec (.fabricOpComplete f.op []) s = .next v ∧
          Left s v t f [.put (xGroup f.xdesc) (xPeer f.xdesc) (xWin f.xdesc) (xDst f.xdesc) bs none]) ∧
      (∀ (peer : List Byte) (t : State), xOp f.xdesc = 6 → xPeer f.xdesc ≠ f.rank s → peer.length = xCount f.xdesc →
        engWrite s f.iss.who f.iss.sid f.locBound (xLocal f.xdesc : Nat) peer = (t, none) →
        ∃ v, exec (.fabricOpComplete f.op peer) s = .next v ∧ Left s v t f [])) ∧
    (∀ (bs : List Byte) (t : State), xOp f.xdesc = 5 → xTimed f.xdesc = true → f.sentAt = none →
      ((BitVec.ofNat 64 (xTrel f.xdesc)).toNat ≤ s.time.toNat → xPeer f.xdesc ≠ f.rank s →
        (∀ g ∈ s.fabs, xOp g.xdesc = 5 → xTimed g.xdesc = true → g.sentAt = none → xTrel f.xdesc ≤ xTrel g.xdesc) →
        engRead s f.iss.who f.locBound (xLocal f.xdesc : Nat) (xCount f.xdesc) = .ok (bs, t) →
        putDetail s { f with sentAt := some s.time, resent := false } = none →
        ∃ v, exec (.timedPutRelease f.op false) s = .next v ∧ v.mem = t.mem ∧
          v.out = t.out ++ [.put (xGroup f.xdesc) (xPeer f.xdesc) (xWin f.xdesc) (xDst f.xdesc) bs
            (some (BitVec.ofNat 64 (xTrel f.xdesc)))] ∧
          v.fab? f.op = some { f with sentAt := some s.time, resent := false } ∧
          ∀ x ∈ (v.core f.iss.core).entries, x.op = f.op → x.write = true) ∧
      (s.time.toNat < (BitVec.ofNat 64 (xTrel f.xdesc)).toNat → ∀ r, exec (.timedPutRelease f.op r) s = .next s)) ∧
    (xOp f.xdesc = 5 → xTimed f.xdesc = true → f.sentAt ≠ none →
      ∃ v, exec (.fabricOpComplete f.op []) s = .next v ∧ Left s v s f []) ∧
    (f.iss.sid = some s.me.id → s.me.exists? = true →
      (∀ (refused : Bool) (bs : List Byte) (t : State), s.timedDue = false → xOp f.xdesc = 5 → xTimed f.xdesc = false →
        xPeer f.xdesc ≠ f.rank s → engRead s f.iss.who f.locBound (xLocal f.xdesc : Nat) (xCount f.xdesc) = .ok (bs, t) →
        ∃ v, exec (.fabricOpFailed f.op ⟨refused, 0, []⟩) s = .next v ∧ v.mem = t.mem ∧ v.out = t.out ∧
          FabFailed s v f (if refused then 18 else 17) (BitVec.ofNat 64 (xDst f.xdesc)) 0#64) ∧
      (∀ (refused : Bool), s.timedDue = false → xOp f.xdesc = 6 → xPeer f.xdesc ≠ f.rank s → 0 < xCount f.xdesc →
        ∃ v, exec (.fabricOpFailed f.op ⟨refused, 0, []⟩) s = .next v ∧ v.mem = s.mem ∧ v.out = s.out ∧
          FabFailed s v f (if refused then 18 else 17) (BitVec.ofNat 64 (xDst f.xdesc)) 0#64) ∧
      (∀ (refused : Bool) (k : Nat) (bs : List Byte) (t : State), s.timedDue = false →
        xOp f.xdesc = 1 ∨ xOp f.xdesc = 2 → k < xCount f.xdesc →
        engReads f.iss.who f.idxBound s (idxReads f.xdesc) = .ok (bs, t) → field f.xdesc 5 1 % 2 = 0 →
        (∀ j, j < k → 0 ≤ sfield bs (4 * j) 4 ∧ sfield bs (4 * j) 4 < (f.td.gshape.getD 0 0 : Nat)) →
        (sfield bs (4 * k) 4 < 0 ∨ (f.td.gshape.getD 0 0 : Nat) ≤ sfield bs (4 * k) 4) →
        ∃ v, exec (.fabricOpFailed f.op ⟨refused, 0, []⟩) s = .next v ∧ v.mem = s.mem ∧ v.out = s.out ∧
          FabFailed s v f 19 (BitVec.ofNat 64 (xIdx f.xdesc + 4 * k)) (BitVec.ofNat 64 k)))

/-- R300, R301, R112, R417, R422, R423: how FSCATA and COLL end. This module reads its contribution, whose read entry then
retires, and sends it to the other members; once every member's has arrived and agrees, they are applied: a COLL writes its
result at DST, an FSCATA the sums at its own locations, each location's contributions in ascending order of their source
index. The other members hear the flags that this raises here, and the union of the members' flags is raised on the strand
as the operation leaves and makes its one arrival. A member that disagrees or has failed is cause 20 with SEQ, this module's
own failure its own cause, and a module that had contributed nothing sends that it has failed; a peer that refuses is cause
18, one that cannot be reached 17. Nothing is applied then. Events and their split as log entry 57 says; what a COLL
reports of a peer that refuses as log entry 150 says. -/
def Sys2Proof.Claims.CollectiveProgress : Prop :=
  (∀ (s : State) (f : FabOp), s.fab? f.op = some f → s.replay = none → s.logArea = none → s.flowBehind f = false →
    xOp f.xdesc = 3 ∨ xOp f.xdesc = 4 →
    (∀ (others : List Contribution) (mine : Items) (t : State), f.sentAt = none → f.mine = none → s.timedDue = false →
      1 < f.mm → ownItems s f = .ok (mine, t) → allArrived f others = false →
      ∃ v, exec (.collectiveApply f.op others) s = .next v ∧ v.mem = t.mem ∧
        v.fab? f.op = some { f with mine := some mine } ∧
        (∀ x ∈ (v.core f.iss.core).entries, x.op = f.op → x.write = true) ∧
        v.out = t.out ++ [contributed s f mine false]) ∧
    (∀ (others : List Contribution) (mine : Items) (u : State) (ev : Ev), f.sentAt = none → f.mine = some mine →
      s.timedDue = false → allArrived f others = true →
      (∀ c ∈ others, c.rank ≠ f.rank s → agrees f c = true ∧ c.failed = false) →
      (xOp f.xdesc = 4 → ev = (collResult f (allItems (f.rank s) mine others)).2 ∧
        engWrite s f.iss.who f.iss.sid f.locBound (xDst f.xdesc : Nat)
          ((collResult f (allItems (f.rank s) mine others)).1.flatMap (toLE (sbytes f.ty))) = (u, none)) →
      (xOp f.xdesc = 3 → applyScatter f (sortItems (allItems (f.rank s) mine others)) s 0#7
        (ownTargets f (f.rank s) (allItems (f.rank s) mine others)) = ((u, ev), none)) →
      ∃ v, exec (.collectiveApply f.op others) s = .next v ∧ v.mem = u.mem ∧
        v.fab? f.op = some { f with sentAt := some s.time, evs := ev } ∧
        v.out = u.out ++ (if f.mm ≤ 1 then [] else [.collFlags (xGroup f.xdesc) (xSeq f.xdesc) (f.rank u) ev])) ∧
    (∀ (peers : List Byte) (ev : Ev), f.sentAt ≠ none → peers.length = f.mm - 1 →
      ev = peers.foldl (fun e b => e ||| b.setWidth 7) f.evs →
      ev = 0#7 ∨ f.iss.sid = some s.me.id ∧ s.me.exists? = true ∧ s.me.handler = none ∧ s.me.live ≠ .saved →
      ∃ v, exec (.fabricOpComplete f.op peers) s = .next v ∧ Left s v s f [] ∧
        (f.iss.sid = some s.me.id → s.me.exists? = true → v.me.fstat = s.me.fstat ||| ev.setWidth 32)) ∧
    (f.iss.sid = some s.me.id → s.me.exists? = true → f.sentAt = none → s.timedDue = false →
      (∀ (others : List Contribution) (r : Items × State), ownItems s f = .ok r →
        (∃ c ∈ others, c.rank ≠ f.rank s ∧ (c.failed = true ∨ agrees f c = false)) →
        ∃ v, exec (.collectiveAbort f.op others) s = .next v ∧ v.mem = s.mem ∧
          FabFailed s v f 20 0#64 (BitVec.ofNat 64 (xSeq f.xdesc)) ∧
          v.out = s.out ++ (if f.mine = none ∧ 1 < f.mm then [contributed s f [] true] else [])) ∧
      (∀ (others : List Contribution) (e : FabFail), f.mine = none → ownItems s f = .error e → e.own = none →
        ∃ v, exec (.collectiveAbort f.op others) s = .next v ∧ v.mem = s.mem ∧
          FabFailed s v f e.cause (BitVec.ofNat 64 e.addr) (BitVec.ofNat 64 e.info2) ∧
          v.out = s.out ++ (if 1 < f.mm then [contributed s f [] true] else [])) ∧
      (∀ (p : PeerFailure) (mine : Items), f.mine = some mine → 1 < f.mm →
        (xOp f.xdesc = 4 → ∃ v, exec (.fabricOpFailed f.op p) s = .next v ∧ v.mem = s.mem ∧ v.out = s.out ∧
          FabFailed s v f (if p.refused then 18 else 17) 0#64 0#64) ∧
        (∀ off k, xOp f.xdesc = 3 → (peerItems s f mine)[p.reach]? = some (off, k) →
          ∃ v, exec (.fabricOpFailed f.op p) s = .next v ∧ v.mem = s.mem ∧ v.out = s.out ∧
            FabFailed s v f (if p.refused then 18 else 17) (BitVec.ofNat 64 off) (BitVec.ofNat 64 k))))) ∧
  (∀ cs : Items, (sortItems cs).Perm cs ∧ (sortItems cs).Pairwise (fun a b => a.1 ≤ b.1)) ∧
  (∀ (f : FabOp) (v a : Nat) (i l : Nat) (cs : Items),
    (indexMerge f [v] ((i, l, [a]) :: cs)).1 = (indexMerge f [(sumOp f.ty f.rnd f.sat v a).1] cs).1)

/-- How fabric operations end: puts, gets, timed puts, collectives and failures. The parts are stated above, each with its
rules. -/
def Obligations.FabricProgress : Prop :=
  Claims.FabricProgress ∧ Claims.CollectiveProgress

/-! ### The format walker (R324 to R328, R429, R446) -/

namespace Sys2Proof.Claims

/-- The walker of the cluster in front. -/
def walkerNow (s : State) : Option WState := (s.cluster s.wfront).wst

/-- The state with another walker, and memory as in `m`. -/
def walked (s u : State) (w : WState) (m : List Host.Cell) : Prop :=
  walkerNow u = some w ∧ u.mem = m ∧ u.me.x = s.me.x ∧ u.me.pc = s.me.pc ∧ (∀ k, k ≠ s.wfront → u.cluster k = s.cluster k)

/-- Where a walker word that reads no memory goes on, and what it leaves in the registers and the cursor (R327): the word's
number relative to its own, the register and value written, row and column. -/
def wordOf (w : WState) : Instr → Option (Int × WReg × Word × Nat × Nat)
  | .wli d i => some (1, d, i.signExtend 64, w.row, w.col)
  | .wadd d a b i => some (1, d, w.get a + (w.get b + i.signExtend 64), w.row, w.col)
  | .wsub d a b i => some (1, d, w.get a - (w.get b + i.signExtend 64), w.row, w.col)
  | .wshl d a b i => some (1, d, w.get a <<< ((w.get b + i.signExtend 64).toNat % 64), w.row, w.col)
  | .wand d a b i => some (1, d, w.get a &&& (w.get b + i.signExtend 64), w.row, w.col)
  | .wseek a => some (1, 0, 0#64, w.row, (w.get a).toNat)
  | .wrow a => some (1, 0, 0#64, (w.get a).toNat, 0)
  | .wbr i => some (i.toInt, 0, 0#64, w.row, w.col)
  | .wbeq a b i => some (if w.get a = w.get b then i.toInt else 1, 0, 0#64, w.row, w.col)
  | .wblt a b i => some (if (w.get a).slt (w.get b) then i.toInt else 1, 0, 0#64, w.row, w.col)
  | .wloop a i => some (if a ≠ 0 ∧ w.get a ≠ 1#64 then i.toInt else 1, a, w.get a - 1#64, w.row, w.col)
  | _ => none

end Sys2Proof.Claims

/-- R326 to R328: the sixteen walker words. WLI, WADD, WSUB, WSHL, WAND, WSEEK, WROW, WBR, WBEQ, WBLT and WLOOP change
registers, cursor and place alone, and a place outside the program fails the run with cause 22; w0 reads zero. WEMIT puts one
code at the cursor; WLDIX and WLDVL read an input region; WFLUSH writes the tile's 16 KiB and clears it; WEND frees the
walker, makes the run's arrival and gives an OUTK 2 run's plane to its place in the matrix queue. WSEEK and WROW check no
bound, which the cursor meets at its next use (log entry 58), and a failure that no address belongs to has FADDR 0 (log
entry 59). -/
def Obligations.WalkerWords : Prop :=
  ∀ (s : State) (w : WState), s.walking = some w →
    (∀ (i : Instr) (rel : Int) (d : WReg) (v : Word) (row col : Nat), wordOf w i = some (rel, d, v, row, col) →
      ∃ u x, exec i s = .next u ∧ walked s u x s.mem ∧ x.get d = (if d = 0 then 0#64 else v) ∧
        (∀ r, r ≠ d → x.get r = w.get r) ∧ x.row = row ∧ x.col = col ∧ x.tile = w.tile ∧ x.flushes = w.flushes ∧
        (0 ≤ w.pc + rel → w.pc + rel < w.run.prog.length → x.pc = w.pc + rel ∧ x.fail = none) ∧
        (w.pc + rel < 0 ∨ (w.run.prog.length : Int) ≤ w.pc + rel → x.fail = some (22, 0#64))) ∧
    (0 ≤ w.pc + 1 → w.pc + 1 < (w.run.prog.length : Int) →
      (∀ (a : WReg), w.row < 64 → (w.col + 1) * sbits w.run.otype ≤ 2048 →
        ∃ u x, exec (.wemit a) s = .next u ∧ walked s u x s.mem ∧ x.pc = w.pc + 1 ∧ x.row = w.row ∧ x.col = w.col + 1 ∧
          (∀ k, k < 131072 → x.tile.getLsbD k =
            if 2048 * w.row + w.col * sbits w.run.otype ≤ k ∧ k < 2048 * w.row + (w.col + 1) * sbits w.run.otype
            then (w.get a).getLsbD (k - (2048 * w.row + w.col * sbits w.run.otype)) else w.tile.getLsbD k)) ∧
      (∀ (a : WReg), 64 ≤ w.row ∨ 2048 < (w.col + 1) * sbits w.run.otype →
        ∃ u x, exec (.wemit a) s = .next u ∧ walked s u x s.mem ∧ x.fail = some (23, 0#64)) ∧
      (∀ (d a b : WReg) (sz : BitVec 2) (off : BitVec 14) (o : Nat) (bs : List Byte) (t : State), a.val < w.run.nin →
        o = (w.get b + off.setWidth 64).toNat → o + 2 ^ sz.toNat ≤ w.run.inlens.getD a.val 0 →
        engRead s w.run.iss.who (w.run.inbnds.getD a.val Bound.zero) (w.run.inaddrs.getD a.val 0 + o : Nat) (2 ^ sz.toNat) =
          .ok (bs, t) →
        ∃ u x, exec (.wldix d a b sz off) s = .next u ∧ walked s u x t.mem ∧ x.pc = w.pc + 1 ∧
          x.get d = (if d = 0 then 0#64 else BitVec.ofNat 64 (ofLE bs)) ∧ (∀ r, r ≠ d → x.get r = w.get r)) ∧
      (∀ (d a b : WReg) (sz : BitVec 2) (off : BitVec 14), w.run.nin ≤ a.val →
        ∃ u x, exec (.wldix d a b sz off) s = .next u ∧ walked s u x s.mem ∧ x.fail = some (26, 0#64)) ∧
      (∀ (a b : WReg) (off : BitVec 14) (o : Nat) (bs : List Byte) (t : State), a.val < w.run.nin →
        o = (w.get b + off.setWidth 64).toNat → o + 64 ≤ w.run.inlens.getD a.val 0 →
        engRead s w.run.iss.who (w.run.inbnds.getD a.val Bound.zero) (w.run.inaddrs.getD a.val 0 + o : Nat) 64 = .ok (bs, t) →
        w.row < 64 → w.col * sbits w.run.otype % 8 = 0 → w.col * sbits w.run.otype + 512 ≤ 2048 →
        ∃ u x, exec (.wldvl a b off) s = .next u ∧ walked s u x t.mem ∧ x.pc = w.pc + 1 ∧ x.row = w.row ∧
          x.col = w.col + 512 / sbits w.run.otype ∧
          (∀ k, k < 131072 → x.tile.getLsbD k =
            if 2048 * w.row + w.col * sbits w.run.otype ≤ k ∧ k < 2048 * w.row + w.col * sbits w.run.otype + 512
            then (ofLE bs).testBit (k - (2048 * w.row + w.col * sbits w.run.otype)) else w.tile.getLsbD k)) ∧
      (∀ (t : State), w.run.outk = 0 → 16384 * (w.flushes + 1) ≤ w.run.outlen →
        engWrite s w.run.iss.who w.run.iss.sid w.run.obnd (w.run.out + 16384 * w.flushes : Nat)
          (toLE 16384 w.tile.toNat) = (t, none) →
        ∃ u x, exec .wflush s = .next u ∧ walked s u x t.mem ∧ x.pc = w.pc + 1 ∧ x.tile = 0#131072 ∧ x.row = 0 ∧ x.col = 0 ∧
          x.flushes = w.flushes + 1)) ∧
    (∃ u, exec .wend s = .next u ∧ walkerNow u = none ∧ (∀ e ∈ (u.core w.run.iss.core).entries, e.op ≠ w.run.op) ∧
      (w.run.barrier = none → u.mem = s.mem) ∧
      (∀ b o, w.run.barrier = some b → s.readable (locOf w.run.iss.core b) 16 = true →
        (s.barAt w.run.iss.core b).arrive = some o → u.mem = (s.setBar w.run.iss.core b o).mem) ∧
      (∀ b, w.run.outk = 1 → (s.cluster s.wfront).buf? w.run.out = some b → w.run.barrier = none →
        (u.cluster s.wfront).buf? w.run.out = some { b with st := 2 }) ∧
      (∀ e ∈ s.me.mqueue, w.run.outk = 2 → w.run.iss.sid = some s.me.id → s.me.exists? = true → e.op = w.run.op →
        w.run.barrier = none → { e with ready := true, img := some (w.img.getD w.tile) } ∈ u.me.mqueue))

/-- R325, R326, R429: WKRUN of a well-formed run block, its inputs and output admitted and fewer than eight runs held, queues
a run under the next ticket, which x[d] receives; the walker takes the runs in order, with every register zero but w1; a run
that has failed frees the walker with no arrival, and class 0x53 is pending against its strand. WKWAIT goes on when its run
is complete and is blocked before; WKSTAT gives 0 queued, 1 running, 2 complete, and for a ticket that no run has had a value
this statement says nothing of. -/
def Obligations.WalkerControl : Prop :=
  (∀ (s t u : State) (d : XReg) (a : BRegNo) (b c : XReg) (blk words : List Byte), (s.me.getB a).addr.toNat % 64 = 0 →
    s.loadE a useER ((s.me.getB a).addr.toNat : Nat) 128 0 = .ok (blk, t) → firstBad (wkChecks blk) = none →
    (field blk 5 1 = 0 ∨ (field blk 5 1 = 1 ∧ ∃ y, s.ownBuf (field blk 0x10 8) = .ok y ∧ y.st = 0) ∨
      (field blk 5 1 = 2 ∧ s.me.inMatrix = true ∧ s.me.mqueue.length < 64)) →
    t.loadE a useER ((s.me.getB a).addr.toNat + 0x80 : Nat) (4 * field blk 8 2) 0 = .ok (words, u) →
    wkAdmit s.who blk s.me.getB = none → (∀ p, barOfX s.me c = some p → firstFlt (s.barChk p) = none) →
    (s.cluster s.me.cluster).runsHeld < 8 → noneOut s → (s.core s.me.core).entries.length < 31 →
    ∃ v r, exec (.wkrun d a b c) s = .next v ∧
      (v.cluster s.me.cluster).runs = (s.cluster s.me.cluster).runs ++ [r] ∧
      (v.cluster s.me.cluster).tickets = (s.cluster s.me.cluster).tickets + 1 ∧
      r.ticket = (s.cluster s.me.cluster).tickets + 1 ∧ r.w1 = s.me.getX b ∧ r.barrier = barOfX s.me c ∧
      r.nin = field blk 4 1 ∧ r.out = field blk 0x10 8 ∧ r.outlen = field blk 0x18 8 ∧ r.iss = s.issuer ∧
      r.prog = (List.range (field blk 8 2)).map (fun j => BitVec.ofNat 32 (field words (4 * j) 4)) ∧
      (field blk 5 1 = 1 → ∃ y, (v.cluster s.me.cluster).buf? (field blk 0x10 8) = some y ∧ y.st = 1) ∧
      (field blk 5 1 = 2 → ∃ m, v.me.mqueue = s.me.mqueue ++ [m] ∧ m.ready = false ∧ m.op = r.op) ∧
      (d ≠ 0 → v.me.getX d = BitVec.ofNat 64 r.ticket) ∧ (∀ q, q ≠ d → v.me.getX q = s.me.getX q) ∧ v.mem = u.mem ∧
      v.me.pc = s.me.pc + 8#64 ∧ v.me.v = s.me.v ∧ v.me.fstat = s.me.fstat) ∧
  (∀ (s : State) (a d : XReg), ∀ n, (s.cluster s.me.cluster).runState (s.me.getX a).toNat = n →
    (n = some 2 → ∃ u, exec (.wkwait a) s = .next u ∧ u.me.pc = s.me.pc + 8#64 ∧
      sameRegisters { s.me with stream := u.me.stream } u.me ∧ sameModule s u) ∧
    (n ≠ some 2 → exec (.wkwait a) s = .next (s.setMe { s.me with blocked := some (.wkwait a) })) ∧
    (∀ k, n = some k → WritesX (.wkstat d a) s d (BitVec.ofNat 64 k)) ∧
    (∃ u, exec (.wkstat d a) s = .next u ∧ u.me.pc = s.me.pc + 8#64 ∧ OnlyX d s.me u.me ∧
      u = { s with me := u.me, fresh := u.fresh })) ∧
  (∀ (s : State) (k : Nat) (r : WRun) (rest : List WRun), (s.cluster k).wst = none → (s.cluster k).runs = r :: rest →
    ∃ u w, exec (.walkerRunStart k) s = .next u ∧ (u.cluster k).wst = some w ∧ (u.cluster k).runs = rest ∧ w.run = r ∧
      w.get 1 = r.w1 ∧ (∀ q, q ≠ 1 → w.get q = 0#64) ∧ w.pc = 0 ∧ w.tile = 0#131072 ∧ w.row = 0 ∧ w.col = 0 ∧
      w.fail = none ∧ u = { s with clusters := u.clusters }) ∧
  (∀ (s : State) (k : Nat) (w : WState) (cause : Nat) (addr : Word), (s.cluster k).wst = some w →
    w.fail = some (cause, addr) → w.run.outk = 0 → w.run.iss.sid = some s.me.id → s.me.exists? = true →
    ∃ u p, exec (.walkerRunFailed k) s = .next u ∧ (u.cluster k).wst = none ∧ u.mem = s.mem ∧
      u.me.pending = s.me.pending ++ [p] ∧ p.flt.cls = 0x53 ∧ p.flt.detail = cause ∧ p.flt.faddr = addr)

/-! ### The tree engine (R305 to R316, R425 to R427) -/

namespace Sys2Proof.Claims

/-- A tree instruction: the bound register of its descriptor, and its operands (R310). -/
def treeOf (st : Strand) : Instr → Option (BRegNo × Word × Word)
  | .trinit _ a => some (a, 0#64, 0#64)
  | .trdesc _ a => some (a, 0#64, 0#64)
  | .trbatch _ a b c | .trexp _ a b c | .trback a b c _ | .trread _ a b c _ => some (a, st.getX b, st.getX c)
  | .trroot a b => some (a, st.getX b, 0#64)
  | _ => none

/-- A request's accesses from its descriptor's bound register. -/
def at' (st : Strand) (a : BRegNo) : TrAt := ⟨a, st.getB a, (st.getB a).addr.toNat⟩

end Sys2Proof.Claims

/-- R305, R310: TRINIT, TRDESC, TRBATCH, TREXP, TRBACK, TRROOT and TRREAD at an aligned, readable descriptor, with their
bounds in order and none of the strand's transfers out, hand a request with their operands to the engine of the strand's
cluster; bounds that are not are refused at issue. The strand stays at the instruction and is not ready until the
request has been performed. Its performance completes it: the register receives the result and the strand goes on; a
refusal is taken at the instruction from the state before. -/
def Sys2Proof.Claims.TreeRequests : Prop :=
  (∀ (s t : State) (i : Instr) (a : BRegNo) (b c : Word) (d : TDesc), treeOf s.me i = some (a, b, c) → s.me.awaiting = false →
    (s.me.getB a).addr.toNat % 64 = 0 → s.engineOut = false → (at' s.me a).descriptor s = .ok (d, t) →
    (∀ f, (at' s.me a).admits t i d b.toNat c.toNat = .error f → exec i s = .next (s.takeFault f s.me.pc 0)) ∧
    ((at' s.me a).admits t i d b.toNat c.toNat = .ok () → noneOut s → (s.core s.me.core).entries.length < 31 →
      (at' s.me a).waits t i d c.toNat = false →
    ∃ u, exec i s = .next u ∧ (u.cluster s.me.cluster).reqs = (s.cluster s.me.cluster).reqs ++
        [⟨i, s.me.id, t.nextOp, (s.me.getB a).addr.toNat, s.me.getB a, b, c⟩] ∧
      u.me.awaiting = true ∧ u.me.hold = some i ∧ u.me.ready = false ∧ u.me.pc = s.me.pc ∧
      u.me.x = s.me.x ∧ u.mem = t.mem)) ∧
  (∀ (s : State) (r : TreeReq) (z : State), s.me.exists? = true →
    (s.cluster s.me.cluster).reqs.find? (fun q => q.sid == s.me.id) = some r →
    z = ((s.setCluster s.me.cluster { s.cluster s.me.cluster with
      reqs := (s.cluster s.me.cluster).reqs.filter (fun q => q.sid != s.me.id) }).retireOp s.me.core r.op).setMe
        { s.me with awaiting := false, hold := none } →
    (∀ d v t, r.perform z = .ok (.done d v t) → ∃ u, exec (.treeRequestPerformed s.me.id) s = .next u ∧
      u.me.getX d = (if d = 0 then 0#64 else v) ∧ (∀ q, q ≠ d → u.me.getX q = t.me.getX q) ∧
      u.me.pc = t.me.pc + 8#64 ∧ u.mem = t.mem) ∧
    (∀ f, r.perform z = .error f → exec (.treeRequestPerformed s.me.id) s = .next (z.takeFault f s.me.pc 0)) ∧
    (r.perform z = .ok .wait →
      exec (.treeRequestPerformed s.me.id) s = .next (z.setMe { z.me with blocked := some r.instr })))

namespace Sys2Proof.Claims

/-- Is a range in the tree's descriptor or its pool. -/
def treeRange (da : Nat) (d : TDesc) (a n : Nat) : Prop :=
  (da ≤ a ∧ a + n ≤ da + 64) ∨ (d.pool ≤ a ∧ a + n ≤ d.pool + 32 * d.pooln)

/-- The engine may use the descriptor and the pool, which are readable and lie apart, and a buffer of `len` bytes at `c` for
one kind of access: their pages are translated and marked, address by address to the bytes `bs`, and stay so whatever the
bytes themselves come to hold. No checkpoint area keeps an LDIRTY. -/
structure TreeSteady (s : State) (w : Who) (half : Bool) (bnd : Bound) (da : Nat) (d : TDesc) (bs : Nat → Byt) (bn : Need)
    (c len : Nat) : Prop where
  ok : ∀ u : State,
    u = { s with
      me := u.me, mem := u.mem, dirtyArmed := u.dirtyArmed, coh := u.coh, image := u.image, strands := u.strands,
      clusters := u.clusters, launches := u.launches, queues := u.queues } →
    u.me = { s.me with resv := u.me.resv, stream := u.me.stream } →
    (∀ k, u.cluster k = { s.cluster k with recls := (u.cluster k).recls }) →
    (∀ x, (∀ a, treeRange da d a 1 ∨ c ≤ a ∧ a < c + len → (bs a).loc ≠ x) → Memory.get u.mem x = Memory.get s.mem x) →
    ∀ need a n, treeRange da d a n ∨ need = bn ∧ c ≤ a ∧ a + n ≤ c + len →
      resolve w need half (bnd.addrs a n) u none [] = .ok ((List.range n).map (fun k => bs (a + k)), u)
  inj : ∀ a b, treeRange da d a 1 ∨ c ≤ a ∧ a < c + len → treeRange da d b 1 ∨ c ≤ b ∧ b < c + len →
    (bs a).loc = (bs b).loc → a = b
  bad : s.bad = []
  area : s.ckArea = none
  apart : da + 64 ≤ d.pool ∨ d.pool + 32 * d.pooln ≤ da
  buffer : ∀ a, c ≤ a → a < c + len → ¬ treeRange da d a 1

/-- The bytes that `n` addresses hold. -/
def bytesAt (s : State) (bs : Nat → Byt) (a n : Nat) : List Byte :=
  (List.range n).map (fun k => Memory.get s.mem (bs (a + k)).loc)

/-- The descriptor (R306) and a node record (R307) as memory holds them. -/
def descAt (s : State) (bs : Nat → Byt) (da : Nat) : TDesc := tdescOf (bytesAt s bs da 64)
def nodeAt (s : State) (d : TDesc) (bs : Nat → Byt) (i : Nat) : TNode := tnodeOf (bytesAt s bs (d.pool + 32 * i) 32)

/-- `t` differs from `s` in memory by the descriptor, which is now `d'`, by the nodes listed, and by the addresses `wr`. -/
structure TreeIs (s t : State) (da : Nat) (d : TDesc) (bs : Nat → Byt) (wr : Nat → Prop) (d' : TDesc)
    (ns : List (Nat × TNode)) : Prop where
  desc : descAt t bs da = d'
  nodes : ∀ p ∈ ns, nodeAt t d bs p.1 = p.2
  others : ∀ i, i < d.pooln → (∀ p ∈ ns, p.1 ≠ i) → nodeAt t d bs i = nodeAt s d bs i
  elsewhere : ∀ x, (∀ a, treeRange da d a 1 ∨ wr a → (bs a).loc ≠ x) → Memory.get t.mem x = Memory.get s.mem x

/-- A chain of nodes by NEXT, from one index on (R307). -/
def Chained (f : Nat → TNode) : Nat → List Nat → Prop
  | _, [] => True
  | i, j :: l => j = i ∧ Chained f (f j).next l

/-- A way from a node to the root by PARENT (R314). -/
def RootPath (f : Nat → TNode) : List Nat → Prop
  | [] => False
  | [i] => (f i).fl.testBit 0 = true
  | i :: j :: l => (f i).fl.testBit 0 = false ∧ (f i).parent = j ∧ RootPath f (j :: l)

/-- The code of a descent's end at a node of a STATE (R309): NEW, COLLIDE, or TERMINAL, which other states give too
(log entry 61). -/
def endCode (st : Nat) : Nat := if st = 1 then 0 else if st = 2 then 1 else 2

/-- A node once a descent has ended at it. -/
def ended (n : TNode) : TNode := { n with vloss := n.vloss + 1, st := if n.st = 1 then 2 else n.st }

/-- A node once TRBACK has passed it (R314). -/
def backed (n : TNode) (mode : Nat) (v : Int) : TNode :=
  { n with
    n := if mode = 0 then n.n + 1 else n.n, w := if mode = 0 then n.w + v else n.w, vloss := n.vloss - 1
    st := if mode = 2 ∧ n.st = 2 ∧ n.vloss = 1 then 1 else n.st }

/-- The engine performs a request of the strand in front: register `x` receives `v`. -/
def Performs (s : State) (op da : Nat) (bnd : Bound) (i : Instr) (b c : Word) (x : XReg) (v : Word) (t : State) : Prop :=
  TreeReq.perform ⟨i, s.me.id, op, da, bnd, b, c⟩ s = .ok (.done x v t)

end Sys2Proof.Claims

/-- R309, R311, R312: what performed requests do. TRINIT of a good descriptor gives 0, makes node 0 the root, a lone leaf, and
ends the tree's reclamations; of a bad one it gives 1 and clears VALID. TRDESC at a root that is not expanded ends there;
at an expanded one it goes on to the child of the highest score, the lowest k of equal ones, and ends there if that is not
expanded. TRBATCH makes its descents one after another and writes their result words; every descent adds a virtual loss to
each node it visits. -/
def Sys2Proof.Claims.TreeOperations : Prop :=
  ∀ (s : State) (a : BRegNo) (bnd : Bound) (da op : Nat) (d : TDesc) (bs : Nat → Byt) (c : Word) (len : Nat) (r : TNode),
    TreeSteady s s.who false bnd da d bs .write c.toNat len → (∀ e n, treeRange da d e n → bnd.refuses useTR e n = none) →
    d = descAt s bs da → r = nodeAt s d bs d.root →
    (∀ x, d.ok = false → ∃ t, Performs s op da bnd (.trinit x a) 0#64 0#64 x 1#64 t ∧
      TreeIs s t da d bs (fun _ => False) { d with flags := d.flags % 128 } []) ∧
    (∀ x, d.ok = true → ∃ t, Performs s op da bnd (.trinit x a) 0#64 0#64 x 0#64 t ∧
      TreeIs s t da d bs (fun _ => False)
        { d with bump := 1, fcnt := d.pooln - 1, root := 0, fhead := 0, ftail := 0, flags := d.flags % 2 + 128 }
        [(0, ⟨0, 0, 0, 65535, 0, 0, 0, 0, 1, 1⟩)] ∧
      (bnd.view = 0 → da < 2 ^ 64 → ∀ z ∈ (t.cluster s.me.cluster).recls, ¬ (z.iss.ctx = s.me.ctx ∧ z.iss.core = s.me.core ∧ z.desc = da))) ∧
    (d.valid = true → d.root < d.pooln → r.vloss < 65535 → r.st ≠ 3 →
      (∀ x, ∃ t, Performs s op da bnd (.trdesc x a) 0#64 0#64 x (BitVec.ofNat 64 (d.root + endCode r.st * 2 ^ 32)) t ∧
        TreeIs s t da d bs (fun _ => False) d [(d.root, ended r)]) ∧
      (∀ x y z n, 1 ≤ n → n ≤ d.maxb → c.toNat % 8 = 0 → len = 8 * n → bnd.refuses useST c.toNat (8 * n) = none →
        r.vloss + n ≤ 65535 →
        ∃ t, Performs s op da bnd (.trbatch x a y z) (BitVec.ofNat 64 n) c x (if r.st = 1 then 1#64 else 0#64) t ∧
          TreeIs s t da d bs (fun e => c.toNat ≤ e ∧ e < c.toNat + 8 * n) d
            [(d.root, { ended r with vloss := r.vloss + n })] ∧
          ∀ k, k < n → ofLE (bytesAt t bs (c.toNat + 8 * k) 8) =
            d.root + (if k = 0 then endCode r.st else endCode (ended r).st) * 2 ^ 32)) ∧
    (∀ x y z, d.valid = true → c.toNat % 8 = 0 →
      ∃ t, Performs s op da bnd (.trbatch x a y z) 0#64 c x 0#64 t ∧ TreeIs s t da d bs (fun _ => False) d []) ∧
    (∀ (x : XReg) (cs : List Nat) (k b : Nat) (sc : Nat → Val), d.valid = true → d.root < d.pooln → r.vloss < 65535 → r.st = 3 →
      Chained (nodeAt s d bs) r.first cs → cs.length = r.kids → cs.Nodup → d.root ∉ cs → (∀ i ∈ cs, i < d.pooln) →
      sc = (fun i => scoreKey (score d (nodeAt s d bs i) (f32sqrt (r.n + r.vloss)))) → cs[k]? = some b →
      (∀ j i, cs[j]? = some i → j < k → vlt (sc i) (sc b) = true) →
      (∀ j i, cs[j]? = some i → k < j → vlt (sc b) (sc i) = false) →
      (nodeAt s d bs b).st ≠ 3 → (nodeAt s d bs b).vloss < 65535 →
      ∃ t, Performs s op da bnd (.trdesc x a) 0#64 0#64 x
          (BitVec.ofNat 64 (b + endCode (nodeAt s d bs b).st * 2 ^ 32 + 2 ^ 40)) t ∧
        TreeIs s t da d bs (fun _ => False) d [(d.root, { r with vloss := r.vloss + 1 }), (b, ended (nodeAt s d bs b))])

/-- R313 to R316: what performed requests do to a tree in use. TREXP of K priors takes K nodes, first from the head of the
free list and then from BUMP upward, and makes them the leaf's children; with K 0 the leaf is terminal, and with too few
nodes nothing changes and the result is all ones. TRBACK walks from a node to the root and takes a virtual loss from each.
TRROOT makes a child of the root the new root and starts a reclamation of the old one. TRREAD copies records. -/
def Sys2Proof.Claims.TreeChanges : Prop :=
  ∀ (s : State) (a : BRegNo) (bnd : Bound) (da op : Nat) (d : TDesc) (bs : Nat → Byt) (bn : Need) (c : Word) (len i : Nat)
      (n : TNode), TreeSteady s s.who false bnd da d bs bn c.toNat len →
    (∀ e n, treeRange da d e n → bnd.refuses useTR e n = none) → d = descAt s bs da → d.valid = true → i < d.pooln →
    d.pooln ≤ 2 ^ 32 → n = nodeAt s d bs i →
    (∀ (x y z : XReg) (k : Nat), bn = .read → len = 2 + 2 * k → c.toNat % 2 = 0 → k = ofLE (bytesAt s bs c.toNat 2) →
      (∀ e m, c.toNat ≤ e → e + m ≤ c.toNat + len → bnd.refuses useLD e m = none) → n.st = 1 ∨ n.st = 2 →
      (k = 0 → ∃ t, Performs s op da bnd (.trexp x a y z) (BitVec.ofNat 64 i) c x (BitVec.ofNat 64 i) t ∧
        TreeIs s t da d bs (fun _ => False) d [(i, { n with st := 4 })]) ∧
      (d.fcnt < k → d.recl = false → ∃ t, Performs s op da bnd (.trexp x a y z) (BitVec.ofNat 64 i) c x (BitVec.allOnes 64) t ∧
        TreeIs s t da d bs (fun _ => False) d []) ∧
      (∀ fs is : List Nat, 0 < k → k ≤ d.fcnt → fs.length = min d.listed k → Chained (nodeAt s d bs) d.fhead fs →
        is = fs ++ (List.range (k - fs.length)).map (d.bump + ·) → is.Nodup → i ∉ is → (∀ j ∈ is, j < d.pooln) →
        ∃ t, Performs s op da bnd (.trexp x a y z) (BitVec.ofNat 64 i) c x (BitVec.ofNat 64 (is.headD 0)) t ∧
          TreeIs s t da d bs (fun _ => False)
            { d with
              fhead := if fs = [] then d.fhead else (nodeAt s d bs (fs.getLastD 0)).next
              bump := d.bump + (k - fs.length), fcnt := d.fcnt - k }
            ((i, { n with first := is.headD 0, kids := k, st := 3 }) :: (List.range k).map (fun j =>
              (is.getD j 0, ⟨0, 0, 0, field (bytesAt s bs (c.toNat + 2) (2 * k)) (2 * j) 2, i, 0, is.getD (j + 1) 0, 0, 1, 0⟩))))) ∧
    (∀ (y z : XReg) (mode : Fin 3) (path : List Nat) (v : Nat → Int), len = 0 → n.st ≠ 0 → n.st ≠ 5 → path.head? = some i →
      RootPath (nodeAt s d bs) path → path.Nodup → (∀ j ∈ path, j < d.pooln) →
      v = (fun k => if d.alt = true ∧ k % 2 = 1 then -c.toInt else c.toInt) →
      (∀ k j, path[k]? = some j → 0 < (nodeAt s d bs j).vloss ∧ (mode = 0 → (nodeAt s d bs j).n < 0xFFFFFFFF ∧
        -(2 ^ 63 : Int) ≤ (nodeAt s d bs j).w + v k ∧ (nodeAt s d bs j).w + v k < 2 ^ 63)) →
      ∃ t, Performs s op da bnd (.trback a y z mode) (BitVec.ofNat 64 i) c 0 0#64 t ∧
        TreeIs s t da d bs (fun _ => False) d
          (path.zipIdx.map (fun p => (p.1, backed (nodeAt s d bs p.1) mode.val (v p.2))))) ∧
    (∀ (y : XReg) (r : TNode) (cs : List Nat), len = 0 → r = nodeAt s d bs d.root → d.root < d.pooln → r.vloss = 0 →
      d.recl = false → (∀ z ∈ (s.cluster s.me.cluster).recls, z.stopped = false) → n.st ≠ 0 → n.st ≠ 5 → i ≠ d.root →
      Chained (nodeAt s d bs) r.first cs → cs.length = r.kids → (∀ j ∈ cs, j < d.pooln) → i ∈ cs →
      ∃ t, Performs s op da bnd (.trroot a y) (BitVec.ofNat 64 i) 0#64 0 0#64 t ∧
        TreeIs s t da d bs (fun _ => False) { d with root := i, flags := d.flags ||| 64 }
          [(d.root, { r with fl := r.fl / 2 * 2, st := 5 }), (i, { n with fl := n.fl ||| 1 })] ∧
        (t.cluster s.me.cluster).recls = (s.cluster s.me.cluster).recls ++ [⟨s.issuer, da, bnd, [(d.root, 1)], false⟩]) ∧
    (∀ (x : XReg) (y z : XReg) (kids : Bool) (cs : List Nat), bn = .write → c.toNat % 32 = 0 →
      (kids = false → cs = [i]) → (kids = true → Chained (nodeAt s d bs) n.first cs ∧ cs.length = n.kids) →
      (∀ j ∈ cs, j < d.pooln) → len = 32 * cs.length → bnd.refuses useST c.toNat len = none →
      ∃ t, Performs s op da bnd (.trread x a y z kids) (BitVec.ofNat 64 i) c x (BitVec.ofNat 64 cs.length) t ∧
        TreeIs s t da d bs (fun e => c.toNat ≤ e ∧ e < c.toNat + len) d [] ∧
        ∀ k j, cs[k]? = some j → bytesAt t bs (c.toNat + 32 * k) 32 = bytesAt s bs (d.pool + 32 * j) 32)

namespace Sys2Proof.Claims

/-- What a reclamation still has to visit of `k` siblings from node `i` on: nothing where only the new root is left. -/
def toVisit (d : TDesc) (i k : Nat) : List (Nat × Nat) := if k = 0 ∨ (i = d.root ∧ k = 1) then [] else [(i, k)]

end Sys2Proof.Claims

/-- R315, R386, R417, R427: a reclamation visits the old tree in preorder. The node that it takes next is zero then, it is the
last of the free list (its first too where the list was empty), FREECNT counts it, and with the last node RECL, bit 6 of
TRFLAGS, is clear; its children are visited after it and its remaining siblings after them; the new root is passed over.
Where memory fails it stops, what has been written stands, and class 0x54 is pending against its issuer. -/
def Sys2Proof.Claims.TreeReclamation : Prop :=
  ∀ (s : State) (k j : Nat) (r : Reclaim) (i m : Nat) (rest : List (Nat × Nat)), (s.cluster k).recls[j]? = some r →
    r.stopped = false → r.todo = (i, m) :: rest →
    (∀ (d : TDesc) (bs : Nat → Byt) (n l : TNode) (todo : List (Nat × Nat)),
      TreeSteady s r.iss.who (r.bnd.view ≠ 0) r.bnd r.desc d bs .read 0 0 → s.wbad = [] → d = descAt s bs r.desc →
      n = nodeAt s d bs i → i < d.pooln → d.pooln ≤ 2 ^ 32 →
      (i ≠ d.root → d.fcnt < d.pooln → d.pooln - d.bump ≤ d.fcnt → d.recl = true → d.ftail ≠ i → d.ftail < d.pooln →
        l = nodeAt s d bs d.ftail → todo = toVisit d n.first n.kids ++ toVisit d n.next (m - 1) ++ rest →
        ∃ v, exec (.treeReclaimNode k j) s = .next v ∧
          TreeIs s v r.desc d bs (fun _ => False)
            { d with
              fhead := if d.fcnt = d.pooln - d.bump then i else d.fhead, ftail := i, fcnt := d.fcnt + 1
              flags := if todo = [] then d.flags - 64 else d.flags }
            ((i, ⟨0, 0, 0, 0, 0, 0, 0, 0, 0, 0⟩) ::
              (if d.fcnt = d.pooln - d.bump then [] else [(d.ftail, { l with next := i })])) ∧
          (todo ≠ [] → (v.cluster k).recls[j]? = some { r with todo := todo }) ∧
          (todo = [] → (v.cluster k).recls = (s.cluster k).recls.eraseIdx j)) ∧
      (i = d.root → todo = toVisit d n.next (m - 1) ++ rest → todo ≠ [] →
        ∃ v, exec (.treeReclaimNode k j) s = .next v ∧ v.mem = s.mem ∧
          (v.cluster k).recls[j]? = some { r with todo := todo })) ∧
    (∀ c a, r.look s i = .error (c, a) → r.iss.sid = some s.me.id → s.me.exists? = true →
      exec (.treeReclaimNode k j) s = .next s ∧
      ∃ v p, exec (.treeReclaimStopped k j) s = .next v ∧ v.mem = s.mem ∧
        (v.cluster k).recls[j]? = some { r with stopped := true } ∧ v.me.pending = s.me.pending ++ [p] ∧
        p.flt.cls = 0x54 ∧ p.flt.detail = c ∧ p.flt.faddr = BitVec.ofNat 64 a ∧ p.flt.info2 = BitVec.ofNat 64 i) ∧
    (∀ t c a, r.step s = (t, .error (c, a, i)) → r.iss.sid = some t.me.id → t.me.exists? = true →
      exec (.treeReclaimNode k j) s = .next s ∧
      ∃ v p, exec (.treeReclaimStopped k j) s = .next v ∧ v.mem = t.mem ∧ v.me.pending = t.me.pending ++ [p] ∧
        p.flt.cls = 0x54 ∧ p.flt.detail = c ∧ p.flt.faddr = BitVec.ofNat 64 a ∧ p.flt.info2 = BitVec.ofNat 64 i)

/-- Tree requests, what performing them does, and reclamation. The parts are stated above, each with its rules. -/
def Obligations.Trees : Prop :=
  Claims.TreeRequests ∧ Claims.TreeOperations ∧ Claims.TreeChanges ∧ Claims.TreeReclamation

/-! ### The attention cache (R317 to R319) -/

/-- R318, R319: KVACC adds each active element's increment to its counter, which saturates with S, and changes no other byte;
the first token x[c] is signed, and the counters' address need not be aligned (log entry 64). A NaN adds 0 with V; a negative
weight adds 0, with S where it is −2^−16 or less. KVEVICT gives the lowest token with the smallest counter between the pinned and the recent ones, or all ones where there is
none. -/
def Obligations.AttentionCache : Prop :=
  (∀ (s : State) (a : BRegNo) (b : VRegNo) (c : XReg) (ty : ETy) (rnd : Rnd) (mask : MRegNo) (bs : Nat → List Byt)
      (as : Accs), VecReady s.me [b] [ty] → Calm s → s.me.dynRst rnd = false → s.me.ten = 0#7 →
    as = ((List.range s.me.vl).filter (s.me.mbit mask)).map
      (fun i => (i, ((s.me.getB a).addr.toNat : Int) + 4 * ((s.me.getX c).toInt + (i : Nat)), 4)) →
    Steady s a useAT as bs → (as.flatMap (fun x => (bs x.1).map (·.loc))).Nodup → (∀ x ∈ as, notDirty s (bs x.1)) →
    ∃ u, exec (.kvacc a b c ty rnd mask) s = .next u ∧
      (∀ x ∈ as, heldAt u (bs x.1) = min 0xFFFFFFFF
        (heldAt s (bs x.1) + (kvStep ty (s.me.code ty b x.1) (s.me.rnd rnd) (s.me.draw x.1 0)).1)) ∧
      memBut s u as bs ∧ u.me.x = s.me.x ∧ u.me.v = s.me.v ∧ u.me.pc = s.me.pc + 8#64 ∧ sameOutside s u ∧
      u.me.fstat = s.me.fstat ||| (vecEvents s.me mask (fun i =>
        let z := kvStep ty (s.me.code ty b i) (s.me.rnd rnd) (s.me.draw i 0)
        (0, z.2 ||| if 0xFFFFFFFF < heldAt s (bs i) + z.1 then evS else 0#7))).setWidth 32) ∧
  (∀ (t : ETy) (code : Nat) (rm : Rnd) (d : Draw),
    (isNeg (decodeEv t code 0).1 = true → (kvStep t code rm d).1 = 0 ∧
      (vlt (.fin ⟨-1, -16, 1⟩) (decodeEv t code 0).1 = false → (kvStep t code rm d).2 &&& evS = evS)) ∧
    (isNan (decodeEv t code 0).1 = true → (kvStep t code rm d).1 = 0 ∧ (kvStep t code rm d).2 &&& evV = evV)) ∧
  (∀ (s : State) (d : XReg) (a : BRegNo) (b c : XReg) (pin last : Nat) (bs : Nat → List Byt), Calm s →
    pin = (s.me.getX c).toNat % 2 ^ 32 → last = (s.me.getX b).toNat - (s.me.getX c).toNat / 2 ^ 32 →
    (∀ t, pin ≤ t → t < last → access s s.who (s.me.getB a) a.val useLD
      (((s.me.getB a).addr.toNat : Int) + 4 * (t : Nat)) 4 0 = .ok (bs t, s)) →
    (last ≤ pin → WritesX (.kvevict d a b c) s d (BitVec.allOnes 64)) ∧
    (∀ t, pin ≤ t → t < last → (∀ q, pin ≤ q → q < last → heldAt s (bs t) ≤ heldAt s (bs q)) →
      (∀ q, pin ≤ q → q < t → heldAt s (bs t) < heldAt s (bs q)) →
      WritesX (.kvevict d a b c) s d (BitVec.ofNat 64 t)))

/-! ### Graphs and queues from inside the device (R320 to R323, R404) -/

namespace Sys2Proof.Claims

/-- The queue that x register `a` names, open and of the strand's context, and its record as read. -/
structure OpenQueue (s : State) (n : Nat) (q : Queue) (r : List Byte) (t : State) : Prop where
  queue : s.queue? n = some q
  ctx : q.ctx = s.me.ctx
  opened : q.qstate = 1
  record : devRead t q.ctx q.addr 64 = .ok (r, t)

end Sys2Proof.Claims

/-- R321 to R323, R404: GLAUNCH writes an entry and then SUBTAIL, and gives the submission index; with the ring full it is
blocked. GDONE and GQUERY give a launch's result word once its entry has been read and its completion record written; before,
GDONE is blocked and GQUERY gives all ones. QNEW opens a queue under the lowest free number, or gives all ones; QDEL of a queue that QNEW made
begins its destruction, under modes 1 and 2 with STATUS 3 for each entry that has not been read. Pages are marked already. -/
def Obligations.DeviceQueues : Prop :=
  (∀ (s : State) (d : XReg) (a : BRegNo) (b : XReg) (q : Queue) (r : List Byte) (bs : List Byt), s.transfersOut = false →
    (s.me.getB a).addr.toNat % 64 = 0 →
    access s s.who (s.me.getB a) a.val useLD ((s.me.getB a).addr.toNat : Nat) 64 0 = .ok (bs, s) →
    OpenQueue s (s.me.getX b).toNat q r s →
    (idxSub (qSubTail r) (qSubHead r) < qSubLen r → ∀ t u,
      devWrite s q.ctx (qSubRing r + 16 * (qSubTail r % qSubLen r)) (toLE 8 (s.me.getB a).addr.toNat ++ toLE 8 0) = .ok t →
      devWrite t q.ctx (q.addr + 0x18) (toLE 4 ((qSubTail r + 1) % 2 ^ 32)) = .ok u →
      ∃ v, exec (.glaunch d a b) s = .next v ∧ (d ≠ 0 → v.me.getX d = BitVec.ofNat 64 (qSubTail r)) ∧ v.mem = u.mem ∧
        v.me.pc = s.me.pc + 8#64 ∧ (∀ x, x ≠ d → v.me.getX x = s.me.getX x) ∧ v.queues = s.queues) ∧
    (qSubLen r ≤ idxSub (qSubTail r) (qSubHead r) →
      exec (.glaunch d a b) s = .next (s.setMe { s.me with blocked := some (.glaunch d a b) }))) ∧
  (∀ (s : State) (d a b : XReg) (q : Queue) (r : List Byte), OpenQueue s (s.me.getX a).toNat q r s →
    (s.me.getX b).toNat < 2 ^ 32 → idxSub (qSubTail r) (idxNext (s.me.getX b).toNat) < 2 ^ 31 →
    ∀ res : Option Nat, res = (if idxSub (s.me.getX b).toNat (qSubHead r) < idxSub (qSubTail r) (qSubHead r) then none
      else (q.written.find? (fun w => w.1 == (s.me.getX b).toNat)).map (·.2)) →
    (∀ v, res = some v →
      (∃ u, exec (.gdone d a b) s = .next u ∧ exec (.gquery d a b) s = .next u ∧
        u.me.getX d = (if d = 0 then 0#64 else BitVec.ofNat 64 v) ∧ u.me.pc = s.me.pc + 8#64 ∧
        OnlyX d { s.me with stream := u.me.stream } u.me ∧ sameModule s u)) ∧
    (res = none →
      exec (.gdone d a b) s = .next (s.setMe { s.me with blocked := some (.gdone d a b) }) ∧
      WritesX (.gquery d a b) s d (BitVec.allOnes 64))) ∧
  (∀ (s : State) (d : XReg) (a : BRegNo) (r : List Byte) (bs : List Byt), (s.me.getB a).addr.toNat % 64 = 0 → noneOut s →
    s.loadE a useLD ((s.me.getB a).addr.toNat : Nat) 64 0 = .ok (r, s) →
    access s s.who (s.me.getB a) a.val useST ((s.me.getB a).addr.toNat : Nat) 64 0 = .ok (bs, s) →
    qPart r = s.myPart.1 → s.myPart.2 ≤ qClass r → qSubTail r = 0 → qCplHead r = 0 → qWell r = true →
    (s.freeQueue = none → WritesX (.qnew d a) s d (BitVec.allOnes 64)) ∧
    (∀ n t u v, s.freeQueue = some n → s.storeE a useST ((s.me.getB a).addr.toNat + 0x14 : Nat) (toLE 4 0) 0 = .ok t →
      t.storeE a useST ((s.me.getB a).addr.toNat + 0x2C : Nat) (toLE 4 0) 0 = .ok u →
      u.storeE a useST ((s.me.getB a).addr.toNat + 6 : Nat) (toLE 1 1) 0 = .ok v →
      ∃ w q, exec (.qnew d a) s = .next w ∧ w.queues = s.queues ++ [q] ∧ q.n = n ∧ q.ctx = s.me.ctx ∧ q.byCtx = true ∧
        q.addr = (s.me.getB a).addr.toNat ∧ q.part = qPart r ∧ q.cls = qClass r ∧ q.qstate = 1 ∧ w.mem = v.mem ∧
        (d ≠ 0 → w.me.getX d = BitVec.ofNat 64 n) ∧ w.me.pc = s.me.pc + 8#64 ∧
        (∀ x, x ≠ d → w.me.getX x = s.me.getX x))) ∧
  (∀ (s : State) (a : XReg) (mode : Fin 3) (q : Queue) (r : List Byte), OpenQueue s (s.me.getX a).toNat q r s →
    (q.byCtx = false →
      exec (.qdel a mode) s = .next (s.takeFault (s.me.queueFlt 3 (s.me.getX a).toNat 0) s.me.pc 0)) ∧
    (q.byCtx = true → q.ending = none → idxSub (qSubTail r) (qSubHead r) ≤ qSubLen r → (∀ l ∈ s.launches, l.q ≠ q.n) →
      ∃ u q', exec (.qdel a mode) s = .next u ∧ u.queue? (s.me.getX a).toNat = some q' ∧ q'.qstate = 2 + mode.val ∧
        q'.ending = some (mode.val, qSubTail r) ∧ (mode.val = 0 → q'.cpls = q.cpls) ∧
        (mode.val ≠ 0 → q'.cpls.length = q.cpls.length + idxSub (qSubTail r) (qSubHead r) ∧
          q'.cpls.take q.cpls.length = q.cpls ∧ ∀ c ∈ q'.cpls.drop q.cpls.length, c.status = 3) ∧ u.me.pc = s.me.pc + 8#64 ∧ u.me.x = s.me.x ∧ u.launches = s.launches))

/-! ### Pair words (R181 to R183) -/

namespace Sys2Proof.Claims

/-- Destination and value of a scalar half (R181). -/
def halfValue (st : Strand) : HalfB → XReg × Word
  | .add d a b => (d, st.getX a + st.getX b)
  | .sub d a b => (d, st.getX a - st.getX b)
  | .and d a b => (d, st.getX a &&& st.getX b)
  | .or d a b => (d, st.getX a ||| st.getX b)
  | .xor d a b => (d, st.getX a ^^^ st.getX b)
  | .shl d a b => (d, st.getX a <<< (st.getX b &&& 63#64))
  | .shr d a b => (d, st.getX a >>> (st.getX b &&& 63#64))
  | .slt d a b => (d, if (st.getX a).slt (st.getX b) then 1#64 else 0#64)
  | .addi d a i => (d, st.getX a + i.signExtend 64)
  | .shli d a n => (d, st.getX a <<< n)
  | .shri d a n => (d, st.getX a >>> n)
  | .li d i => (d, i.signExtend 64)

/-- A pair of two scalar halves: its halves. -/
def scalarPair : Instr → Option (HalfB × HalfB)
  | .pairAdd d a b o => some (.add d a b, o)
  | .pairSub d a b o => some (.sub d a b, o)
  | .pairAnd d a b o => some (.and d a b, o)
  | .pairOr d a b o => some (.or d a b, o)
  | .pairXor d a b o => some (.xor d a b, o)
  | .pairShl d a b o => some (.shl d a b, o)
  | .pairShr d a b o => some (.shr d a b, o)
  | .pairSlt d a b o => some (.slt d a b, o)
  | .pairAddi d a i o => some (.addi d a i, o)
  | .pairShli d a n o => some (.shli d a n, o)
  | .pairShri d a n o => some (.shri d a n, o)
  | .pairLi d i o => some (.li d i, o)
  | _ => none

/-- A pair with a vector half: destination, registers used, the full instruction over VTYPE's type, the half in slot B, and
an element's value (R181). -/
def vectorPair (st : Strand) : Instr → Option (VRegNo × List VRegNo × Instr × HalfB × (Nat → Nat × Ev))
  | .pairVadd d a b o => some (d, [d, a, b], .vadd d a b (half st), o, fun i =>
      elemAdd st.vty .rne false 0 (st.code st.vty a i) (st.code st.vty b i))
  | .pairVsub d a b o => some (d, [d, a, b], .vsub d a b (half st), o, fun i =>
      elemSub st.vty .rne false 0 (st.code st.vty a i) (st.code st.vty b i))
  | .pairVmul d a b o => some (d, [d, a, b], .vmul d a b (half st), o, fun i =>
      elemMul st.vty .rne false 0 (st.code st.vty a i) (st.code st.vty b i))
  | .pairVmin d a b o => some (d, [d, a, b], .vmin d a b (half st), o, fun i =>
      elemMin false st.vty (st.code st.vty a i) (st.code st.vty b i))
  | .pairVmax d a b o => some (d, [d, a, b], .vmax d a b (half st), o, fun i =>
      elemMin true st.vty (st.code st.vty a i) (st.code st.vty b i))
  | .pairVmv d a o => some (d, [d, a], .nop, o, fun i => (st.code st.vty a i, 0#7))
  | .pairVsplat d a o => some (d, [d], .nop, o, fun _ => ((st.getX a).toNat, 0#7))
  | _ => none
where
  half (st : Strand) : VMod := ⟨st.vty, .rne, false, 0, false⟩

/-- What slot B leaves: its destination holds its value, computed from the operands as they were. -/
def halfDone (a b : Strand) (o : HalfB) : Prop :=
  b.getX (halfValue a o).1 = (if (halfValue a o).1 = 0 then 0#64 else (halfValue a o).2)

end Sys2Proof.Claims

/-- R181 to R183: both halves of a pair take effect, from the registers as they stand before it, and the strand goes on at the
next word: two scalar halves; a load or store of 8 bytes at ADDR + 8·x[a] + 8·i; a vector half over VTYPE's type; SLQTAKE
with no strip left; an arrival; a wait whose phase has passed. While slot A waits, slot B waits too, and where slot A faults
neither takes effect. -/
def Obligations.PairWords : Prop :=
  (∀ (s : State) (i : Instr) (h o : HalfB), i.wf = true → scalarPair i = some (h, o) →
    ∃ u, exec i s = .next u ∧ halfDone s.me u.me h ∧ halfDone s.me u.me o ∧ u.me.pc = s.me.pc + 8#64 ∧
      (∀ r, r ≠ (halfValue s.me h).1 → r ≠ (halfValue s.me o).1 → u.me.getX r = s.me.getX r) ∧
      sameRegisters { s.me with x := u.me.x } u.me ∧ sameModule s u) ∧
  (∀ (s t : State) (d a : XReg) (b : BRegNo) (i : BitVec 11) (o : HalfB) (bs : List Byt) (e : Int),
    e = ((s.me.getB b).addr.toNat : Int) + (s.me.getX a).toInt * 8 + 8 * i.toInt → s.me.esr = 0 → s.me.stopAt = none →
    ((Instr.pairLd d a b i o).wf = true → Admitted s b useLD e 8 .plain false bs t →
      ∃ u, exec (.pairLd d a b i o) s = .next u ∧ (d ≠ 0 → u.me.getX d = extend .i64 (bs.map (fun x => Memory.get s.mem x.loc))) ∧
        halfDone s.me u.me o ∧ u.mem = t.mem ∧ u.me.pc = s.me.pc + 8#64 ∧
        (∀ r, r ≠ d → r ≠ (halfValue s.me o).1 → u.me.getX r = s.me.getX r) ∧ sameOutside s u) ∧
    (Admitted s b useST e 8 .plain true bs t →
      ∃ u, exec (.pairSt d a b i o) s = .next u ∧ u.mem = (t.poke (bs.map (·.loc)) (toLE 8 (s.me.getX d).toNat)).mem ∧
        memElsewhere t u bs ∧ halfDone s.me u.me o ∧ u.me.pc = s.me.pc + 8#64 ∧
        (∀ r, r ≠ (halfValue s.me o).1 → u.me.getX r = s.me.getX r) ∧ sameOutside s u) ∧
    (∀ f, access s s.who (s.me.getB b) b.val useLD e 8 0 = .error f →
      exec (.pairLd d a b i o) s = .next (s.takeFault f s.me.pc 0))) ∧
  (∀ (s : State) (i full : Instr) (d : VRegNo) (rs : List VRegNo) (o : HalfB) (f : Nat → Nat × Ev),
    vectorPair s.me i = some (d, rs, full, o, f) → full.wf = true → VecReady s.me rs [s.me.vty] → Whole s.me →
    s.me.vl ≠ 0 → s.me.ten = 0#7 → isBlock s.me.vty = false →
    ∃ u, exec i s = .next u ∧ VecWrote s.me u.me d s.me.vty (fun _ => true) false (fun k => (f k).1) ∧
      halfDone s.me u.me o ∧ u.me.pc = s.me.pc + 8#64 ∧
      u.me.fstat = s.me.fstat ||| (vecEvents s.me 0 f).setWidth 32 ∧
      (∀ r, r ≠ (halfValue s.me o).1 → u.me.getX r = s.me.getX r) ∧ sameModule s u) ∧
  (∀ (s : State) (d : VRegNo) (a b : XReg) (o : HalfB), (Instr.pairSlqtake d a b o).wf = true → d.val < s.me.vcount →
    rowFree s.me = true → s.me.stream = none → s.me.esr = 0 → s.me.stopAt = none →
    ∃ u, exec (.pairSlqtake d a b o) s = .next u ∧ u.me.vl = 0 ∧ u.me.getX a = 0#64 ∧ u.me.getX b = 0#64 ∧
      halfDone s.me u.me o ∧ u.me.pc = s.me.pc + 8#64 ∧ sameRegisters { s.me with x := u.me.x, vl := 0 } u.me ∧
      sameModule s u) ∧
  (∀ (s : State) (a b : XReg) (o : HalfB) (v : Nat) (ob : Bar), v = (s.me.getX a).toNat → Object s v →
    ob = s.barAt s.me.core v → s.me.esr = 0 → s.me.stopAt = none →
    (∀ ob', ob.arrive = some ob' → ∃ u, exec (.pairBarr a o) s = .next u ∧
      u.mem = (s.writeP (locOf s.me.core v) (toLE 16 ob'.nat)).mem ∧ halfDone s.me u.me o ∧ u.me.pc = s.me.pc + 8#64 ∧
      (∀ r, r ≠ (halfValue s.me o).1 → u.me.getX r = s.me.getX r) ∧ sameOutside s u) ∧
    (ob.phase ≠ (s.me.getX b).toNat % 2 → ∃ u, exec (.pairBwait a b o) s = .next u ∧ halfDone s.me u.me o ∧
      u.me.pc = s.me.pc + 8#64 ∧ (∀ r, r ≠ (halfValue s.me o).1 → u.me.getX r = s.me.getX r) ∧ sameModule s u) ∧
    (ob.phase = (s.me.getX b).toNat % 2 →
      exec (.pairBwait a b o) s = .next (s.setMe { s.me with blocked := some (.pairBwait a b o) })))

/-! ### The ends of waits (R35, R112, R196, R197, R269, R275, R276, R278, R282, R291, R313, R315, R321, R322, R325) -/

namespace Sys2Proof.Claims

/-- The event that lets a waiting instruction of a strand go on, and whether what it waits for may be there (R282, R325: room
on its channel, room for its run). -/
noncomputable def wakeOf (s : State) (sid : Nat) : Instr → Option (Instr × Prop)
  | .waitt _ => some (.waittWake sid, True)
  | .waite => some (.waiteWake sid, True)
  | .mstop | .exit => some (.mstopDrainDone sid, True)
  | .gcsleep .. => some (.gcsleepWake sid, True)
  | .mbind _ => some (.mbindRendezvous sid, True)
  | .bufclaim .. => some (.bufclaimWake sid, True)
  | .bwait .. | .pairBwait .. => some (.bwaitWake sid, True)
  | .wkwait _ => some (.wkwaitWake sid, True)
  | .glaunch .. => some (.glaunchRingSpace sid, True)
  | .gdone .. => some (.gdoneWake sid, True)
  | .trexp .. | .trroot .. => some (.treeWaitEnd sid, True)
  | .cpgo ch .. | .cpgob ch .. => some (.channelRoom sid, ((s.core s.me.core).onChan ch.toNat).length < 4)
  | .wkrun .. => some (.walkerRoom sid, (s.cluster s.me.cluster).runsHeld < 8)
  | _ => none

end Sys2Proof.Claims

/-- The end of a wait: the model holds the waiting instruction and lets it look again at what it waits for, as that then stands,
alone or in its pair; that a wait is held so and its end issues the instruction again is the model's choice (log entry 107).
Of a blocking wait the event's next state is the instruction's; a word that waits at issue for room becomes ready where it
would now issue, and issues in its turn (R12). The retirement of an interlock entry lets a stalled instruction look again;
nothing else changes. A strand that is due to take a pending failure executes nothing before it (R410). A strip that is due is loaded into its buffer register. -/
def Obligations.EndsOfWaits : Prop :=
  (∀ (s : State) (i ev : Instr) (room : Prop), s.me.exists? = true → wakeOf s s.me.id i = some (ev, room) →
    (s.me.mustTake = true → exec ev s = .next s) ∧
    (s.me.mustTake = false → room → s.me.blocked = some i → ∃ t, exec i s = .next t ∧ exec ev s = .next t) ∧
    (s.me.mustTake = false → room → s.me.blocked = none → s.me.hold = some i → ∃ t, exec i s = .next t ∧
      exec ev s = .next (if t.me.hold.isSome then s else s.setMe { s.me with hold := none }))) ∧
  (∀ s : State, s.me.exists? = true →
    exec (.interlockRetire s.me.id) s = .next (s.setMe { s.me with hold := none })) ∧
  (∀ (s t : State) (q : Stream) (g : Group) (bs : List Byt) (vs : List Byte), s.me.exists? = true → s.me.stream = some q →
    q.groups[q.nextBuf]? = some g → g.assigned = true → (g.loaded = false ∨ g.stale = true) → q.nextBuf < 32 - s.me.bufFirst →
    s.stripBytes q g = .ok (bs, vs, t) →
    ∃ u q' g', exec (.slqStripLoad s.me.id) s = .next u ∧ u.me.stream = some q' ∧ q'.groups[q.nextBuf]? = some g' ∧
      g' = { g with loaded := true, stale := false, locs := bs.map (·.loc) } ∧ q'.remain = q.remain ∧ q'.nextBuf = q.nextBuf ∧
      (u.me.getV (Fin.ofNat 32 (s.me.bufFirst + q.nextBuf))).bits = BitVec.ofNat 65536 (ofLE vs) ∧
      (∀ r : VRegNo, r.val ≠ s.me.bufFirst + q.nextBuf → u.me.getV r = s.me.getV r) ∧ u.mem = t.mem ∧
      u.me.x = s.me.x ∧ u.me.pc = s.me.pc)

/-! ### Commands (R342 to R348, R354 to R356, R359, R362 to R365) -/

namespace Sys2Proof.Claims

/-- A command: its opcode, the arguments it names, whether it names a context, its payload length, its message (R348, R359,
R362, R364, R368 to R370, R372, R374, R453). -/
def commandOf : Instr → Option (Nat × List Nat × Bool × Nat × Cmd)
  | .ident c => some (0x01, [], false, 0, c)
  | .physwin c => some (0x02, [0, 1, 2], false, 0, c)
  | .ctxnew c => some (0x03, [0, 1, 2, 3], false, 0, c)
  | .ctxload c .. => some (0x04, [0, 1], true, 0, c)
  | .ctxend c => some (0x05, [], true, 0, c)
  | .tlbinv c => some (0x06, [0, 1], true, 0, c)
  | .partset c => some (0x07, [0, 1, 2, 3, 4], false, 0, c)
  | .qcreate c => some (0x08, [0, 1], true, 0, c)
  | .qdestroy c => some (0x09, [0, 1], false, 0, c)
  | .winset c => some (0x0A, [0, 1, 2, 3, 4], true, 0, c)
  | .winclr c => some (0x0B, [0], false, 0, c)
  | .groupset c => some (0x0C, [0, 1, 2, 3], false, 16 * c.arg1.toNat, c)
  | .clockset c => some (0x0D, [0, 1, 2, 3], false, 0, c)
  | .hostreg c => some (0x10, [0, 1], false, 0, c)
  | .govset c => some (0x11, [0], false, 0, c)
  | .monread c => some (0x12, [0, 1], false, 0, c)
  | .attest c => some (0x13, [0, 1], false, 32, c)
  | .fwload c _ => some (0x14, [0, 1], false, 0, c)
  | .ckpt c => some (0x15, [0, 1], false, 0, c)
  | .ckptcfg c => some (0x16, [0, 1], false, 0, c)
  | .logcfg c => some (0x17, [0, 1], false, 0, c)
  | .restore c => some (0x18, [1], false, 0, c)
  | .replay c => some (0x19, [0, 1], false, 0, c)
  | .ckinfo c => some (0x1A, [0], false, 0, c)
  | .spares c => some (0x1B, [], false, 0, c)
  | _ => none

/-- The module is up, no replay is in progress, Logline records nothing. -/
structure Quiet (s : State) : Prop where
  up : s.boot = .up
  live : s.replay = none
  log : s.logOn = false

/-- A command reaches the module: on the management lane, or on endpoint 0 from a registered host. -/
def reaches (s : State) (c : Cmd) : Prop := c.lane = true ∨ c.endp = 0 ∧ s.registered c.src = true

/-- A command reaches a quiet module over a way that accepts it, and is well formed. -/
structure Good (s : State) (i : Instr) (c : Cmd) : Prop where
  quiet : Quiet s
  came : reaches s c
  form : ∃ opc named ux plen, commandOf i = some (opc, named, ux, plen, c) ∧ cmdOk c s named ux plen = true ∧
    (c.lane = true → opc = 1 ∨ laneOp opc = true)

/-- A command is answered with STATUS, VAL0 and VAL1, and leaves the state `u`. -/
def Answers (i : Instr) (s : State) (c : Cmd) (u : State) (st : Nat) (v0 v1 : Word) : Prop :=
  exec i s = .next (u.answer c ⟨st, v0, v1⟩)

end Sys2Proof.Claims

/-- R343, R346, R347, R365, R367: a command that does not come over the lane, and does not come from a registered host on
endpoint 0, changes nothing, and so does every command but IDENT on the lane before boot succeeds; a malformed command, and
one whose opcode the lane does not accept, is answered with STATUS 1 and changes nothing else; an answer is one frame to the
sender with the command's tag. On the lane IDENT is answered at every moment, and what the lane does not accept is refused
during a replay as well, when a command on a port changes nothing. A command that names no context has the
context field 0, one that names one an existing context (log entry 72). -/
def Sys2Proof.Claims.CommandsAnswered : Prop :=
  (∀ (s : State) (i : Instr) (opc : Nat) (named : List Nat) (ux : Bool) (plen : Nat) (c : Cmd),
    commandOf i = some (opc, named, ux, plen, c) →
    (¬ reaches s c → exec i s = .next s) ∧
    ((s.boot = .waiting ∨ s.boot = .stopped ∨ s.boot = .down) → (c.lane = false ∨ opc ≠ 1) → exec i s = .next s) ∧
    (Quiet s → reaches s c → (c.lane = true ∧ opc ≠ 1 ∧ laneOp opc = false ∨ cmdOk c s named ux plen = false) →
      Answers i s c s 1 0#64 0#64) ∧
    (s.replay.isSome = true → (c.lane = false → exec i s = .next s) ∧
      (s.boot = .up → c.lane = true → opc ≠ 1 → laneOp opc = false → Answers i s c s 1 0#64 0#64)) ∧
    (c.fmt ≠ 0x0004000C#32 ∨ c.rsv ≠ 0#16 ∨ c.plen.toNat ≠ c.payload.length ∨ c.payload.length ≠ plen ∨ 4032 < plen ∨
      (∃ k v, (cmdArgs c)[k]? = some v ∧ k ∉ named ∧ v ≠ 0#64) ∨ (ux = false ∧ c.ctx ≠ 0#32) ∨
      (ux = true ∧ s.ctx? c.ctx.toNat = none) ↔ cmdOk c s named ux plen = false)) ∧
  (∀ (s : State) (c : Cmd) (st : Nat) (v0 v1 : Word), s.replay = none ∨ c.lane = true →
    s.answer c ⟨st, v0, v1⟩ = { s with out := s.out ++ [.reply c.src c.lane c.tag st v0 v1] }) ∧
  (∀ (s : State) (c : Cmd), c.lane = true → s.logOn = false ∨ s.replay.isSome = true → cmdOk c s [] false 0 = true →
    exec (.ident c) s = .next { s with out := s.out ++
      [.reply c.src true c.tag 0 (BitVec.ofNat 64 (4 * 2 ^ 32 + s.decTable.toNat)) Config.serial] }) ∧
  (∀ (s : State) (c : Cmd), exec (.sendDiscarded c) s = .next s)

/-- R47, R85, R87, R336, R348, R408: IDENT gives DECVER and the serial number. PHYSWIN sets a window
under the number that ARG2 gives, one in use being replaced (log entry 73); CTXNEW adds a context under the lowest free
number (log entry 74). CTXLOAD leaves the context holding the code objects of its list, or names the object that fails
with its cause. CTXEND takes away the context and what belongs to it, and nothing of another; one that still has a queue or a
window is refused. TLBINV takes away the cached entries over the range but for the leaves of pinned pages. -/
def Sys2Proof.Claims.ContextCommands : Prop :=
  (∀ (s : State) (c : Cmd), Good s (.ident c) c →
    Answers (.ident c) s c s 0 (BitVec.ofNat 64 (4 * 2 ^ 32 + s.decTable.toNat)) Config.serial) ∧
  (∀ (s : State) (c : Cmd), Good s (.physwin c) c →
    ((c.arg2.toNat ≤ 1023 ∧ 0 < c.arg1.toNat ∧ (inHbm c.arg0.toNat c.arg1.toNat = true ∨ inLp c.arg0.toNat c.arg1.toNat = true)) →
      ∃ u, Answers (.physwin c) s c u 0 0#64 0#64 ∧ u = { s with wins := u.wins } ∧
        u.window? c.arg2.toNat = some ⟨c.arg2.toNat, 0, c.src, c.arg0.toNat, c.arg1.toNat, 7, 0, true⟩ ∧
        ∀ n, n ≠ c.arg2.toNat → u.window? n = s.window? n) ∧
    ((1023 < c.arg2.toNat ∨ c.arg1.toNat = 0 ∨ (inHbm c.arg0.toNat c.arg1.toNat = false ∧ inLp c.arg0.toNat c.arg1.toNat = false)) →
      Answers (.physwin c) s c s 1 0#64 0#64)) ∧
  (∀ (s : State) (c : Cmd) (k : Nat), Good s (.ctxnew c) c → 1 ≤ k → k ≤ 255 → s.ctx? k = none →
    (∀ j, 1 ≤ j → j < k → s.ctx? j ≠ none) → c.arg0.toNat % 4096 = 0 →
    (inHbm c.arg0.toNat 4096 = true ∨ inLp c.arg0.toNat 4096 = true) → c.arg1.toNat < 2 ^ 16 → c.arg2.toNat % 64 = 0 →
    inLp c.arg2.toNat c.arg3.toNat = true → hits s.ckArea c.arg2.toNat c.arg3.toNat = false →
    hits s.logArea c.arg2.toNat c.arg3.toNat = false →
    (∀ x ∈ s.ctxs, overlap c.arg2.toNat c.arg3.toNat x.poolBase x.poolLen = false) →
    Answers (.ctxnew c) s c { s with ctxs := s.ctxs ++
      [⟨k, c.src, c.arg0.toNat, c.arg1.toNat, c.arg2.toNat, c.arg3.toNat, [], [], 0, 0, [], none⟩] } 0 (BitVec.ofNat 64 k) 0#64) ∧
  (∀ (s : State) (c : Cmd) (items : List LoadItem) (syms : List HostSym) (tables : List Nat) (x : Ctx),
    Good s (.ctxload c items syms tables) c → s.ctx? c.ctx.toNat = some x →
    (x.objs ≠ [] → Answers (.ctxload c items syms tables) s c s 2 0#64 0#64) ∧
    (x.objs = [] → (items = [] ∨ 64 < items.length) → Answers (.ctxload c items syms tables) s c s 1 0#64 0#64) ∧
    (x.objs = [] → items ≠ [] → items.length ≤ 64 →
      (∀ t, loadCtx s x items syms tables = .ok t → Answers (.ctxload c items syms tables) s c t 0 0#64 0#64 ∧
        (t.ctx? c.ctx.toNat).map (fun y => y.objs.map (·.image)) = some (items.map (fun o => o.image.getD [])) ∧
        t.queues = s.queues ∧ t.launches = s.launches ∧ t.wins = s.wins ∧ t.me.x = s.me.x ∧ t.me.pc = s.me.pc) ∧
      (∀ i cause, loadCtx s x items syms tables = .error (i, cause) → Answers (.ctxload c items syms tables) s c s 3
        (BitVec.ofNat 64 i) (BitVec.ofNat 64 cause)))) ∧
  (∀ (s : State) (c : Cmd), Good s (.ctxend c) c →
    ((∀ q ∈ s.queues, q.ctx ≠ c.ctx.toNat) → (∀ w ∈ s.wins, w.phys = true ∨ w.ctx ≠ c.ctx.toNat) →
      ∃ u, Answers (.ctxend c) s c u 0 0#64 0#64 ∧ u.ctx? c.ctx.toNat = none ∧
        (∀ n, n ≠ c.ctx.toNat → u.ctx? n = s.ctx? n) ∧ (∀ t ∈ u.all, t.ctx ≠ c.ctx.toNat) ∧
        (∀ t ∈ s.all, t.ctx ≠ c.ctx.toNat → t ∈ u.all) ∧ u.queues = s.queues ∧ u.wins = s.wins ∧ u.mem = s.mem) ∧
    (s.frozen = false → (∃ q ∈ s.queues, q.ctx = c.ctx.toNat) ∨ (∃ w ∈ s.wins, w.phys = false ∧ w.ctx = c.ctx.toNat) →
      Answers (.ctxend c) s c s 2 0#64 0#64)) ∧
  (∀ (s : State) (c : Cmd) (x : Ctx), Good s (.tlbinv c) c → s.ctx? c.ctx.toNat = some x →
    ∃ l, Answers (.tlbinv c) s c (s.setCtx { x with tlb := l }) 0 0#64 0#64 ∧
      ∀ e, e ∈ l ↔ e ∈ x.tlb ∧ ((bitsOf e.w0 3 2 = 2 ∧ ∃ p ∈ x.pins, e.covers p.1 p.2 = true) ∨
        (c.arg1 ≠ 0#64 ∧ e.covers c.arg0.toNat c.arg1.toNat = false)))

namespace Sys2Proof.Claims

/-- The sum over the partitions, partition `n` holding `p`, of what a reservation gives of a kind. -/
def sumWith (s : State) (n : Nat) (p : Part) (f : Part → Nat) : Nat :=
  ((List.range 16).map (fun i => f (if i = n then p else s.part i))).sum

end Sys2Proof.Claims

/-- R48, R67, R323, R344, R348, R352, R354, R364: PARTSET sets a reservation where the sums stay within the module's
capacities and the partition's launches still pass, and gives VAL0 1 otherwise. QCREATE opens a queue under the lowest free
number, with SUBHEAD and CPLTAIL 0 and QSTATE 1; QDESTROY begins a destruction in its mode, under modes 1 and 2 with STATUS 3 for
each entry that has not been read, and a later one that is not more severe changes neither mode nor extent (log entry 88). WINSET, WINCLR, GROUPSET,
CLOCKSET and HOSTREG set and clear what they name and leave every other window, group and host. -/
def Sys2Proof.Claims.PartitionAndQueueCommands : Prop :=
  (∀ (s : State) (c : Cmd) (n : Nat) (p : Part), Good s (.partset c) c → n = c.arg0.toNat → n ≤ 15 →
    p = ⟨c.arg1.toNat, c.arg2.toNat, c.arg3.toNat, c.arg4.toNat % 2 ^ 8, c.arg4.toNat / 2 ^ 16⟩ →
    c.arg4.toNat < 2 ^ 32 → c.arg4.toNat / 2 ^ 8 % 2 ^ 8 = 0 →
    (sumWith s n p Part.kernel ≤ 2048 → sumWith s n p Part.walker ≤ 64 → sumWith s n p Part.copy ≤ 2048 →
      sumWith s n p Part.exchange ≤ 4 → sumWith s n p Part.pool ≤ 16384 →
      partOk p s.holds s.time.toNat (s.inPart n) (fun _ => true) = true →
      ∃ u, Answers (.partset c) s c u 0 0#64 0#64 ∧ u = { s with parts := u.parts } ∧ u.part n = p ∧
        ∀ m, m ≠ n → u.part m = s.part m) ∧
    ((2048 < sumWith s n p Part.kernel ∨ 64 < sumWith s n p Part.walker ∨ 2048 < sumWith s n p Part.copy ∨
        4 < sumWith s n p Part.exchange ∨ 16384 < sumWith s n p Part.pool ∨
        partOk p s.holds s.time.toNat (s.inPart n) (fun _ => true) = false) →
      Answers (.partset c) s c s 0 1#64 0#64)) ∧
  (∀ (s : State) (c : Cmd) (x : Ctx) (b : List Byte), Good s (.qcreate c) c → s.ctx? c.ctx.toNat = some x →
    devRead s c.ctx.toNat c.arg0.toNat 64 = .ok (b, s) → c.arg0.toNat % 64 = 0 → qWell b = true →
    x.partMask.testBit (qPart b) = true → qSubTail b = 0 → qCplHead b = 0 →
    (s.freeQueue = none → Answers (.qcreate c) s c s 0 (BitVec.allOnes 64) 0#64) ∧
    (∀ k t u v, s.freeQueue = some k → devWrite s c.ctx.toNat (c.arg0.toNat + 0x14) (toLE 4 0) = .ok t →
      devWrite t c.ctx.toNat (c.arg0.toNat + 0x2C) (toLE 4 0) = .ok u →
      devWrite u c.ctx.toNat (c.arg0.toNat + 6) (toLE 1 1) = .ok v →
      Answers (.qcreate c) s c { v with queues := v.queues ++ [⟨k, c.ctx.toNat, c.src, false, c.arg0.toNat, qPart b, qClass b,
        c.arg1.toNat, 1, none, false, 0, [], []⟩] } 0 (BitVec.ofNat 64 k) 0#64)) ∧
  (∀ (s : State) (c : Cmd), Good s (.qdestroy c) c →
    (∀ q b, s.queue? c.arg0.toNat = some q → c.arg1.toNat ≤ 2 → devRead s q.ctx q.addr 64 = .ok (b, s) → q.qstate = 1 →
      q.ending = none → idxSub (qSubTail b) (qSubHead b) ≤ qSubLen b → (∀ l ∈ s.launches, l.q ≠ q.n) →
      ∃ u q', Answers (.qdestroy c) s c u 0 0#64 0#64 ∧ u.queue? c.arg0.toNat = some q' ∧ q'.qstate = 2 + c.arg1.toNat ∧
        q'.ending = some (c.arg1.toNat, qSubTail b) ∧ (c.arg1 = 0#64 → q'.cpls = q.cpls) ∧
        (c.arg1 ≠ 0#64 → q'.cpls.length = q.cpls.length + idxSub (qSubTail b) (qSubHead b) ∧
          q'.cpls.take q.cpls.length = q.cpls ∧ ∀ x ∈ q'.cpls.drop q.cpls.length, x.status = 3) ∧ u.launches = s.launches ∧ u.me.x = s.me.x ∧
        ∀ n, n ≠ c.arg0.toNat → u.queue? n = s.queue? n) ∧
    (∀ q m tail, s.queue? c.arg0.toNat = some q → q.qstate ≠ 0 → q.ending = some (m, tail) → c.arg1.toNat ≤ m → m ≤ 2 →
      ∃ u q', Answers (.qdestroy c) s c u 0 0#64 0#64 ∧ u.queue? c.arg0.toNat = some q' ∧ q'.qstate = 2 + m ∧
        q'.ending = some (m, tail)) ∧
    (s.queue? c.arg0.toNat = none → Answers (.qdestroy c) s c s 1 0#64 0#64)) ∧
  (∀ (s : State) (c : Cmd), Good s (.winset c) c → c.arg0.toNat ≤ 1023 → c.arg3.toNat < 16 → c.arg4.toNat < 2 ^ 16 →
    c.arg1.toNat + c.arg2.toNat ≤ 2 ^ 56 → ∃ u, Answers (.winset c) s c u 0 0#64 0#64 ∧ u = { s with wins := u.wins } ∧
      u.window? c.arg0.toNat = some
        ⟨c.arg0.toNat, c.ctx.toNat, c.src, c.arg1.toNat, c.arg2.toNat, c.arg3.toNat, c.arg4.toNat, false⟩ ∧
      ∀ n, n ≠ c.arg0.toNat → u.window? n = s.window? n) ∧
  (∀ (s : State) (c : Cmd), Good s (.winclr c) c → ∃ u, Answers (.winclr c) s c u 0 0#64 0#64 ∧ u = { s with wins := u.wins } ∧
    u.window? c.arg0.toNat = none ∧ ∀ n, n ≠ c.arg0.toNat → u.window? n = s.window? n) ∧
  (∀ (s : State) (c : Cmd), Good s (.groupset c) c → 1 ≤ c.arg1.toNat → c.arg1.toNat ≤ 252 →
    c.arg2.toNat < c.arg1.toNat → c.arg0.toNat < 2 ^ 16 →
    ∃ u g, Answers (.groupset c) s c u 0 0#64 0#64 ∧ u = { s with groups := u.groups } ∧
      u.groups.find? (fun h => h.n == c.arg0.toNat) = some g ∧ g.rank = c.arg2.toNat ∧ g.h = c.arg3 ∧
      g.members.length = c.arg1.toNat ∧ (∀ k, k < c.arg1.toNat → g.members.getD k 0 = field c.payload (16 * k) 16) ∧
      ∀ n, n ≠ c.arg0.toNat → u.groups.find? (fun h => h.n == n) = s.groups.find? (fun h => h.n == n)) ∧
  (∀ (s : State) (c : Cmd), Good s (.clockset c) c → c.arg0.toNat ≤ 127 → c.arg1.toNat ≤ 1 → c.arg2.toNat < 2 ^ 12 →
    c.arg3.toNat ≤ 1 →
    (s.loaded = true → Answers (.clockset c) s c s 2 0#64 0#64) ∧
    (s.loaded = false → Answers (.clockset c) s c { s with ptpDomain := c.arg0.toNat, bc := c.arg1.toNat.testBit 0, ptpPorts := c.arg2.toNat, ptpPeer := c.arg3.toNat.testBit 0 } 0 0#64 0#64)) ∧
  (∀ (s : State) (c : Cmd), Good s (.hostreg c) c → c.arg1.toNat ≤ 3 →
    ∃ u, Answers (.hostreg c) s c u 0 0#64 0#64 ∧ u = { s with hosts := u.hosts } ∧
      u.registered c.arg0.toNat = !c.arg1.toNat.testBit 1 ∧
      (∀ b, (c.arg0.toNat, b) ∈ u.hosts ↔ c.arg1.toNat.testBit 1 = false ∧ b = c.arg1.toNat.testBit 0) ∧
      ∀ h b, h ≠ c.arg0.toNat → ((h, b) ∈ u.hosts ↔ (h, b) ∈ s.hosts))

/-- The command endpoint: which commands are heard and answered, contexts, partitions, queues, windows, groups and hosts.
The parts are stated above, each with its rules. -/
def Obligations.Commands : Prop :=
  Claims.CommandsAnswered ∧ Claims.ContextCommands ∧ Claims.PartitionAndQueueCommands

/-! ### Remote operations, the clock (R342, R344, R345, R354 to R356, R423) -/

namespace Sys2Proof.Claims

/-- A remote operation within its window: one that its permission, its initiator and the leaf allow. -/
structure Granted (s : State) (r : Remote) (bit n : Nat) (need : Need) (bs : List Byt) (t : State) : Prop where
  quiet : Quiet s
  window : ∃ w, s.window? r.win = some w ∧ r.off + n ≤ w.len ∧ w.perm.testBit bit = true ∧ s.mayInitiate w r.src = true ∧
    (r.svc = .rudi → winHasDev s w = false) ∧ winBytes s w r.off n need = some (bs, t)

/-- The DETAIL of a refusal at a window (R423). -/
def refusal (s : State) (r : Remote) (bit n : Nat) (need : Need) (w : Window) : Option Nat :=
  if w.len < r.off + n then some 0
  else if w.perm.testBit bit = false then some 1
  else if s.mayInitiate w r.src = false then some 2
  else if r.svc = .rudi ∧ winHasDev s w = true then some 4
  else if winBytes s w r.off n need = none then some 3
  else none

end Sys2Proof.Claims

/-- R342, R344, R345, R423: a granted remote write leaves its data in the window's bytes and is acknowledged; a read returns
the bytes; an atomic returns the old value and leaves the new one, which a failed compare does not write. A refused operation
changes no memory: it sends a class 0x61 record to the window's host and a refusal to the initiator. Nothing is recorded.
(Log entry 30: the order in which refusals are looked for is the model's.) -/
def Sys2Proof.Claims.RemoteOperations : Prop :=
  (∀ (s t : State) (r : Remote) (data : List Byte) (bs : List Byt), Granted s r 1 data.length .write bs t →
    exec (.remoteWrite r data none) s = .next ((t.pokeByts bs data).emit (.ack r.src []))) ∧
  (∀ (s t : State) (r : Remote) (n : Nat) (bs : List Byt), Granted s r 0 n .read bs t → (∀ b ∈ bs, b.loc ∉ t.bad) →
    exec (.remoteRead r n) s = .next (t.emit (.ack r.src (bs.map (fun b => Memory.get t.mem b.loc))))) ∧
  (∀ (s t : State) (r : Remote) (op : RAtomic) (v w : Word) (bs : List Byt) (old : Word), Granted s r 2 8 .write bs t →
    (∀ x, s.window? r.win = some x → (x.base + r.off) % 8 = 0) → (∀ b ∈ bs, b.loc ∉ t.bad) →
    old = BitVec.ofNat 64 (ofLE (bs.map (fun b => Memory.get t.mem b.loc))) →
    exec (.remoteAtomic r op v w) s = .next ((match op with
      | .fetchAdd => t.pokeByts bs (toLE 8 (old + v).toNat)
      | .swap => t.pokeByts bs (toLE 8 v.toNat)
      | .cswap => if old = v then t.pokeByts bs (toLE 8 w.toNat) else t).emit (.ack r.src (toLE 8 old.toNat)))) ∧
  (∀ (s : State) (r : Remote) (w : Window) (d : Nat), Quiet s → s.window? r.win = some w →
    (∀ data mark, refusal s r 1 data.length .write w = some d →
      exec (.remoteWrite r data mark) s = .next (s.refuseOp r d)) ∧
    (∀ n, refusal s r 0 n .read w = some d → exec (.remoteRead r n) s = .next (s.refuseOp r d)) ∧
    (∀ op v x, (w.base + r.off) % 8 = 0 → refusal s r 2 8 .write w = some d →
      exec (.remoteAtomic r op v x) s = .next (s.refuseOp r d)) ∧
    (s.registered w.host = true → ∃ rc, s.refuseOp r d = { s with fseq := s.fseq + 1, out := s.out ++ [.record w.host rc, .refuse r.src] } ∧
      rc.flt.cls = 0x61 ∧ rc.flt.detail = d ∧ rc.seq = BitVec.ofNat 64 (s.fseq + 1)))

/-- R354 to R356, R363: a PTP message sets the rate and EBOUND, which saturates; LOCK once set stays until the lock is lost;
losing it is event 0x03 with the last EBOUND, regaining it event 0x04. While a context is loaded the rate stays within 500
parts per million. A connection for a feature that is not supported is refused (log entry 80). -/
def Sys2Proof.Claims.Clock : Prop :=
  (∀ (s : State) (rate : Int) (eb : Nat) (locked : Bool), s.replay = none →
    ∃ u, exec (.ptpMessage rate eb locked) s = .next u ∧ u.ebound.toNat = min eb 0xFFFFFFFF ∧ u.lock = (s.lock || locked) ∧
      (s.loaded = false → 0 ≤ rate → (u.rate : Int) = rate) ∧
      (s.loaded = true → 7996000000 ≤ u.rate ∧ u.rate ≤ 8004000000 ∧
        (7996000000 ≤ rate → rate ≤ 8004000000 → (u.rate : Int) = rate)) ∧
      u = { s with rate := u.rate, ebound := u.ebound, lock := u.lock, hseq := u.hseq, out := u.out } ∧
      u.out = s.out ++ (if locked = true ∧ s.lock = false then
        (s.hosts.filter (·.2)).map (fun h => .health h.1 (healthBytes 4 0 s.time (u.ebound.setWidth 64) (s.hseq + 1))) else [])) ∧
  (∀ s : State, s.replay = none → ∃ u, exec .ptpLockLost s = .next u ∧ u.lock = false ∧ u.ebound = s.ebound ∧
    u = { s with lock := false, hseq := u.hseq, out := u.out } ∧
    u.out = s.out ++ (if s.lock then
      (s.hosts.filter (·.2)).map (fun h => .health h.1 (healthBytes 3 0 s.time (s.ebound.setWidth 64) (s.hseq + 1))) else [])) ∧
  (∀ (s : State) (src feature : Nat), s.boot = .up → s.replay = none →
    exec (.connectionSetup src feature) s = .next (if 8 < feature then { s with out := s.out ++ [.refuse src] } else s))

/-- Remote operations on windows, the disciplined clock, and connection setup. The parts are stated above, each with its
rules. -/
def Obligations.RemoteOperationsAndClock : Prop :=
  Claims.RemoteOperations ∧ Claims.Clock

/-! ### Leeway: submissions, the admission test, completion records (R50 to R60, R405 to R407) -/

/-- R48, R56 to R59: a launch without a DEADLINE is admitted when its partition can give every node its width and holds the
pool entries of all; one with a DEADLINE also when, at each deadline, the demand of each kind due by then fits the shares'
capacity from t0 outside the holds, and its own span ends in time. One refused with an EFD other than 0 would be admitted
with that deadline. (Log entry 70: where a deadline has passed the condition is taken as written.) -/
def Sys2Proof.Claims.AdmissionTest : Prop :=
  ∀ (p : Part) (holds : List Nat) (t0 : Nat) (others : List Launch) (c : Launch), c.missed = false →
    ∀ (timed : Launch → Bool) (passes : Nat → Prop), timed = (fun l => l.deadline != 0 && !l.missed) →
    passes = (fun d =>
      (∀ k, k < 4 → ∀ e, (e = d ∨ ∃ l ∈ others, timed l = true ∧ l.deadline = e) →
        (((((others.filter (fun l => timed l && l.deadline ≤ e)).map (fun l => l.demand p k)).sum +
            (if d ≤ e then c.demand p k else 0) : Nat) : Int) ≤ p.share k * (5 * ((e : Int) - t0 - heldIn holds t0 e) / 4))) ∧
      t0 + ceilDiv (4 * c.span p t0) 5 ≤ d) →
    (admitTest p holds t0 others c = none ↔
      c.widthsOk p = true ∧ ((others ++ [c]).map (·.poolres)).sum ≤ p.pool ∧ (c.deadline = 0 ∨ passes c.deadline)) ∧
    (∀ e, admitTest p holds t0 others c = some e → e ≠ 0 → passes e)

namespace Sys2Proof.Claims

/-- A queue that Leeway may read, with its record: its pages are marked already. -/
structure Readable (s : State) (n : Nat) (q : Queue) (b : List Byte) : Prop where
  queue : s.queue? n = some q
  opened : q.qstate ≠ 0
  record : devRead s q.ctx q.addr 64 = .ok (b, s)

/-- Nothing but queues, launches and memory with what follows its bytes changes. -/
def launchesOnly (s u : State) : Prop :=
  u = { s with
    queues := u.queues, launches := u.launches, nextLaunch := u.nextLaunch, mem := u.mem, ctxs := u.ctxs, bad := u.bad,
    dirtyArmed := u.dirtyArmed, coh := u.coh, image := u.image, me := u.me, strands := u.strands } ∧
    u.me.x = s.me.x ∧ u.me.pc = s.me.pc

end Sys2Proof.Claims

/-- R50, R52, R58 to R60, R406: Leeway reads the entry at SUBHEAD while the ring holds one and a completion record has a place,
and moves SUBHEAD on; a result that an earlier launch under the same index gave is none any more (R322). A launch that passes the test is taken under the next launch number; one that does not is due a
completion record of STATUS 1 with its EFD; one whose records are malformed or cannot be read, STATUS 7 or 8; and once a
unit is lost with no spare, every one of STATUS 1 with EFD 0 (R448). No launch of a context is read before its load (R336,
log entry 124). Of an entry only the launch record's address, its low 8 bytes, is used (log entry 85). -/
def Sys2Proof.Claims.Submissions : Prop :=
  ∀ (s : State) (n : Nat) (q : Queue) (b : List Byte) (head : Nat), Readable s n q b → q.ending = none → head = qSubHead b →
    idxSub (qSubTail b) head ≤ qSubLen b →
    (s.reported q.ctx = false → exec (.submissionRead n) s = .next s) ∧
    ((head = qSubTail b ∨ qCplLen b ≤ idxSub (qCplTail b) (qCplHead b) + q.reading) → exec (.submissionRead n) s = .next s) ∧
    (∀ (e : List Byte) (t : State) (read : Queue), Quiet s → read = { q with written := q.written.filter (fun w => w.1 != head) } →
      s.reported q.ctx = true → head ≠ qSubTail b →
      idxSub (qCplTail b) (qCplHead b) + q.reading < qCplLen b →
      devRead s q.ctx (qSubRing b + 16 * (head % qSubLen b)) 16 = .ok (e, s) →
      devWrite s q.ctx (q.addr + 0x14) (toLE 4 ((head + 1) % 2 ^ 32)) = .ok t →
      (∀ h ns l, readLaunch s q.ctx (field e 0 8) = .ok (h, ns, s) → s.noSpare = false →
        l = ⟨0, q.n, head, q.ctx, q.part, q.cls, field e 0 8, lrDeadline h, lrTag h, lrPool h, 0, false, false, false,
          ns.map Node.start⟩ →
        (admitTest (s.part q.part) s.holds s.time.toNat (s.inPart q.part) l = none →
          ∃ u, exec (.submissionRead n) s = .next u ∧ u.mem = t.mem ∧ u.nextLaunch = s.nextLaunch + 1 ∧
            u.launches = s.launches ++ [{ l with no := s.nextLaunch, t0 := s.time.toNat }.advance] ∧
            u.queue? n = some { read with reading := q.reading + 1 } ∧ launchesOnly s u) ∧
        (∀ efd, admitTest (s.part q.part) s.holds s.time.toNat (s.inPart q.part) l = some efd →
          ∃ u, exec (.submissionRead n) s = .next u ∧ u.mem = t.mem ∧ u.launches = s.launches ∧ launchesOnly s u ∧
            u.queue? n = some { read with
              reading := q.reading + 1, cpls := q.cpls ++ [⟨lrTag h, 0, 1, 0, efd, s.time, head, false⟩] })) ∧
      (∀ st tag, readLaunch s q.ctx (field e 0 8) = .error (st, tag) → (st = 7 ∨ st = 8) ∧
        ∃ u, exec (.submissionRead n) s = .next u ∧ u.mem = t.mem ∧ u.launches = s.launches ∧ launchesOnly s u ∧
          u.queue? n = some { read with
            reading := q.reading + 1
            cpls := q.cpls ++ [⟨tag, 0, if s.noSpare then 1 else st, 0, 0, s.time, head, false⟩] }) ∧
      (∀ h ns, readLaunch s q.ctx (field e 0 8) = .ok (h, ns, s) → s.noSpare = true →
        ∃ u, exec (.submissionRead n) s = .next u ∧ u.mem = t.mem ∧ u.launches = s.launches ∧ launchesOnly s u ∧
          u.queue? n = some { read with
            reading := q.reading + 1, cpls := q.cpls ++ [⟨lrTag h, 0, 1, 0, 0, s.time, head, false⟩] }))

/-- R50, R51, R67, R350: a record that has a place is written at CPLTAIL, which moves on, and copied to the host that created
the queue with one; its place is free for it, and the launch's result can be read. An end-marking record takes the queue away;
a destroyed queue with nothing left is due it. -/
def Sys2Proof.Claims.CompletionRecords : Prop :=
  (∀ (s : State) (n : Nat) (q : Queue) (b : List Byte) (c : Cpl) (off : Nat) (t u : State), Readable s n q b →
    q.cpls.find? (fun c => c.hasPlace q b) = some c → off = 32 * (qCplTail b % qCplLen b) →
    devWrite s q.ctx (qCplRing b + off) c.bytes = .ok t →
    devWrite t q.ctx (q.addr + 0x2C) (toLE 4 ((qCplTail b + 1) % 2 ^ 32)) = .ok u →
    ∃ v, exec (.completionRecordWrite n) s = .next v ∧ v.mem = u.mem ∧ v.launches = s.launches ∧ v.me.x = s.me.x ∧
      (c.marker = true → v.queue? n = none) ∧
      (c.marker = false → ∃ q', v.queue? n = some q' ∧ q'.cpls = q.cpls.erase c ∧
        (q'.written.find? (fun w => w.1 == c.sub)).map (·.2) = some (c.status + c.ndem * 2 ^ 8 + c.no * 2 ^ 32) ∧ q'.qstate = q.qstate ∧ q'.ending = q.ending) ∧
      (s.replay = none → v.out = s.out ++
        (if q.cplHost = 0 then [] else [.hostWrite q.host false (q.cplHost + off) c.bytes]))) ∧
  (∀ c : Cpl, c.bytes.length = 32 ∧ field c.bytes 0 8 = c.tag.toNat ∧ field c.bytes 8 4 = c.no % 2 ^ 32 ∧
    field c.bytes 12 1 = c.status % 2 ^ 8 ∧ field c.bytes 14 2 = c.ndem % 2 ^ 16 ∧ field c.bytes 16 8 = c.efd % 2 ^ 64 ∧
    field c.bytes 24 8 = c.fin.toNat) ∧
  (∀ (s : State) (n : Nat) (q : Queue) (b : List Byte) (m : Nat), Readable s n q b → q.cpls = [] → q.ending = some (m, qSubHead b) →
    (∀ l ∈ s.launches, l.q ≠ q.n) →
    ∃ v q', exec (.completionRecordWrite n) s = .next v ∧ v.queue? n = some q' ∧ q'.qstate = 0 ∧
      q'.cpls = [⟨0#64, 0, 3, 0, 0, s.time, 0, true⟩] ∧ v.launches = s.launches ∧ v.out = s.out)

/-- The admission test, reading submissions, and completion records. The parts are stated above, each with its rules. -/
def Obligations.Leeway : Prop :=
  Claims.AdmissionTest ∧ Claims.Submissions ∧ Claims.CompletionRecords

/-! ### Nodes (R20, R61 to R66, R402, R405) -/

/-- R61: on POOL_ENTRY the waiting nodes whose predecessors have all completed are ready, and ready nodes are in the pool while
the launch holds fewer entries than POOLRES; no other node changes, and no record of a node does. -/
def Sys2Proof.Claims.PoolEntries : Prop :=
  ∀ (s : State) (no node : Nat) (l : Launch), s.launch? no = some l → l.failed = false → l.aborted = false →
    ∃ u l', exec (.poolEntry no node) s = .next u ∧ u = { s with launches := u.launches } ∧ u.launch? no = some l' ∧
      l'.nodes.length = l.nodes.length ∧ heldEntries l'.nodes ≤ max l.poolres (heldEntries l.nodes) ∧
      (heldEntries l'.nodes < l.poolres → ∀ n ∈ l'.nodes, n.st ≠ .ready) ∧
      (∀ (i j : Nat) (m n n' : Node), i < j → l'.nodes[i]? = some m → m.st = .ready → l.nodes[j]? = some n →
        l'.nodes[j]? = some n' → n'.st = .pooled → n.st = .pooled) ∧
      (∀ (i : Nat) (n n' : Node), l.nodes[i]? = some n → l'.nodes[i]? = some n' → n' = { n with st := n'.st } ∧
        (n.st = .waiting → (n'.st ≠ .waiting ↔ ∀ p ∈ n.r.preds, ∃ m, l.nodes[p]? = some m ∧ m.st = .done)) ∧
        (n'.st ≠ n.st → (n.st = .waiting ∨ n.st = .ready) ∧ (n'.st = .ready ∨ n'.st = .pooled))) ∧
      (∀ k, k ≠ no → u.launch? k = s.launch? k)

/-- R16, R51, R64 to R66, R405: a node completes when its strands have all executed EXIT with their transfers done, or its
engine work has ended; a timed node when TIME has reached its TARGET, with its store. Its strands go; the launch's last node
makes its completion record due, and the launch is no longer held. A node that has used its BUDGET is demoted to tier 2; a
missed DEADLINE is reported to the host and its launch is marked. That a timed node fires in the pool or not, and that its
store goes to ARGS as given, is log entry 99. -/
def Sys2Proof.Claims.NodesComplete : Prop :=
  (∀ (s : State) (l : Launch) (n : Node) (no i : Nat), s.launch? no = some l → l.nodes[i]? = some n → s.replay = none →
    (n.st = .running → (n.r.kind = 0 → n.left = [] ∧ n.exited = n.r.total ∧ s.nodeTransfers ⟨no, i, 0⟩ = false) →
      (n.r.kind ≠ 0 → n.ended = true) → exec (.nodeComplete no i) s = .next (s.nodeDone ⟨no, i, 0⟩)) ∧
    (n.st ≠ .running ∨ (n.r.kind = 0 ∧ (n.left ≠ [] ∨ n.exited ≠ n.r.total ∨ s.nodeTransfers ⟨no, i, 0⟩ = true)) ∨
      (n.r.kind ≠ 0 ∧ n.ended = false) → exec (.nodeComplete no i) s = .next s) ∧
    (n.r.kind = 4 → (n.st = .ready ∨ n.st = .pooled) → l.failed = false → l.aborted = false → s.logOn = false →
      (s.time < n.r.target → exec (.timedNodeFire no i) s = .next s) ∧
      (n.r.target ≤ s.time →
        (n.r.args = 0#64 → exec (.timedNodeFire no i) s = .next (s.nodeDone ⟨no, i, 0⟩)) ∧
        (∀ bs t, n.r.args ≠ 0#64 → devAccess s l.ctx n.r.args.toNat 8 .write = .ok (bs, t) → (∀ b ∈ bs, b.loc ∉ s.wbad) →
          exec (.timedNodeFire no i) s = .next ((t.pokeByts bs (toLE 8 n.r.seed.toNat)).nodeDone ⟨no, i, 0⟩)))) ∧
    (n.st = .running → n.r.kind ≠ 4 → n.r.budget ≤ n.charge → n.demoted = false →
      ∃ u l' n', exec (.demotion no i) s = .next u ∧ u = { s with launches := u.launches } ∧ u.launch? no = some l' ∧
        l'.nodes[i]? = some n' ∧ n' = { n with demoted := true } ∧ u.tier l' n' = 2) ∧
    (l.deadline ≠ 0 → l.missed = false → l.deadline < s.time.toNat →
      ∃ u rc, exec (.deadlineMissed no) s = .next u ∧ u.launch? no = some { l with missed := true } ∧
        u.out = s.out ++ [.record (s.hostOfQueue l.q) rc] ∧
        rc.flt = ⟨0x20, 0, 0#64, BitVec.ofNat 64 l.deadline, BitVec.ofNat 64 l.no⟩ ∧
        u = { s with launches := u.launches, fseq := s.fseq + 1, out := u.out })) ∧
  (∀ (s : State) (l : Launch) (n : Node) (no i : Nat), s.launch? no = some l → l.nodes[i]? = some n → l.failed = false →
    l.aborted = false →
    (s.nodeDone ⟨no, i, 0⟩).mem = s.mem ∧ (s.nodeDone ⟨no, i, 0⟩).out = s.out ∧
    (∀ t ∈ (s.nodeDone ⟨no, i, 0⟩).all, t ∈ s.all ∧ ¬ (t.gang.launch = no ∧ t.gang.node = i)) ∧
    (∀ t ∈ s.all, ¬ (t.gang.launch = no ∧ t.gang.node = i) → t ∈ (s.nodeDone ⟨no, i, 0⟩).all) ∧
    ((∃ j m, j ≠ i ∧ l.nodes[j]? = some m ∧ m.st ≠ .done) →
      (s.nodeDone ⟨no, i, 0⟩).queues = s.queues ∧ ∃ l', (s.nodeDone ⟨no, i, 0⟩).launch? no = some l' ∧
        l'.nodes[i]? = some { n with st := .done }) ∧
    ((∀ j m, j ≠ i → l.nodes[j]? = some m → m.st = .done) →
      (s.nodeDone ⟨no, i, 0⟩).launch? no = none ∧ ∀ q, s.queue? l.q = some q →
        (s.nodeDone ⟨no, i, 0⟩).queue? l.q = some { q with cpls := q.cpls ++ [⟨l.tag, l.no,
          if l.nodes.any (·.demoted) then 2 else if l.missed then 6 else 0, min 0xFFFF (l.nodes.filter (·.demoted)).length, 0,
          s.time, l.sub, false⟩] }))

/-! ### Residency (R20, R25 to R27, R36 to R43, R62, R63, R410) -/

/-- R20, R27, R62, R406: a gang dispatched to places it may have starts there, strand by strand: pc at TARGET, x1 ARGS, x2 the
strand's index in the node, every other x register zero, RNGKEY the SEED with the index, nothing configured. An engine
node goes to its unit. Each strand has a share of its own (R29). A node record that can no longer be used ends its launch;
the remaining gangs of a node that runs are dispatched whatever its launch has come to (R402). A dispatch that the rules do
not allow does not happen, nor one of tier 2 on cores that suspended work of tiers 0 and 1, or of a lower class, could take
(R63). Places are numbered, and units free, as log entry 92 says; the record is read again once, for all the node's
gangs (log entry 94). -/
def Sys2Proof.Claims.Dispatch : Prop :=
  ∀ (s : State) (no i gang : Nat) (places : List Nat) (shares : List (BitVec 2)) (areas : List Areas) (l : Launch) (n : Node) (x : Ctx),
    s.launch? no = some l → s.node? no i = some n → s.ctx? l.ctx = some x →
    ((n.dispatchable = false ∨ s.beaten l i n places = true ∨
        (n.r.kind = 0 ∧ s.gangOk x l i n gang places (shares.map (·.toNat)) areas = false) ∨
        (n.r.kind = 0 ∧ s.tier l n = 2 ∧ s.claimed l.cls (places.map (· / 4)) = true) ∨
        (n.r.kind ≠ 0 ∧ (places.length ≠ 1 ∨ s.unitFree n.r.kind (places.headD 0) = false))) →
      exec (.dispatch no i gang places shares areas) s = .next s) ∧
    (n.dispatchable = true → s.beaten l i n places = false →
      (n.r.kind = 0 → s.gangOk x l i n gang places (shares.map (·.toNat)) areas = true ∧
        (s.tier l n = 2 → s.claimed l.cls (places.map (· / 4)) = false)) →
      (n.r.kind ≠ 0 → places.length = 1 ∧ s.unitFree n.r.kind (places.headD 0) = true) →
      (∀ det, n.st = .pooled → s.nodeAgain l i n = .error det →
        exec (.dispatch no i gang places shares areas) s = .next (s.refuseNode l i det)) ∧
      (∀ r n', ((n.st = .pooled ∧ s.nodeAgain l i n = .ok (r, s)) ∨ (n.st = .running ∧ r = n.r)) →
        n' = { n with r := r, st := .running, gangs := n.gangs ++ [gang], unit := places.headD 0 } →
        (r.kind ≠ 0 → exec (.dispatch no i gang places shares areas) s =
          .next (startNode (s.setNode no i n') l { n with r := r } i (places.headD 0))) ∧
        (r.kind = 0 → objAt x r.target.toNat ≠ none → ∃ u, exec (.dispatch no i gang places shares areas) s = .next u ∧
          u = { s with launches := u.launches, strands := u.strands, nextSid := s.nextSid + r.gangSize } ∧
          u.node? no i = some n' ∧ u.strands.length = s.strands.length + r.gangSize ∧
          (∀ j, j < s.strands.length → u.strands[j]? = s.strands[j]?) ∧
          ∀ j, j < r.gangSize → ∃ t, u.strands[s.strands.length + j]? = some t ∧ t.live = .resident ∧ t.ctx = l.ctx ∧
            t.gang = ⟨l.no, i, gang⟩ ∧ 4 * t.core + t.place = places.getD j 0 ∧ t.place < 4 ∧ t.pc = r.target ∧
            t.llin = gang * r.gangSize + j ∧ t.getX 1 = r.args ∧ t.getX 2 = BitVec.ofNat 64 t.llin ∧
            (∀ k : XReg, k ≠ 1 → k ≠ 2 → t.getX k = 0#64) ∧ t.rngKey = r.seed ^^^ BitVec.ofNat 64 t.llin ∧
            t.share = (shares.getD j 0#2).toNat ∧ t.vtype = 0#64 ∧ t.vl = 0 ∧ t.mvl = 0 ∧ t.rdepth = 0 ∧ t.mdepth = 0 ∧ t.fstat = 0#32 ∧
            t.inMatrix = false)))

/-- The ready pool, the completion of nodes, and dispatch. The parts are stated above, each with its rules. -/
def Obligations.NodesAndDispatch : Prop :=
  Claims.PoolEntries ∧ Claims.NodesComplete ∧ Claims.Dispatch

namespace Sys2Proof.Claims

/-- A gang is saved: every strand of it keeps its registers and its pc, holds no reservation and waits for nothing; the
strands of other gangs stay as they were but for a reservation. -/
structure Saved (s : State) (g : GangId) (u : State) : Prop where
  saved : ∀ t ∈ u.all, t.gang = g → t.live = .saved ∧ t.resv = none ∧ t.blocked = none
  kept : ∀ t ∈ s.all, t.gang = g → ∃ t' ∈ u.all, t'.id = t.id ∧ t'.gang = g ∧ t'.core = t.core ∧ t'.x = t.x ∧ t'.pc = t.pc ∧
    t'.v = t.v ∧ t'.pending = t.pending
  others : ∀ t ∈ s.all, t.gang ≠ g → ∃ t' ∈ u.all, { t' with resv := none } = { t with resv := none }
  outside : u = { s with
    me := u.me, strands := u.strands, mem := u.mem, bad := u.bad, dirtyArmed := u.dirtyArmed, coh := u.coh,
    image := u.image }

/-- The gang of a tier with the largest key. -/
def Largest (s : State) (tier : Nat) (g : GangId) : Prop :=
  ∃ key, (key, g) ∈ s.gangsOfTier tier ∧
    ∀ y ∈ s.gangsOfTier tier, y = (key, g) ∨ (keyLt y.1 key = true ∧ keyLt key y.1 = false)

/-- A gang that stands at a pre-emption point with nothing queued and no fault to take there (R397): all its strands are
resident. -/
structure AtPoint (s : State) (g : GangId) : Prop where
  some : ∃ t ∈ s.all, t.gang = g
  ids : (s.all.map (·.id)).Nodup
  here : ∀ t ∈ s.all, t.gang = g → t.live = .resident ∧ t.awaiting = false ∧ t.mqueue = [] ∧ t.mustTake = false

end Sys2Proof.Claims

/-- R25, R36 to R40, R63, R366: pre-emption saves a gang whole, for which there is a reason: the spare that its cluster awaits,
or, where it is the tier-2 gang with the largest key, work of tier 0 or 1 that finds no capacity (log entry 127). A gang blocked for 4,096 cycles gives way to another that waits for
its places; a ready tier-0 node that can use no free place takes those of the tier-2 gang with the largest key, or, failing
one, of the tier-1 gang (log entry 128). Which places are kept for the gang that waits is log entry 95. -/
def Sys2Proof.Claims.Preemption : Prop :=
  (∀ (s : State) (no i gang : Nat), AtPoint s ⟨no, i, gang⟩ →
    ((Largest s 2 ⟨no, i, gang⟩ ∧ s.starved = true) ∨
        (∃ t ∈ s.all, t.gang = ⟨no, i, gang⟩ ∧ s.swapDue t.cluster = true) →
      ∃ u, exec (.preemption no i gang) s = .next u ∧ Saved s ⟨no, i, gang⟩ u) ∧
    ((s.starved = false ∨ (∀ y ∈ s.gangsOfTier 2, y.2 ≠ ⟨no, i, gang⟩) ∨ ∃ g, g ≠ ⟨no, i, gang⟩ ∧ Largest s 2 g) →
        (∀ t ∈ s.all, t.gang = ⟨no, i, gang⟩ → s.swapDue t.cluster = false) →
      exec (.preemption no i gang) s = .next s) ∧
    ((∀ t ∈ s.all, t.gang = ⟨no, i, gang⟩ → t.blocked ≠ none ∧ 4096 ≤ t.blockedFor) →
      (∃ t ∈ s.all, t.gang = ⟨no, i, gang⟩ ∧ s.waitsFor t.core ⟨no, i, gang⟩ = true) →
      ∃ u, exec (.residencyYield no i gang) s = .next u ∧ Saved s ⟨no, i, gang⟩ u) ∧
    ((∃ t ∈ s.all, t.gang = ⟨no, i, gang⟩ ∧ (t.blocked = none ∨ t.blockedFor < 4096)) →
      exec (.residencyYield no i gang) s = .next s)) ∧
  (∀ (s : State) (no i : Nat) (l : Launch) (n : Node) (tier : Nat) (g : GangId), s.launch? no = some l →
    s.node? no i = some n → n.dispatchable = true → n.r.kind = 0 → s.tier l n = 0 →
    (∀ q, q < 2048 → s.usable l i n q = false) → (tier = 2 ∨ (tier = 1 ∧ s.gangsOfTier 2 = [])) →
    Largest s tier g → AtPoint s g → ∃ u, exec (.preemptForTier0 no i) s = .next u ∧ Saved s g u)

/-- R26, R29, R30, R32, R63, R197, R410: a saved gang comes back to free places of its home cores, each strand with the share
granted to it, unless R32 or room forbids it or, where it is of tier 2, work of tier 0 or 1 or of a lower class could take the cores
(log entry 98); a gang of
one strand holds what its save area holds, its event latch is set, and MVL does not exceed what the share can hold. A pending
failure is taken at a pre-emption point, with a wait's own pc. -/
def Sys2Proof.Claims.Resumption : Prop :=
  (∀ (s : State) (no i gang : Nat) (shares : List (BitVec 2)) (l : Launch) (n : Node), s.launch? no = some l →
    s.node? no i = some n →
    (s.resumeOk l i n.r (s.gangStrands ⟨no, i, gang⟩) (fun t => (shares.getD (n.r.placeIn t) 0#2).toNat) = false ∨
      (s.tier l n = 2 ∧ (s.claimed l.cls ((s.gangStrands ⟨no, i, gang⟩).map (·.core)) = true ∨
        ∃ (m : Launch) (j : Nat) (h : Node), m ∈ s.launches ∧ m.nodes[j]? = some h ∧ h.r.kind = 0 ∧
          (s.tier m h < 2 ∨ m.cls < l.cls) ∧ h.dispatchable = true ∧
          ∃ t ∈ s.gangStrands ⟨no, i, gang⟩, ∃ p, p < 4 ∧ s.usable m j h (4 * t.core + p) = true)) →
      exec (.resumption no i gang shares) s = .next s)) ∧
  (∀ (s : State) (no i gang : Nat) (shares : List (BitVec 2)) (share : BitVec 2) (l : Launch) (n : Node) (p : Nat),
    s.launch? no = some l → s.node? no i = some n → s.gangStrands ⟨no, i, gang⟩ = [s.me] → s.me.live = .saved →
    share = shares.getD (n.r.placeIn s.me) 0#2 → s.me.grantOk share.toNat = true → s.swapDue (s.me.core / 8) = false →
    n.r.gmin ≤ share.toNat → share.toNat ≤ n.r.gmax → s.residents no i + 1 ≤ n.r.maxw →
    (s.onCore s.me.core).length + 1 ≤ 4 → s.fileUsed s.me.core + 8 * 2 ^ share.toNat ≤ 128 →
    s.promised s.me.core no i = false → (n.r.matrix = true → s.matrixOn s.me.core = false) → s.tier l n ≠ 2 →
    s.freePlace s.me.core = some p →
    (∀ st t, st = { loadBytes s.me (s.savedBytes s.me.saveArea) with
        live := .resident, place := p, share := share.toNat, latch := true, blockedFor := 0 } →
      (s.setMe (if st.inMatrix then st else { st with mvl := min st.mvl (8192 * 2 ^ share.toNat / st.vcount) })).reloadStacks =
        (t, none) →
      exec (.resumption no i gang shares) s = .next t ∧ t.me.live = .resident ∧ t.me.place = p ∧ t.me.core = st.core ∧
        t.me.share = share.toNat ∧ t.me.latch = true ∧ t.me.x = st.x ∧ t.me.pc = st.pc ∧ t.me.v = st.v ∧ t.me.vl = st.vl ∧
        t.mem = s.mem ∧ t.strands = s.strands)) ∧
  (∀ (s : State) (p : Pending) (rest : List Pending), s.me.live = .resident → s.me.awaiting = false → s.me.handler = none →
    s.me.pending = p :: rest →
    exec (.deferredFailureTaken s.me.id) s = .next ((s.setMe { s.me with
      blocked := none, hold := none, pending := rest }).takeAt p.time p.flt s.me.pc 0))

/-- Pre-emption, yielding and resumption of gangs, and deferred failures. The parts are stated above, each with its rules.
-/
def Obligations.Residency : Prop :=
  Claims.Preemption ∧ Claims.Resumption

/-! ### The module controller (R358 to R374, R447 to R455) -/

/-- R359, R362, R368, R369, R453: GOVSET sets the floor; a core whose budget lies below it has the floor as its budget from
the next window on, and no budget changes before that; MONREAD writes the
latest readings as far as its length goes, over the way the command came; ATTEST writes a report over the nonce and the versions; FWLOAD installs a decode table, or keeps an
image for the next boot, and gives VAL0 1 for one that does not verify; SPARES and CKINFO report what is left and the header.
(Log entry 5: the buffer of readings, signatures and digests are the implementation's; log entries 78 and 133: what an
image is, and whose digest DTHASH holds, are the model's choice.) -/
def Sys2Proof.Claims.PlatformCommands : Prop :=
  (∀ (s : State) (c : Cmd), Good s (.govset c) c →
    (s.loaded = true → Answers (.govset c) s c s 2 0#64 0#64) ∧
    (s.loaded = false → 256 < c.arg0.toNat → Answers (.govset c) s c s 1 0#64 0#64) ∧
    (s.loaded = false → c.arg0.toNat ≤ 256 →
      Answers (.govset c) s c { s with
        gfloor := c.arg0.toNat, cores := s.cores.map (fun e => (e.1, s.floored c.arg0.toNat e.2)) } 0 0#64 0#64)) ∧
  (∀ (s : State) (g : Nat) (k : Core),
    (g ≤ k.nextBudget → s.floored g k = { k with floorAt := (s.floored g k).floorAt } ∧
      (g < k.nextBudget → (s.floored g k).floorAt = none)) ∧
    (k.nextBudget < g → s.floored g k = { k.inWindow (s.cycle / 256) with
      next := some (s.cycle / 256 + 1, g), floorAt := some s.nextWindowAt })) ∧
  (∀ (s : State) (c : Cmd), Good s (.monread c) c → Answers (.monread c) s c
    (s.emit (.hostWrite c.src c.lane c.arg0.toNat ((Config.monitorBytes s.firmware s.samples).take c.arg1.toNat)))
    0 0#64 0#64) ∧
  (∀ (s : State) (c : Cmd), Good s (.attest c) c →
    (c.arg1 ≠ 0#64 → s.ctx? c.arg1.toNat = none → Answers (.attest c) s c s 1 0#64 0#64) ∧
    ((c.arg1 = 0#64 ∨ s.ctx? c.arg1.toNat ≠ none) → ∃ b, Answers (.attest c) s c
        (s.emit (.hostWrite c.src c.lane c.arg0.toNat b)) 0 0#64 0#64 ∧ b.length = 256 + 384 + 16224 ∧ field b 0 4 = 0x0004000E ∧
      (b.drop 8).take 32 = c.payload ∧ field b 0x28 8 = s.decver.toNat ∧
      field b 0x30 8 = (Config.imageVersion s.firmware).toNat ∧ field b 0x38 8 = Config.rollbackCount.toNat ∧
      field b 0x40 48 = (Config.sha384 s.firmware) % 2 ^ 384 ∧
      field b 0x70 48 = ((s.decImage.map Config.sha384).getD Config.tableHash) % 2 ^ 384 ∧ field b 0xD0 8 = Config.serial.toNat ∧
      (c.arg1 = 0#64 → field b 0xA0 48 = 0) ∧
      (∀ x, s.ctx? c.arg1.toNat = some x → c.arg1 ≠ 0#64 →
        field b 0xA0 48 = (Config.sha384 (x.objs.flatMap (·.image))) % 2 ^ 384) ∧
      field b 0x100 384 = (Config.signRsa (b.take 256)) % 2 ^ 3072)) ∧
  (∀ (s : State) (c : Cmd) (image : List Byte), Good s (.fwload c image) c → image.length = c.arg1.toNat →
    (s.loaded = true → Answers (.fwload c image) s c s 2 0#64 0#64) ∧
    (s.loaded = false →
      (¬ (Config.signaturesVerify image = true ∧ Config.rollbackCount.toNat ≤ Config.imageRollback image) →
        Answers (.fwload c image) s c s 0 1#64 0#64) ∧
      (Config.signaturesVerify image = true → Config.rollbackCount.toNat ≤ Config.imageRollback image →
        (Config.imageIsDecodeTable image = true →
          Answers (.fwload c image) s c { s with decTable := Config.imageVersion image, decImage := some image } 0 0#64 0#64) ∧
        (Config.imageIsDecodeTable image = false →
          Answers (.fwload c image) s c { s with nextFirmware := some image } 0 0#64 0#64)))) ∧
  (∀ (s : State) (c : Cmd) (left : Nat → Nat → Nat), Good s (.spares c) c →
    left = (fun k all => all - (s.spent.filter (fun x => x.1 == k)).length) → Answers (.spares c) s c s 0
      (BitVec.ofNat 64 (left 1 64 + left 2 128 * 2 ^ 16 + left 3 128 * 2 ^ 32 + left 4 12 * 2 ^ 48))
      (BitVec.ofNat 64 (left 5 (12 * Config.spareRows)))) ∧
  (∀ (s : State) (c : Cmd), Good s (.ckinfo c) c → (∀ a n, s.ckArea = some (a, n) →
      Answers (.ckinfo c) s c (s.emit (.hostWrite c.src c.lane c.arg0.toNat (s.readP a 64))) 0 0#64 0#64) ∧
    (s.ckArea = none → Answers (.ckinfo c) s c s 2 0#64 0#64))

namespace Sys2Proof.Claims

/-- An image has been brought back (R454): the work and TIME's discipline as they were, HBM from the safe tier, LPDDR6 as it
stands but for LDIRTY, and the holds accepted before it (R372). A core's window goes on with its budget, and the image's
budget, raised to the floor in force, holds from the next window on (R271, R359). -/
def BroughtBack (s u : State) (i : Image) (a : Nat) (rewritten : Bool) : Prop :=
  u.strands = i.strands ∧ u.ctxs = i.ctxs ∧ u.queues = i.queues ∧ u.launches = i.launches ∧ u.parts = i.parts ∧
    u.wins = i.wins ∧ u.groups = i.groups ∧ u.clusters = i.clusters ∧ u.nextLaunch = i.nextLaunch ∧
    (∀ c k, i.cores.find? (fun e => e.1 == c) = some (c, k) → u.core c = { k with
      budget := (s.gov c).budget, window := (s.gov c).window, used := (s.gov c).used
      next := some (s.cycle / 256 + 1, max s.gfloor k.nextBudget), floorAt := (u.core c).floorAt }) ∧
    u.holds = i.holds ∧
    u.rate = i.rate ∧ u.ebound = i.ebound ∧ u.bc = i.bc ∧ u.lock = i.lock ∧ u.ptpDomain = i.ptpDomain ∧
    u.ptpPorts = i.ptpPorts ∧ u.ptpPeer = i.ptpPeer ∧
    u.frozen = false ∧ u.held = false ∧ u.hosts = s.hosts ∧
    (∀ x, x < hbmEnd → Memory.get u.mem x = Memory.get s.mem (safeBase + x)) ∧
    (∀ x, lpBase ≤ x → x < lpEnd → (x ≠ a + 5 ∨ rewritten = false) → Memory.get u.mem x = Memory.get s.mem x)

end Sys2Proof.Claims

/-- R370 to R372, R374, R453 to R455: CKPTCFG and LOGCFG set their regions, in LPDDR6 program memory and clear of each other,
while no context is loaded. CKPT is accepted where every accepted launch still passes with its hold, and VAL1 is the earliest
start (log entry 100). An area at another address has its header written, with CKSTATE 0 (log entry 101). RESTORE brings the
image back, memory, work and accepted checkpoints, and gives its CKSEQ; REPLAY does the same but for the checkpoints and is
answered when it stops. A valid header with
LDIRTY clear, or disregarded, is what both need, and no loaded context; contexts that a replay left frozen hinder REPLAY and do
not hinder RESTORE (log entry 78). -/
def Sys2Proof.Claims.CheckpointCommands : Prop :=
  (∀ (s : State) (c : Cmd), Good s (.ckptcfg c) c →
    (s.loaded = true → Answers (.ckptcfg c) s c s 2 0#64 0#64) ∧
    (s.loaded = false → (2 ^ 30 ≤ c.arg1.toNat ∧ areaFree s s.logArea c.arg0.toNat c.arg1.toNat = true) →
      (s.ckArea.map (·.1) = some c.arg0.toNat →
        Answers (.ckptcfg c) s c { s with ckArea := some (c.arg0.toNat, c.arg1.toNat) } 0 0#64 0#64) ∧
      (s.ckArea.map (·.1) ≠ some c.arg0.toNat → ∃ u, Answers (.ckptcfg c) s c u 0 0#64 0#64 ∧
        u.ckArea = some (c.arg0.toNat, c.arg1.toNat) ∧ u.image = none ∧ u.readP c.arg0.toNat 4 = toLE 4 0x00040010 ∧
        (∀ k, 4 ≤ k → k < 64 → Memory.get u.mem (c.arg0.toNat + k) = 0#8) ∧
        (∀ x, x < c.arg0.toNat ∨ c.arg0.toNat + 64 ≤ x → Memory.get u.mem x = Memory.get s.mem x) ∧
        u = { s with
          ckArea := u.ckArea, image := none, dirtyArmed := false, mem := u.mem, bad := u.bad, me := u.me
          strands := u.strands })) ∧
    (s.loaded = false → (c.arg1.toNat < 2 ^ 30 ∨ areaFree s s.logArea c.arg0.toNat c.arg1.toNat = false) →
      Answers (.ckptcfg c) s c s 1 0#64 0#64)) ∧
  (∀ (s : State) (c : Cmd), Good s (.logcfg c) c →
    (s.loaded = true → Answers (.logcfg c) s c s 2 0#64 0#64) ∧
    (s.loaded = false → c.arg1.toNat % 2 ^ 21 = 0 → areaFree s s.ckArea c.arg0.toNat c.arg1.toNat = true →
      Answers (.logcfg c) s c { s with logArea := some (c.arg0.toNat, c.arg1.toNat), logPos := 0, logOn := false } 0 0#64 0#64) ∧
    (s.loaded = false → (c.arg1.toNat % 2 ^ 21 ≠ 0 ∨ areaFree s s.ckArea c.arg0.toNat c.arg1.toNat = false) →
      Answers (.logcfg c) s c s 1 0#64 0#64)) ∧
  (∀ (s : State) (c : Cmd) (start : Nat), Good s (.ckpt c) c → c.arg0.toNat ≤ 1 → s.ckArea ≠ none →
    start = max c.arg1.toNat s.time.toNat →
    ∃ v, (∀ x, s.earliestStart = some x → v = BitVec.ofNat 64 x) ∧
      ((∀ p, p < 16 → partOk (s.part p) (start :: s.holds) s.time.toNat (s.inPart p) (fun _ => true) = true) →
        ∃ u, Answers (.ckpt c) s c u 0 0#64 v ∧ u.ckAsked = s.ckAsked ++ [(start, c.arg0.toNat.testBit 0)] ∧
          u.holds = s.holds ++ [start] ∧ u = { s with ckAsked := u.ckAsked, holds := u.holds, fresh := u.fresh }) ∧
      ((∃ p, p < 16 ∧ partOk (s.part p) (start :: s.holds) s.time.toNat (s.inPart p) (fun _ => true) = false) →
        ∃ u, Answers (.ckpt c) s c u 0 1#64 v ∧ u = { s with fresh := u.fresh })) ∧
  (∀ (s : State) (c : Cmd) (a n : Nat) (i : Image) (h : List Byte), s.ckArea = some (a, n) → s.image = some i →
    h = s.readP a 64 → c.arg1.toNat ≤ 1 →
    ((s.loaded = true ∧ s.frozen = false ∨ field h 4 1 ≠ 2 ∨ (field h 5 1).testBit 0 = true ∧ c.arg1 = 0#64) →
      (Good s (.restore c) c → Answers (.restore c) s c s 2 0#64 0#64) ∧
      (Good s (.replay c) c → Answers (.replay c) s c s 2 0#64 0#64)) ∧
    (s.loaded = true → Good s (.replay c) c → Answers (.replay c) s c s 2 0#64 0#64) ∧
    ((s.loaded = false ∨ s.frozen = true) → field h 4 1 = 2 → ((field h 5 1).testBit 0 = false ∨ c.arg1 = 1#64) →
      inLp a 64 = true → (∀ x ∈ i.scratch, safeEnd ≤ x.1) →
      (Good s (.restore c) c → ∃ u, Answers (.restore c) s c u 0 (BitVec.ofNat 64 (field h 8 8)) 0#64 ∧
        BroughtBack s u i a (c.arg1 == 1#64) ∧ u.ckAsked = i.ckAsked ∧ u.logOn = s.logOn) ∧
      (Good s (.replay c) c → s.loaded = false → (s.logAll.find? (fun r => r.ltype == 6 && r.tag.toNat == field h 8 8) = none →
          Answers (.replay c) s c s 2 0#64 0#64) ∧
        (∀ m, s.logAll.find? (fun r => r.ltype == 6 && r.tag.toNat == field h 8 8) = some m →
          ∃ u, exec (.replay c) s = .next u ∧ BroughtBack s u i a (c.arg1 == 1#64) ∧ u.ckAsked = [] ∧ u.out = s.out ∧ u.logOn = s.logOn ∧
            u.replay = some ⟨c.src, c.lane, c.tag, c.arg0.toNat, m.next, m.lseq + 1⟩))))

/-- The commands of the platform: governor, samples, attestation, firmware, spares and checkpoints. The parts are stated
above, each with its rules. -/
def Obligations.PlatformCommands : Prop :=
  Claims.PlatformCommands ∧ Claims.CheckpointCommands

namespace Sys2Proof.Claims

/-- A health event: one 32-byte frame to each host registered for them, with the next SEQ (R363). -/
def Health (s u : State) (code unit : Nat) (data : Word) : Prop :=
  u.hseq = s.hseq + 1 ∧
  u.out = s.out ++ (s.hosts.filter (·.2)).map (fun h => .health h.1 (healthBytes code unit s.time data (s.hseq + 1)))

/-- A core that has stood at GFLOOR for more than 1 ms, unreported (R363). -/
def Held (s : State) (e : Nat × Core) : Bool := (e.2.floorAt.map (fun t => decide (t + 1000000 < s.time.toNat))).getD false

/-- A core that stands at GFLOOR for more than 1 ms, reported or not. -/
def Stands (s : State) (e : Nat × Core) : Bool := Held s e || e.2.floorAt == some floorTold

/-- A spare of a unit's pool is neither used nor kept for a unit that has failed (R9, R448). -/
def SpareLeft (s : State) (kind unit : Nat) : Prop :=
  s.spent.count (kind, poolOf kind unit)
      + (s.retiring.filter (fun r => r.failed && r.kind == kind && poolOf r.kind r.unit == poolOf kind unit)).length
    < poolSize kind

/-- A unit that awaits a spare has one to come: a failed unit its own, another one that is left. -/
def HasSpare (s : State) (r : Retire) : Prop := r.failed = true ∨ SpareLeft s r.kind r.unit

/-- Something is to be done about a unit: a spare is there, or the hour since event 0x08 is over (R447). -/
def DueSpare (s : State) (r : Retire) : Prop := HasSpare s r ∨ ∀ t, r.told = some t → t + 3600000000000 ≤ s.time.toNat

/-- A gang is resident in the cluster of a core or bank (R366). -/
def Busy (s : State) (kind unit : Nat) : Prop :=
  (kind = 1 ∨ kind = 2) ∧ ∃ t ∈ s.all, t.resident = true ∧ t.cluster = poolOf kind unit

end Sys2Proof.Claims

/-- R362, R363, R447: MONITOR_SAMPLE keeps each sensor's latest reading; what names no monitor of the module is no reading. A
reading that comes to its warning threshold sends event 0x08 with the kind and the quantity; one at its replacement threshold
leaves its unit to be replaced, each bank, row and lane by its own number; a core held at GFLOOR for more than 1 ms sends event
0x01, once in a stay, with the number of all cores so held (log entry 83). A health event is 32 bytes, with HEFMT 0x0004_000D.
The thresholds of drifts, corrected errors, self-tests and FEC symbols are R447's. (Log entry 129: the units of a reading,
its sign and its names are the model's choice; log entry 82: which UNIT a bank, a row or a lane has.) -/
def Sys2Proof.Claims.Monitors : Prop :=
  (∀ (code unit seq : Nat) (time data : Word), code < 2 ^ 16 → unit < 2 ^ 16 → seq < 2 ^ 64 →
    let b := healthBytes code unit time data seq
    b.length = 32 ∧ field b 0 4 = 0x0004000D ∧ field b 4 2 = code ∧ field b 6 2 = unit ∧ field b 8 8 = time.toNat ∧
      field b 0x10 8 = data.toNat ∧ field b 0x18 8 = seq) ∧
  (∀ (u n : Nat) (v : Int), (Sensor.warnAt (.coreDrift u) = some 2000 ∧ Sensor.replaceAt (.coreDrift u) = some 4000) ∧
    (Sensor.warnAt (.bankDrift u n) = some 2000 ∧ Sensor.replaceAt (.bankDrift u n) = some 4000) ∧
    (Sensor.warnAt (.corrected 2 u n) = some 4 ∧ Sensor.replaceAt (.corrected 2 u n) = some 16) ∧
    (Sensor.warnAt (.corrected 5 u n) = none ∧ Sensor.replaceAt (.corrected 5 u n) = some 4) ∧
    (Sensor.warnAt (.fec u n) = some 100 ∧ Sensor.replaceAt (.fec u n) = some 1000) ∧
    (∀ k, k = 1 ∨ k = 3 → Sensor.warnAt (.failedTest k u) = none ∧ Sensor.replaceAt (.failedTest k u) = some 1) ∧
    (∀ n, Sys2Proof.Machine.reaches (some n) v = true ↔ n ≤ v.natAbs)) ∧
  (∀ (s : State) (samples new : List (Sensor × Int)), new = samples.filter (fun p => Sensor.fitted p.1) →
    ∃ u, exec (.monitorSample samples) s = .next u ∧
    (∀ m, u.reading m = ((new.reverse.find? (fun e => e.1 == m)).map (·.2)).or (s.reading m)) ∧
    (∀ r ∈ s.retiring, r ∈ u.retiring) ∧
    (∀ p ∈ new, Sys2Proof.Machine.reaches (Sensor.replaceAt p.1) p.2 = true → ∀ k n q, Sensor.unit? p.1 = some (k, n, q) →
      ∃ r ∈ u.retiring, r.kind = k ∧ r.unit = n ∧ r.part = q) ∧
    ((∀ p ∈ new, Sys2Proof.Machine.reaches (Sensor.replaceAt p.1) p.2 = false) → u.retiring = s.retiring) ∧
    ((∀ p ∈ new, Sys2Proof.Machine.reaches (Sensor.warnAt p.1) p.2 = true → s.warned p.1 = true) → s.replay = none →
      (s.cores.filter (Held s) = [] → u.out = s.out ∧ u.hseq = s.hseq) ∧
      (s.cores.filter (Held s) ≠ [] → Health s u 1 0 (BitVec.ofNat 64 (s.cores.filter (Stands s)).length))) ∧
    (∀ p k n q, new = [p] → Sys2Proof.Machine.reaches (Sensor.warnAt p.1) p.2 = true → s.warned p.1 = false →
      Sensor.unit? p.1 = some (k, n, q) →
      s.cores.filter (Held s) = [] → s.replay = none →
      Health s u 8 n (BitVec.ofNat 64 (k + p.2.natAbs % 2 ^ 48 * 2 ^ 8))) ∧
    u.cores = s.cores.map (fun e => (e.1, if Held s e then { e.2 with floorAt := some floorTold } else e.2)) ∧
    u = { s with samples := u.samples, cores := u.cores, retiring := u.retiring, hseq := u.hseq, out := u.out })

/-- R366, R447 to R449: SPARE_SWAP brings a spare in for a unit that is to be replaced, which is event 0x05; a busy cluster's
core or bank waits, and a unit that is not to be replaced stays. With no spare left the unit stays and event 0x08 with DATA
bit 63 is sent, once an hour. UNIT_FAILURE ends the nodes it affects; a spare is kept for the unit and takes its place, in a
busy cluster when that is free again; with none left a checkpoint is due at once, or with no state area the module answers
only what R448 lists, and no launch is admitted from then on. (Log entry 82: a failed unit has a spare of its own, and its
replacement is event 0x05 as well; log entries 130 and 131: when a walker is idle, and the record's FINFO2, are the model's
choice.) -/
def Sys2Proof.Claims.MonitorsAndSpares : Prop :=
  (∀ (s : State) (kind unit : Nat), (∀ r ∈ s.retiring, r.kind = kind → r.unit = unit → ¬ DueSpare s r) →
    exec (.spareSwap kind unit) s = .next s) ∧
  (∀ (s : State) (kind unit : Nat) (r : Retire) (before after : List Retire), s.replay = none →
    s.retiring = before ++ r :: after → r.kind = kind → r.unit = unit → DueSpare s r →
    (∀ q ∈ before, q.kind = kind → q.unit = unit → ¬ DueSpare s q) →
    (HasSpare s r → Busy s kind unit → exec (.spareSwap kind unit) s = .next s) ∧
    (HasSpare s r → ¬ Busy s kind unit → ∃ u, exec (.spareSwap kind unit) s = .next u ∧
      u.spent = (kind, poolOf kind unit) :: s.spent ∧ Health s u 5 unit (BitVec.ofNat 64 kind) ∧
      u.retiring = before ++ after ∧
      (∀ m, u.reading m = if Sensor.unit? m = some (kind, unit, r.part) then none else s.reading m) ∧
      u = { s with spent := u.spent, retiring := u.retiring, samples := u.samples, hseq := u.hseq, out := u.out }) ∧
    (¬ HasSpare s r → ∃ u, exec (.spareSwap kind unit) s = .next u ∧
      Health s u 8 unit (BitVec.ofNat 64 (kind + r.qty % 2 ^ 48 * 2 ^ 8) ||| BitVec.ofNat 64 (2 ^ 63)) ∧
      (∀ x, x ∈ u.retiring ↔ x ∈ s.retiring ∧ x ≠ r ∨ x = { r with told := some s.time.toNat }) ∧
      u = { s with retiring := u.retiring, hseq := u.hseq, out := u.out })) ∧
  (∀ (s : State) (kind unit : Nat) (t : State) (r : Retire), 1 ≤ kind → kind ≤ 3 → s.replay = none →
    t = s.loseUnit kind unit → r = ⟨kind, unit, 0, true, 0, none⟩ →
    (kind = 1 → r ∈ t.retiring → exec (.unitFailure kind unit) s = .next t) ∧
    ((kind ≠ 1 ∨ r ∉ t.retiring) → SpareLeft t kind unit → ∃ left,
      left = t.retiring.filter (fun q => decide (kind ≠ 1 ∨ ¬ (q.kind = 1 ∧ q.unit = unit ∧ q.part = 0))) ∧
      (Busy t kind unit → exec (.unitFailure kind unit) s = .next { t with retiring := left ++ [r] }) ∧
      (¬ Busy t kind unit → ∃ u, exec (.unitFailure kind unit) s = .next u ∧
        u.spent = (kind, poolOf kind unit) :: t.spent ∧ u.retiring.length = left.length ∧ (∀ x ∈ u.retiring, x ∈ left ++ [r]) ∧
        (t.replay = none → Health t u 5 unit (BitVec.ofNat 64 kind)) ∧
        u.launches = t.launches ∧ u.boot = t.boot ∧ u.noSpare = t.noSpare)) ∧
    ((kind ≠ 1 ∨ r ∉ t.retiring) → ¬ SpareLeft t kind unit → ∃ u, exec (.unitFailure kind unit) s = .next u ∧
      u.noSpare = true ∧ (∀ p l, u.decide p l = .refused 1 0 u.time.toNat) ∧
      (t.ckArea ≠ none → u = { t with noSpare := true, ckAsked := (t.time.toNat, false) :: t.ckAsked }) ∧
      (t.ckArea = none → u = { t with noSpare := true, boot := .maintenance, held := true })) ∧
    (∀ g ∈ affected s kind unit, (∀ x ∈ t.all, x.exists? = true → sameNode x.gang g = false) ∧
      (∀ l, s.launch? g.launch = some l → ∃ r h, .record h r ∈ t.out ∧ r.flt.cls = 0xC0 ∧ r.flt.detail = kind ∧
        r.flt.info1 = BitVec.ofNat 64 unit ∧ r.ctx = l.ctx)))

/-- Monitors, spares and failed units (log entries 82, 83, 129 to 131). The parts are stated above, each with its rules. -/
def Obligations.MonitorsAndSpares : Prop :=
  Claims.Monitors ∧ Claims.MonitorsAndSpares

/-- R358, R370, R371, R373, R424, R450, R451: a checkpoint saves the gangs that are resident, marks the header invalid, and
when it is complete the safe tier holds HBM byte for byte, the header is valid with the next CKSEQ, event 0x06 is sent, and
work goes on where that was asked for. An accepted interval counts until it has passed (R372). At the protection point, and
when the supply fails, a checkpoint begins that ends in power-down, or with no state area the module powers down at once;
while some gang is not at a pre-emption point the checkpoint stays due. (Log entry 103: where the on-die state stands is the
model's choice, its format not being the spec's.) -/
def Sys2Proof.Claims.Checkpoints : Prop :=
  (∀ (s : State) (start : Nat) (resume : Bool) (a n : Nat), s.ckAsked.find? (fun x => x.1 ≤ s.time.toNat) = some (start, resume) →
    s.ckRun = none → s.boot = .up → s.ckArea = some (a, n) → s.noSpare = false → s.trigger = none →
    (∀ t ∈ s.all, t.resident = true → t.awaiting = false ∧ t.mqueue = [] ∧ t.pending = []) → (s.all.map (·.id)).Nodup →
    ∃ u, exec .ckptStart s = .next u ∧ u.ckRun = some ⟨s.time, resume, 0⟩ ∧ u.ckAsked = s.ckAsked.erase (start, resume) ∧
      u.heldFrom = some (s.heldFrom.getD s.time) ∧ (∀ t ∈ u.all, t.resident = false) ∧ u.readP a 4 = toLE 4 0x00040010 ∧
      Memory.get u.mem (a + 4) = 1#8 ∧ u.image = none ∧ u.running = false ∧ u.queues = s.queues ∧
      u.launches = s.launches) ∧
  (∀ (s : State) (start : Word) (resume : Bool) (a n : Nat), s.ckRun = some ⟨start, resume, 0⟩ → s.ckArea = some (a, n) →
    inLp a n = true → 64 ≤ n → s.logArea = none → s.replay = none → s.dirtyArmed = false → s.ckSeq + 1 < 2 ^ 64 →
    ∃ u, exec .ckptComplete s = .next u ∧ u.ckRun = none ∧ u.ckSeq = s.ckSeq + 1 ∧ u.ckEnd = s.time ∧ u.image ≠ none ∧
      Memory.get u.mem (a + 4) = 2#8 ∧ Memory.get u.mem (a + 5) = 0#8 ∧ u.readP (a + 8) 8 = toLE 8 (s.ckSeq + 1) ∧
      u.readP (a + 0x10) 8 = toLE 8 start.toNat ∧ u.readP (a + 0x18) 8 = toLE 8 s.time.toNat ∧
      u.readP (a + 0x20) 8 = toLE 8 s.decver.toNat ∧
      (∀ x, x < hbmEnd → Memory.get u.mem (safeBase + x) = Memory.get s.mem x ∧ Memory.get u.mem x = Memory.get s.mem x) ∧
      (∀ x, lpBase ≤ x → x < lpEnd → x < a ∨ a + 64 ≤ x → Memory.get u.mem x = Memory.get s.mem x) ∧
      (∃ i, u.image = some i ∧ (s.all.all (fun t => t.resv.isNone) = true → i.strands = s.all) ∧ i.ctxs = s.ctxs ∧ i.launches = s.launches ∧ i.queues = s.queues ∧
        i.cores = s.cores ∧ i.fabs = s.fabs ∧ i.ckAsked = s.ckAsked ∧ i.holds = s.holds ∧ i.rate = s.rate ∧ i.ptpPorts = s.ptpPorts ∧ i.lock = s.lock) ∧
      u.holds = s.holds.filter (fun h => s.time.toNat < h + 1000000000) ∧ (resume = true → u.heldFrom = none) ∧
      Health s u 6 0 (BitVec.ofNat 64 (s.ckSeq + 1)) ∧ u.held = (!resume) ∧ u.dirtyArmed = resume ∧ u.boot = s.boot) ∧
  (∀ (s : State) (start : Word) (resume : Bool) (flags : Nat), s.ckRun = some ⟨start, resume, flags⟩ →
    ∃ u, exec .ckptComplete s = .next u ∧ u.ckRun = none ∧ u.ckSeq = s.ckSeq + 1 ∧ (downAfter ≤ flags → u.boot = .down) ∧
      (flags < downAfter → flags.testBit 2 = true → u.boot = .maintenance ∧ u.held = true) ∧
      (flags < downAfter → flags.testBit 2 = false → u.boot = s.boot)) ∧
  (∀ (s : State) (i : Instr) (flags : Nat), (i = .powerLoss ∧ flags = 2 ∨ (∃ d v, i = .protectionPoint ⟨d, v⟩) ∧ flags = 0) →
    s.boot = .up → s.replay = none → s.ckRun = none →
    (s.ckArea = none → ∃ u, exec i s = .next u ∧ u.boot = .down ∧ u.mem = s.mem ∧ (i = .powerLoss → u.out = s.out)) ∧
    (s.ckArea ≠ none → (∀ t ∈ s.all, t.resident = true → t.awaiting = false ∧ t.mqueue = [] ∧ t.pending = []) →
      (s.all.map (·.id)).Nodup →
      ∃ u, exec i s = .next u ∧ u.ckRun = some ⟨s.time, false, flags ||| downAfter⟩ ∧ u.boot = .up ∧ u.image = none ∧
        u.trigger = none ∧ (∀ t ∈ u.all, t.resident = false) ∧ (i = .powerLoss → u.out = s.out) ∧
        (∀ d v, i = .protectionPoint ⟨d, v⟩ → Health s u 2 (4096 * d) (BitVec.ofNat 64 v))) ∧
    (s.ckArea ≠ none → (∃ t ∈ s.all, t.resident = true ∧ t.awaiting = true) → (s.all.map (·.id)).Nodup → ∃ u,
      exec i s = .next u ∧ u.trigger = some (s.trigger.getD 0 ||| flags) ∧ u.ckRun = none ∧ u.boot = .up ∧
      u.image = s.image)) ∧
  (∀ (s : State) (f : Nat), s.trigger = some f → s.boot = .up → s.replay = none → s.ckRun = none → s.ckArea ≠ none →
    (∀ t ∈ s.all, t.resident = true → t.awaiting = false ∧ t.mqueue = [] ∧ t.pending = []) → (s.all.map (·.id)).Nodup →
    ∃ u, exec .ckptStart s = .next u ∧ u.ckRun = some ⟨s.time, false, f ||| downAfter⟩ ∧ u.trigger = none)

/-- R367, R368: at reset the boot ROM checks the image: with both signatures and a rollback number that is high enough the
module is up and keeps it, otherwise it stops. After a power-down it starts again: LPDDR6 and the safe tier keep their bytes,
no strand, context or queue is left, and the decode table, the state area, Logline's region and recording, the spares used
and the units that await one stay known (log entry 102: what is kept is the model's choice beyond R450); one that has lost a
unit with no spare answers only what R448 lists (log entry 134). Which image is checked is log entry 81's reading. A module
that is up does not boot. -/
def Sys2Proof.Claims.Boot : Prop :=
  (∀ (s : State) (image : List Byte) (fw : List Byte), fw = s.nextFirmware.getD image → s.boot = .waiting →
    (Config.signaturesVerify fw = true ∧ Config.rollbackCount.toNat ≤ Config.imageRollback fw → s.noSpare = false →
      exec (.secureBoot image) s = .next { s with boot := .up, firmware := fw, nextFirmware := none }) ∧
    (¬ (Config.signaturesVerify fw = true ∧ Config.rollbackCount.toNat ≤ Config.imageRollback fw) →
      exec (.secureBoot image) s = .next { s with boot := .stopped })) ∧
  (∀ (s : State) (image : List Byte), s.boot = .down → ∃ u, exec (.secureBoot image) s = .next u ∧
    (u.boot = .stopped ∨ u.boot = if s.noSpare then .maintenance else .up) ∧ u.noSpare = s.noSpare ∧ u.all = [] ∧ u.ctxs = [] ∧ u.queues = [] ∧ u.launches = [] ∧ u.wins = [] ∧
    u.hosts = [] ∧ u.ckArea = s.ckArea ∧ u.image = s.image ∧ u.ckSeq = s.ckSeq ∧ u.logArea = s.logArea ∧ u.spent = s.spent ∧
    u.decTable = s.decTable ∧ u.decImage = s.decImage ∧ u.retiring = s.retiring ∧ u.logOn = s.logOn ∧ u.logPos = s.logPos ∧
    u.logDec = s.logDec ∧ u.places = s.places ∧ u.loads = s.loads ∧ u.coh = s.coh ∧
    (∀ x, hbmEnd ≤ x → x < safeEnd → Memory.get u.mem x = Memory.get s.mem x)) ∧
  (∀ (s : State) (image : List Byte), (s.boot = .up ∨ s.boot = .maintenance ∨ s.boot = .stopped) →
    exec (.secureBoot image) s = .next s)

/-- Checkpoints, power loss and boot (log entries 81, 102, 103 and 134). The parts are stated above, each with its rules. -/
def Obligations.CheckpointsAndBoot : Prop :=
  Claims.Checkpoints ∧ Claims.Boot
end

