-- ==== Sys2Proof/Laws/State.lean ====
section
/-! SUPPORT. One lemma per field and update: what each update of a strand or of the module leaves as it was. What an
update writes is said by the lemmas at the end. -/

namespace Sys2Proof.Machine

/-! ### Strand.retire -/

@[simp] theorem Strand.retire_id (st : Strand) (w : Nat) : (st.retire w).id = st.id := rfl
@[simp] theorem Strand.retire_live (st : Strand) (w : Nat) : (st.retire w).live = st.live := rfl
@[simp] theorem Strand.retire_gang (st : Strand) (w : Nat) : (st.retire w).gang = st.gang := rfl
@[simp] theorem Strand.retire_ctx (st : Strand) (w : Nat) : (st.retire w).ctx = st.ctx := rfl
@[simp] theorem Strand.retire_core (st : Strand) (w : Nat) : (st.retire w).core = st.core := rfl
@[simp] theorem Strand.retire_place (st : Strand) (w : Nat) : (st.retire w).place = st.place := rfl
@[simp] theorem Strand.retire_obj (st : Strand) (w : Nat) : (st.retire w).obj = st.obj := rfl
@[simp] theorem Strand.retire_x (st : Strand) (w : Nat) : (st.retire w).x = st.x := rfl
@[simp] theorem Strand.retire_f (st : Strand) (w : Nat) : (st.retire w).f = st.f := rfl
@[simp] theorem Strand.retire_v (st : Strand) (w : Nat) : (st.retire w).v = st.v := rfl
@[simp] theorem Strand.retire_m (st : Strand) (w : Nat) : (st.retire w).m = st.m := rfl
@[simp] theorem Strand.retire_p (st : Strand) (w : Nat) : (st.retire w).p = st.p := rfl
@[simp] theorem Strand.retire_b (st : Strand) (w : Nat) : (st.retire w).b = st.b := rfl
@[simp] theorem Strand.retire_alg (st : Strand) (w : Nat) : (st.retire w).alg = st.alg := rfl
@[simp] theorem Strand.retire_rstack (st : Strand) (w : Nat) : (st.retire w).rstack = st.rstack := rfl
@[simp] theorem Strand.retire_rdepth (st : Strand) (w : Nat) : (st.retire w).rdepth = st.rdepth := rfl
@[simp] theorem Strand.retire_spillRs (st : Strand) (w : Nat) : (st.retire w).spillRs = st.spillRs := rfl
@[simp] theorem Strand.retire_mstack (st : Strand) (w : Nat) : (st.retire w).mstack = st.mstack := rfl
@[simp] theorem Strand.retire_mdepth (st : Strand) (w : Nat) : (st.retire w).mdepth = st.mdepth := rfl
@[simp] theorem Strand.retire_spillMs (st : Strand) (w : Nat) : (st.retire w).spillMs = st.spillMs := rfl
@[simp] theorem Strand.retire_rbase (st : Strand) (w : Nat) : (st.retire w).rbase = st.rbase := rfl
@[simp] theorem Strand.retire_mbase (st : Strand) (w : Nat) : (st.retire w).mbase = st.mbase := rfl
@[simp] theorem Strand.retire_vtype (st : Strand) (w : Nat) : (st.retire w).vtype = st.vtype := rfl
@[simp] theorem Strand.retire_vl (st : Strand) (w : Nat) : (st.retire w).vl = st.vl := rfl
@[simp] theorem Strand.retire_mvl (st : Strand) (w : Nat) : (st.retire w).mvl = st.mvl := rfl
@[simp] theorem Strand.retire_esr (st : Strand) (w : Nat) : (st.retire w).esr = st.esr := rfl
@[simp] theorem Strand.retire_resume (st : Strand) (w : Nat) : (st.retire w).resume = st.resume := rfl
@[simp] theorem Strand.retire_tau (st : Strand) (w : Nat) : (st.retire w).tau = st.tau := rfl
@[simp] theorem Strand.retire_fstat (st : Strand) (w : Nat) : (st.retire w).fstat = st.fstat := rfl
@[simp] theorem Strand.retire_fidx (st : Strand) (w : Nat) : (st.retire w).fidx = st.fidx := rfl
@[simp] theorem Strand.retire_stripPrev (st : Strand) (w : Nat) : (st.retire w).stripPrev = st.stripPrev := rfl
@[simp] theorem Strand.retire_rngKey (st : Strand) (w : Nat) : (st.retire w).rngKey = st.rngKey := rfl
@[simp] theorem Strand.retire_rngCtr (st : Strand) (w : Nat) : (st.retire w).rngCtr = st.rngCtr := rfl
@[simp] theorem Strand.retire_vcount (st : Strand) (w : Nat) : (st.retire w).vcount = st.vcount := rfl
@[simp] theorem Strand.retire_bufFirst (st : Strand) (w : Nat) : (st.retire w).bufFirst = st.bufFirst := rfl
@[simp] theorem Strand.retire_bufGroups (st : Strand) (w : Nat) : (st.retire w).bufGroups = st.bufGroups := rfl
@[simp] theorem Strand.retire_share (st : Strand) (w : Nat) : (st.retire w).share = st.share := rfl
@[simp] theorem Strand.retire_codeb (st : Strand) (w : Nat) : (st.retire w).codeb = st.codeb := rfl
@[simp] theorem Strand.retire_lix (st : Strand) (w : Nat) : (st.retire w).lix = st.lix := rfl
@[simp] theorem Strand.retire_lext (st : Strand) (w : Nat) : (st.retire w).lext = st.lext := rfl
@[simp] theorem Strand.retire_llin (st : Strand) (w : Nat) : (st.retire w).llin = st.llin := rfl
@[simp] theorem Strand.retire_inMatrix (st : Strand) (w : Nat) : (st.retire w).inMatrix = st.inMatrix := rfl
@[simp] theorem Strand.retire_active (st : Strand) (w : Nat) : (st.retire w).active = st.active := rfl
@[simp] theorem Strand.retire_shadow (st : Strand) (w : Nat) : (st.retire w).shadow = st.shadow := rfl
@[simp] theorem Strand.retire_acc (st : Strand) (w : Nat) : (st.retire w).acc = st.acc := rfl
@[simp] theorem Strand.retire_commitAcc (st : Strand) (w : Nat) : (st.retire w).commitAcc = st.commitAcc := rfl
@[simp] theorem Strand.retire_commitActive (st : Strand) (w : Nat) : (st.retire w).commitActive = st.commitActive := rfl
@[simp] theorem Strand.retire_commitShadow (st : Strand) (w : Nat) : (st.retire w).commitShadow = st.commitShadow := rfl
@[simp] theorem Strand.retire_mqueue (st : Strand) (w : Nat) : (st.retire w).mqueue = st.mqueue := rfl
@[simp] theorem Strand.retire_bind (st : Strand) (w : Nat) : (st.retire w).bind = st.bind := rfl
@[simp] theorem Strand.retire_fidxSeq (st : Strand) (w : Nat) : (st.retire w).fidxSeq = st.fidxSeq := rfl
@[simp] theorem Strand.retire_latch (st : Strand) (w : Nat) : (st.retire w).latch = st.latch := rfl
@[simp] theorem Strand.retire_resv (st : Strand) (w : Nat) : (st.retire w).resv = st.resv := rfl
@[simp] theorem Strand.retire_stream (st : Strand) (w : Nat) : (st.retire w).stream = st.stream := rfl
@[simp] theorem Strand.retire_windows (st : Strand) (w : Nat) : (st.retire w).windows = st.windows := rfl
@[simp] theorem Strand.retire_cache (st : Strand) (w : Nat) : (st.retire w).cache = st.cache := rfl
@[simp] theorem Strand.retire_icache (st : Strand) (w : Nat) : (st.retire w).icache = st.icache := rfl
@[simp] theorem Strand.retire_newest (st : Strand) (w : Nat) : (st.retire w).newest = st.newest := rfl
@[simp] theorem Strand.retire_wps (st : Strand) (w : Nat) : (st.retire w).wps = st.wps := rfl
@[simp] theorem Strand.retire_pending (st : Strand) (w : Nat) : (st.retire w).pending = st.pending := rfl
@[simp] theorem Strand.retire_awaiting (st : Strand) (w : Nat) : (st.retire w).awaiting = st.awaiting := rfl
@[simp] theorem Strand.retire_yieldFor (st : Strand) (w : Nat) : (st.retire w).yieldFor = st.yieldFor := rfl
@[simp] theorem Strand.retire_yieldLeft (st : Strand) (w : Nat) : (st.retire w).yieldLeft = st.yieldLeft := rfl
@[simp] theorem Strand.retire_stopAt (st : Strand) (w : Nat) : (st.retire w).stopAt = st.stopAt := rfl
@[simp] theorem Strand.retire_evSoFar (st : Strand) (w : Nat) : (st.retire w).evSoFar = st.evSoFar := rfl
@[simp] theorem Strand.retire_evFirst (st : Strand) (w : Nat) : (st.retire w).evFirst = st.evFirst := rfl
@[simp] theorem Strand.retire_handler (st : Strand) (w : Nat) : (st.retire w).handler = st.handler := rfl
@[simp] theorem Strand.retire_areas (st : Strand) (w : Nat) : (st.retire w).areas = st.areas := rfl
@[simp] theorem Strand.retire_ordTime (st : Strand) (w : Nat) : (st.retire w).ordTime = st.ordTime := rfl
@[simp] theorem Strand.retire_ordWait (st : Strand) (w : Nat) : (st.retire w).ordWait = st.ordWait := rfl
@[simp] theorem Strand.retire_ordRead (st : Strand) (w : Nat) : (st.retire w).ordRead = st.ordRead := rfl

/-! ### Strand.jump -/

@[simp] theorem Strand.jump_id (st : Strand) (t : Word) : (st.jump t).id = st.id := rfl
@[simp] theorem Strand.jump_live (st : Strand) (t : Word) : (st.jump t).live = st.live := rfl
@[simp] theorem Strand.jump_gang (st : Strand) (t : Word) : (st.jump t).gang = st.gang := rfl
@[simp] theorem Strand.jump_ctx (st : Strand) (t : Word) : (st.jump t).ctx = st.ctx := rfl
@[simp] theorem Strand.jump_core (st : Strand) (t : Word) : (st.jump t).core = st.core := rfl
@[simp] theorem Strand.jump_place (st : Strand) (t : Word) : (st.jump t).place = st.place := rfl
@[simp] theorem Strand.jump_obj (st : Strand) (t : Word) : (st.jump t).obj = st.obj := rfl
@[simp] theorem Strand.jump_x (st : Strand) (t : Word) : (st.jump t).x = st.x := rfl
@[simp] theorem Strand.jump_f (st : Strand) (t : Word) : (st.jump t).f = st.f := rfl
@[simp] theorem Strand.jump_v (st : Strand) (t : Word) : (st.jump t).v = st.v := rfl
@[simp] theorem Strand.jump_m (st : Strand) (t : Word) : (st.jump t).m = st.m := rfl
@[simp] theorem Strand.jump_p (st : Strand) (t : Word) : (st.jump t).p = st.p := rfl
@[simp] theorem Strand.jump_b (st : Strand) (t : Word) : (st.jump t).b = st.b := rfl
@[simp] theorem Strand.jump_alg (st : Strand) (t : Word) : (st.jump t).alg = st.alg := rfl
@[simp] theorem Strand.jump_rstack (st : Strand) (t : Word) : (st.jump t).rstack = st.rstack := rfl
@[simp] theorem Strand.jump_rdepth (st : Strand) (t : Word) : (st.jump t).rdepth = st.rdepth := rfl
@[simp] theorem Strand.jump_spillRs (st : Strand) (t : Word) : (st.jump t).spillRs = st.spillRs := rfl
@[simp] theorem Strand.jump_mstack (st : Strand) (t : Word) : (st.jump t).mstack = st.mstack := rfl
@[simp] theorem Strand.jump_mdepth (st : Strand) (t : Word) : (st.jump t).mdepth = st.mdepth := rfl
@[simp] theorem Strand.jump_spillMs (st : Strand) (t : Word) : (st.jump t).spillMs = st.spillMs := rfl
@[simp] theorem Strand.jump_rbase (st : Strand) (t : Word) : (st.jump t).rbase = st.rbase := rfl
@[simp] theorem Strand.jump_mbase (st : Strand) (t : Word) : (st.jump t).mbase = st.mbase := rfl
@[simp] theorem Strand.jump_vtype (st : Strand) (t : Word) : (st.jump t).vtype = st.vtype := rfl
@[simp] theorem Strand.jump_vl (st : Strand) (t : Word) : (st.jump t).vl = st.vl := rfl
@[simp] theorem Strand.jump_mvl (st : Strand) (t : Word) : (st.jump t).mvl = st.mvl := rfl
@[simp] theorem Strand.jump_esr (st : Strand) (t : Word) : (st.jump t).esr = st.esr := rfl
@[simp] theorem Strand.jump_resume (st : Strand) (t : Word) : (st.jump t).resume = st.resume := rfl
@[simp] theorem Strand.jump_tau (st : Strand) (t : Word) : (st.jump t).tau = st.tau := rfl
@[simp] theorem Strand.jump_fstat (st : Strand) (t : Word) : (st.jump t).fstat = st.fstat := rfl
@[simp] theorem Strand.jump_fidx (st : Strand) (t : Word) : (st.jump t).fidx = st.fidx := rfl
@[simp] theorem Strand.jump_stripPrev (st : Strand) (t : Word) : (st.jump t).stripPrev = st.stripPrev := rfl
@[simp] theorem Strand.jump_rngKey (st : Strand) (t : Word) : (st.jump t).rngKey = st.rngKey := rfl
@[simp] theorem Strand.jump_rngCtr (st : Strand) (t : Word) : (st.jump t).rngCtr = st.rngCtr := rfl
@[simp] theorem Strand.jump_vcount (st : Strand) (t : Word) : (st.jump t).vcount = st.vcount := rfl
@[simp] theorem Strand.jump_bufFirst (st : Strand) (t : Word) : (st.jump t).bufFirst = st.bufFirst := rfl
@[simp] theorem Strand.jump_bufGroups (st : Strand) (t : Word) : (st.jump t).bufGroups = st.bufGroups := rfl
@[simp] theorem Strand.jump_share (st : Strand) (t : Word) : (st.jump t).share = st.share := rfl
@[simp] theorem Strand.jump_codeb (st : Strand) (t : Word) : (st.jump t).codeb = st.codeb := rfl
@[simp] theorem Strand.jump_lix (st : Strand) (t : Word) : (st.jump t).lix = st.lix := rfl
@[simp] theorem Strand.jump_lext (st : Strand) (t : Word) : (st.jump t).lext = st.lext := rfl
@[simp] theorem Strand.jump_llin (st : Strand) (t : Word) : (st.jump t).llin = st.llin := rfl
@[simp] theorem Strand.jump_inMatrix (st : Strand) (t : Word) : (st.jump t).inMatrix = st.inMatrix := rfl
@[simp] theorem Strand.jump_active (st : Strand) (t : Word) : (st.jump t).active = st.active := rfl
@[simp] theorem Strand.jump_shadow (st : Strand) (t : Word) : (st.jump t).shadow = st.shadow := rfl
@[simp] theorem Strand.jump_acc (st : Strand) (t : Word) : (st.jump t).acc = st.acc := rfl
@[simp] theorem Strand.jump_commitAcc (st : Strand) (t : Word) : (st.jump t).commitAcc = st.commitAcc := rfl
@[simp] theorem Strand.jump_commitActive (st : Strand) (t : Word) : (st.jump t).commitActive = st.commitActive := rfl
@[simp] theorem Strand.jump_commitShadow (st : Strand) (t : Word) : (st.jump t).commitShadow = st.commitShadow := rfl
@[simp] theorem Strand.jump_mqueue (st : Strand) (t : Word) : (st.jump t).mqueue = st.mqueue := rfl
@[simp] theorem Strand.jump_bind (st : Strand) (t : Word) : (st.jump t).bind = st.bind := rfl
@[simp] theorem Strand.jump_fidxSeq (st : Strand) (t : Word) : (st.jump t).fidxSeq = st.fidxSeq := rfl
@[simp] theorem Strand.jump_latch (st : Strand) (t : Word) : (st.jump t).latch = st.latch := rfl
@[simp] theorem Strand.jump_resv (st : Strand) (t : Word) : (st.jump t).resv = st.resv := rfl
@[simp] theorem Strand.jump_stream (st : Strand) (t : Word) : (st.jump t).stream = st.stream := rfl
@[simp] theorem Strand.jump_windows (st : Strand) (t : Word) : (st.jump t).windows = st.windows := rfl
@[simp] theorem Strand.jump_cache (st : Strand) (t : Word) : (st.jump t).cache = st.cache := rfl
@[simp] theorem Strand.jump_icache (st : Strand) (t : Word) : (st.jump t).icache = st.icache := rfl
@[simp] theorem Strand.jump_newest (st : Strand) (t : Word) : (st.jump t).newest = st.newest := rfl
@[simp] theorem Strand.jump_wps (st : Strand) (t : Word) : (st.jump t).wps = st.wps := rfl
@[simp] theorem Strand.jump_pending (st : Strand) (t : Word) : (st.jump t).pending = st.pending := rfl
@[simp] theorem Strand.jump_awaiting (st : Strand) (t : Word) : (st.jump t).awaiting = st.awaiting := rfl
@[simp] theorem Strand.jump_yieldFor (st : Strand) (t : Word) : (st.jump t).yieldFor = st.yieldFor := rfl
@[simp] theorem Strand.jump_yieldLeft (st : Strand) (t : Word) : (st.jump t).yieldLeft = st.yieldLeft := rfl
@[simp] theorem Strand.jump_stopAt (st : Strand) (t : Word) : (st.jump t).stopAt = st.stopAt := rfl
@[simp] theorem Strand.jump_evSoFar (st : Strand) (t : Word) : (st.jump t).evSoFar = st.evSoFar := rfl
@[simp] theorem Strand.jump_evFirst (st : Strand) (t : Word) : (st.jump t).evFirst = st.evFirst := rfl
@[simp] theorem Strand.jump_handler (st : Strand) (t : Word) : (st.jump t).handler = st.handler := rfl
@[simp] theorem Strand.jump_areas (st : Strand) (t : Word) : (st.jump t).areas = st.areas := rfl
@[simp] theorem Strand.jump_ordTime (st : Strand) (t : Word) : (st.jump t).ordTime = st.ordTime := rfl
@[simp] theorem Strand.jump_ordWait (st : Strand) (t : Word) : (st.jump t).ordWait = st.ordWait := rfl
@[simp] theorem Strand.jump_ordRead (st : Strand) (t : Word) : (st.jump t).ordRead = st.ordRead := rfl

/-! ### Strand.setX -/

@[simp] theorem Strand.setX_id (st : Strand) (r : XReg) (v : Word) : (st.setX r v).id = st.id := by unfold Strand.setX; split <;> rfl
@[simp] theorem Strand.setX_live (st : Strand) (r : XReg) (v : Word) : (st.setX r v).live = st.live := by unfold Strand.setX; split <;> rfl
@[simp] theorem Strand.setX_gang (st : Strand) (r : XReg) (v : Word) : (st.setX r v).gang = st.gang := by unfold Strand.setX; split <;> rfl
@[simp] theorem Strand.setX_ctx (st : Strand) (r : XReg) (v : Word) : (st.setX r v).ctx = st.ctx := by unfold Strand.setX; split <;> rfl
@[simp] theorem Strand.setX_core (st : Strand) (r : XReg) (v : Word) : (st.setX r v).core = st.core := by unfold Strand.setX; split <;> rfl
@[simp] theorem Strand.setX_place (st : Strand) (r : XReg) (v : Word) : (st.setX r v).place = st.place := by unfold Strand.setX; split <;> rfl
@[simp] theorem Strand.setX_obj (st : Strand) (r : XReg) (v : Word) : (st.setX r v).obj = st.obj := by unfold Strand.setX; split <;> rfl
@[simp] theorem Strand.setX_pc (st : Strand) (r : XReg) (v : Word) : (st.setX r v).pc = st.pc := by unfold Strand.setX; split <;> rfl
@[simp] theorem Strand.setX_prev (st : Strand) (r : XReg) (v : Word) : (st.setX r v).prev = st.prev := by unfold Strand.setX; split <;> rfl
@[simp] theorem Strand.setX_f (st : Strand) (r : XReg) (v : Word) : (st.setX r v).f = st.f := by unfold Strand.setX; split <;> rfl
@[simp] theorem Strand.setX_v (st : Strand) (r : XReg) (v : Word) : (st.setX r v).v = st.v := by unfold Strand.setX; split <;> rfl
@[simp] theorem Strand.setX_m (st : Strand) (r : XReg) (v : Word) : (st.setX r v).m = st.m := by unfold Strand.setX; split <;> rfl
@[simp] theorem Strand.setX_p (st : Strand) (r : XReg) (v : Word) : (st.setX r v).p = st.p := by unfold Strand.setX; split <;> rfl
@[simp] theorem Strand.setX_b (st : Strand) (r : XReg) (v : Word) : (st.setX r v).b = st.b := by unfold Strand.setX; split <;> rfl
@[simp] theorem Strand.setX_alg (st : Strand) (r : XReg) (v : Word) : (st.setX r v).alg = st.alg := by unfold Strand.setX; split <;> rfl
@[simp] theorem Strand.setX_rstack (st : Strand) (r : XReg) (v : Word) : (st.setX r v).rstack = st.rstack := by unfold Strand.setX; split <;> rfl
@[simp] theorem Strand.setX_rdepth (st : Strand) (r : XReg) (v : Word) : (st.setX r v).rdepth = st.rdepth := by unfold Strand.setX; split <;> rfl
@[simp] theorem Strand.setX_spillRs (st : Strand) (r : XReg) (v : Word) : (st.setX r v).spillRs = st.spillRs := by unfold Strand.setX; split <;> rfl
@[simp] theorem Strand.setX_mstack (st : Strand) (r : XReg) (v : Word) : (st.setX r v).mstack = st.mstack := by unfold Strand.setX; split <;> rfl
@[simp] theorem Strand.setX_mdepth (st : Strand) (r : XReg) (v : Word) : (st.setX r v).mdepth = st.mdepth := by unfold Strand.setX; split <;> rfl
@[simp] theorem Strand.setX_spillMs (st : Strand) (r : XReg) (v : Word) : (st.setX r v).spillMs = st.spillMs := by unfold Strand.setX; split <;> rfl
@[simp] theorem Strand.setX_rbase (st : Strand) (r : XReg) (v : Word) : (st.setX r v).rbase = st.rbase := by unfold Strand.setX; split <;> rfl
@[simp] theorem Strand.setX_mbase (st : Strand) (r : XReg) (v : Word) : (st.setX r v).mbase = st.mbase := by unfold Strand.setX; split <;> rfl
@[simp] theorem Strand.setX_vtype (st : Strand) (r : XReg) (v : Word) : (st.setX r v).vtype = st.vtype := by unfold Strand.setX; split <;> rfl
@[simp] theorem Strand.setX_vl (st : Strand) (r : XReg) (v : Word) : (st.setX r v).vl = st.vl := by unfold Strand.setX; split <;> rfl
@[simp] theorem Strand.setX_mvl (st : Strand) (r : XReg) (v : Word) : (st.setX r v).mvl = st.mvl := by unfold Strand.setX; split <;> rfl
@[simp] theorem Strand.setX_esr (st : Strand) (r : XReg) (v : Word) : (st.setX r v).esr = st.esr := by unfold Strand.setX; split <;> rfl
@[simp] theorem Strand.setX_resume (st : Strand) (r : XReg) (v : Word) : (st.setX r v).resume = st.resume := by unfold Strand.setX; split <;> rfl
@[simp] theorem Strand.setX_tau (st : Strand) (r : XReg) (v : Word) : (st.setX r v).tau = st.tau := by unfold Strand.setX; split <;> rfl
@[simp] theorem Strand.setX_fstat (st : Strand) (r : XReg) (v : Word) : (st.setX r v).fstat = st.fstat := by unfold Strand.setX; split <;> rfl
@[simp] theorem Strand.setX_fidx (st : Strand) (r : XReg) (v : Word) : (st.setX r v).fidx = st.fidx := by unfold Strand.setX; split <;> rfl
@[simp] theorem Strand.setX_stripPrev (st : Strand) (r : XReg) (v : Word) : (st.setX r v).stripPrev = st.stripPrev := by unfold Strand.setX; split <;> rfl
@[simp] theorem Strand.setX_rngKey (st : Strand) (r : XReg) (v : Word) : (st.setX r v).rngKey = st.rngKey := by unfold Strand.setX; split <;> rfl
@[simp] theorem Strand.setX_rngCtr (st : Strand) (r : XReg) (v : Word) : (st.setX r v).rngCtr = st.rngCtr := by unfold Strand.setX; split <;> rfl
@[simp] theorem Strand.setX_vcount (st : Strand) (r : XReg) (v : Word) : (st.setX r v).vcount = st.vcount := by unfold Strand.setX; split <;> rfl
@[simp] theorem Strand.setX_bufFirst (st : Strand) (r : XReg) (v : Word) : (st.setX r v).bufFirst = st.bufFirst := by unfold Strand.setX; split <;> rfl
@[simp] theorem Strand.setX_bufGroups (st : Strand) (r : XReg) (v : Word) : (st.setX r v).bufGroups = st.bufGroups := by unfold Strand.setX; split <;> rfl
@[simp] theorem Strand.setX_share (st : Strand) (r : XReg) (v : Word) : (st.setX r v).share = st.share := by unfold Strand.setX; split <;> rfl
@[simp] theorem Strand.setX_codeb (st : Strand) (r : XReg) (v : Word) : (st.setX r v).codeb = st.codeb := by unfold Strand.setX; split <;> rfl
@[simp] theorem Strand.setX_lix (st : Strand) (r : XReg) (v : Word) : (st.setX r v).lix = st.lix := by unfold Strand.setX; split <;> rfl
@[simp] theorem Strand.setX_lext (st : Strand) (r : XReg) (v : Word) : (st.setX r v).lext = st.lext := by unfold Strand.setX; split <;> rfl
@[simp] theorem Strand.setX_llin (st : Strand) (r : XReg) (v : Word) : (st.setX r v).llin = st.llin := by unfold Strand.setX; split <;> rfl
@[simp] theorem Strand.setX_inMatrix (st : Strand) (r : XReg) (v : Word) : (st.setX r v).inMatrix = st.inMatrix := by unfold Strand.setX; split <;> rfl
@[simp] theorem Strand.setX_active (st : Strand) (r : XReg) (v : Word) : (st.setX r v).active = st.active := by unfold Strand.setX; split <;> rfl
@[simp] theorem Strand.setX_shadow (st : Strand) (r : XReg) (v : Word) : (st.setX r v).shadow = st.shadow := by unfold Strand.setX; split <;> rfl
@[simp] theorem Strand.setX_acc (st : Strand) (r : XReg) (v : Word) : (st.setX r v).acc = st.acc := by unfold Strand.setX; split <;> rfl
@[simp] theorem Strand.setX_commitAcc (st : Strand) (r : XReg) (v : Word) : (st.setX r v).commitAcc = st.commitAcc := by unfold Strand.setX; split <;> rfl
@[simp] theorem Strand.setX_commitActive (st : Strand) (r : XReg) (v : Word) : (st.setX r v).commitActive = st.commitActive := by unfold Strand.setX; split <;> rfl
@[simp] theorem Strand.setX_commitShadow (st : Strand) (r : XReg) (v : Word) : (st.setX r v).commitShadow = st.commitShadow := by unfold Strand.setX; split <;> rfl
@[simp] theorem Strand.setX_mqueue (st : Strand) (r : XReg) (v : Word) : (st.setX r v).mqueue = st.mqueue := by unfold Strand.setX; split <;> rfl
@[simp] theorem Strand.setX_bind (st : Strand) (r : XReg) (v : Word) : (st.setX r v).bind = st.bind := by unfold Strand.setX; split <;> rfl
@[simp] theorem Strand.setX_seq (st : Strand) (r : XReg) (v : Word) : (st.setX r v).seq = st.seq := by unfold Strand.setX; split <;> rfl
@[simp] theorem Strand.setX_fidxSeq (st : Strand) (r : XReg) (v : Word) : (st.setX r v).fidxSeq = st.fidxSeq := by unfold Strand.setX; split <;> rfl
@[simp] theorem Strand.setX_latch (st : Strand) (r : XReg) (v : Word) : (st.setX r v).latch = st.latch := by unfold Strand.setX; split <;> rfl
@[simp] theorem Strand.setX_resv (st : Strand) (r : XReg) (v : Word) : (st.setX r v).resv = st.resv := by unfold Strand.setX; split <;> rfl
@[simp] theorem Strand.setX_stream (st : Strand) (r : XReg) (v : Word) : (st.setX r v).stream = st.stream := by unfold Strand.setX; split <;> rfl
@[simp] theorem Strand.setX_windows (st : Strand) (r : XReg) (v : Word) : (st.setX r v).windows = st.windows := by unfold Strand.setX; split <;> rfl
@[simp] theorem Strand.setX_cache (st : Strand) (r : XReg) (v : Word) : (st.setX r v).cache = st.cache := by unfold Strand.setX; split <;> rfl
@[simp] theorem Strand.setX_icache (st : Strand) (r : XReg) (v : Word) : (st.setX r v).icache = st.icache := by unfold Strand.setX; split <;> rfl
@[simp] theorem Strand.setX_newest (st : Strand) (r : XReg) (v : Word) : (st.setX r v).newest = st.newest := by unfold Strand.setX; split <;> rfl
@[simp] theorem Strand.setX_wps (st : Strand) (r : XReg) (v : Word) : (st.setX r v).wps = st.wps := by unfold Strand.setX; split <;> rfl
@[simp] theorem Strand.setX_pending (st : Strand) (r : XReg) (v : Word) : (st.setX r v).pending = st.pending := by unfold Strand.setX; split <;> rfl
@[simp] theorem Strand.setX_blocked (st : Strand) (r : XReg) (v : Word) : (st.setX r v).blocked = st.blocked := by unfold Strand.setX; split <;> rfl
@[simp] theorem Strand.setX_hold (st : Strand) (r : XReg) (v : Word) : (st.setX r v).hold = st.hold := by unfold Strand.setX; split <;> rfl
@[simp] theorem Strand.setX_awaiting (st : Strand) (r : XReg) (v : Word) : (st.setX r v).awaiting = st.awaiting := by unfold Strand.setX; split <;> rfl
@[simp] theorem Strand.setX_yieldFor (st : Strand) (r : XReg) (v : Word) : (st.setX r v).yieldFor = st.yieldFor := by unfold Strand.setX; split <;> rfl
@[simp] theorem Strand.setX_yieldLeft (st : Strand) (r : XReg) (v : Word) : (st.setX r v).yieldLeft = st.yieldLeft := by unfold Strand.setX; split <;> rfl
@[simp] theorem Strand.setX_stopAt (st : Strand) (r : XReg) (v : Word) : (st.setX r v).stopAt = st.stopAt := by unfold Strand.setX; split <;> rfl
@[simp] theorem Strand.setX_evSoFar (st : Strand) (r : XReg) (v : Word) : (st.setX r v).evSoFar = st.evSoFar := by unfold Strand.setX; split <;> rfl
@[simp] theorem Strand.setX_evFirst (st : Strand) (r : XReg) (v : Word) : (st.setX r v).evFirst = st.evFirst := by unfold Strand.setX; split <;> rfl
@[simp] theorem Strand.setX_handler (st : Strand) (r : XReg) (v : Word) : (st.setX r v).handler = st.handler := by unfold Strand.setX; split <;> rfl
@[simp] theorem Strand.setX_areas (st : Strand) (r : XReg) (v : Word) : (st.setX r v).areas = st.areas := by unfold Strand.setX; split <;> rfl
@[simp] theorem Strand.setX_blockedFor (st : Strand) (r : XReg) (v : Word) : (st.setX r v).blockedFor = st.blockedFor := by unfold Strand.setX; split <;> rfl
@[simp] theorem Strand.setX_ordTime (st : Strand) (r : XReg) (v : Word) : (st.setX r v).ordTime = st.ordTime := by unfold Strand.setX; split <;> rfl
@[simp] theorem Strand.setX_ordWait (st : Strand) (r : XReg) (v : Word) : (st.setX r v).ordWait = st.ordWait := by unfold Strand.setX; split <;> rfl
@[simp] theorem Strand.setX_ordRead (st : Strand) (r : XReg) (v : Word) : (st.setX r v).ordRead = st.ordRead := by unfold Strand.setX; split <;> rfl

/-! ### Strand.setF -/

@[simp] theorem Strand.setF_id (st : Strand) (r : FReg) (v : Word) : (st.setF r v).id = st.id := rfl
@[simp] theorem Strand.setF_live (st : Strand) (r : FReg) (v : Word) : (st.setF r v).live = st.live := rfl
@[simp] theorem Strand.setF_gang (st : Strand) (r : FReg) (v : Word) : (st.setF r v).gang = st.gang := rfl
@[simp] theorem Strand.setF_ctx (st : Strand) (r : FReg) (v : Word) : (st.setF r v).ctx = st.ctx := rfl
@[simp] theorem Strand.setF_core (st : Strand) (r : FReg) (v : Word) : (st.setF r v).core = st.core := rfl
@[simp] theorem Strand.setF_place (st : Strand) (r : FReg) (v : Word) : (st.setF r v).place = st.place := rfl
@[simp] theorem Strand.setF_obj (st : Strand) (r : FReg) (v : Word) : (st.setF r v).obj = st.obj := rfl
@[simp] theorem Strand.setF_pc (st : Strand) (r : FReg) (v : Word) : (st.setF r v).pc = st.pc := rfl
@[simp] theorem Strand.setF_prev (st : Strand) (r : FReg) (v : Word) : (st.setF r v).prev = st.prev := rfl
@[simp] theorem Strand.setF_x (st : Strand) (r : FReg) (v : Word) : (st.setF r v).x = st.x := rfl
@[simp] theorem Strand.setF_v (st : Strand) (r : FReg) (v : Word) : (st.setF r v).v = st.v := rfl
@[simp] theorem Strand.setF_m (st : Strand) (r : FReg) (v : Word) : (st.setF r v).m = st.m := rfl
@[simp] theorem Strand.setF_p (st : Strand) (r : FReg) (v : Word) : (st.setF r v).p = st.p := rfl
@[simp] theorem Strand.setF_b (st : Strand) (r : FReg) (v : Word) : (st.setF r v).b = st.b := rfl
@[simp] theorem Strand.setF_alg (st : Strand) (r : FReg) (v : Word) : (st.setF r v).alg = st.alg := rfl
@[simp] theorem Strand.setF_rstack (st : Strand) (r : FReg) (v : Word) : (st.setF r v).rstack = st.rstack := rfl
@[simp] theorem Strand.setF_rdepth (st : Strand) (r : FReg) (v : Word) : (st.setF r v).rdepth = st.rdepth := rfl
@[simp] theorem Strand.setF_spillRs (st : Strand) (r : FReg) (v : Word) : (st.setF r v).spillRs = st.spillRs := rfl
@[simp] theorem Strand.setF_mstack (st : Strand) (r : FReg) (v : Word) : (st.setF r v).mstack = st.mstack := rfl
@[simp] theorem Strand.setF_mdepth (st : Strand) (r : FReg) (v : Word) : (st.setF r v).mdepth = st.mdepth := rfl
@[simp] theorem Strand.setF_spillMs (st : Strand) (r : FReg) (v : Word) : (st.setF r v).spillMs = st.spillMs := rfl
@[simp] theorem Strand.setF_rbase (st : Strand) (r : FReg) (v : Word) : (st.setF r v).rbase = st.rbase := rfl
@[simp] theorem Strand.setF_mbase (st : Strand) (r : FReg) (v : Word) : (st.setF r v).mbase = st.mbase := rfl
@[simp] theorem Strand.setF_vtype (st : Strand) (r : FReg) (v : Word) : (st.setF r v).vtype = st.vtype := rfl
@[simp] theorem Strand.setF_vl (st : Strand) (r : FReg) (v : Word) : (st.setF r v).vl = st.vl := rfl
@[simp] theorem Strand.setF_mvl (st : Strand) (r : FReg) (v : Word) : (st.setF r v).mvl = st.mvl := rfl
@[simp] theorem Strand.setF_esr (st : Strand) (r : FReg) (v : Word) : (st.setF r v).esr = st.esr := rfl
@[simp] theorem Strand.setF_resume (st : Strand) (r : FReg) (v : Word) : (st.setF r v).resume = st.resume := rfl
@[simp] theorem Strand.setF_tau (st : Strand) (r : FReg) (v : Word) : (st.setF r v).tau = st.tau := rfl
@[simp] theorem Strand.setF_fstat (st : Strand) (r : FReg) (v : Word) : (st.setF r v).fstat = st.fstat := rfl
@[simp] theorem Strand.setF_fidx (st : Strand) (r : FReg) (v : Word) : (st.setF r v).fidx = st.fidx := rfl
@[simp] theorem Strand.setF_stripPrev (st : Strand) (r : FReg) (v : Word) : (st.setF r v).stripPrev = st.stripPrev := rfl
@[simp] theorem Strand.setF_rngKey (st : Strand) (r : FReg) (v : Word) : (st.setF r v).rngKey = st.rngKey := rfl
@[simp] theorem Strand.setF_rngCtr (st : Strand) (r : FReg) (v : Word) : (st.setF r v).rngCtr = st.rngCtr := rfl
@[simp] theorem Strand.setF_vcount (st : Strand) (r : FReg) (v : Word) : (st.setF r v).vcount = st.vcount := rfl
@[simp] theorem Strand.setF_bufFirst (st : Strand) (r : FReg) (v : Word) : (st.setF r v).bufFirst = st.bufFirst := rfl
@[simp] theorem Strand.setF_bufGroups (st : Strand) (r : FReg) (v : Word) : (st.setF r v).bufGroups = st.bufGroups := rfl
@[simp] theorem Strand.setF_share (st : Strand) (r : FReg) (v : Word) : (st.setF r v).share = st.share := rfl
@[simp] theorem Strand.setF_codeb (st : Strand) (r : FReg) (v : Word) : (st.setF r v).codeb = st.codeb := rfl
@[simp] theorem Strand.setF_lix (st : Strand) (r : FReg) (v : Word) : (st.setF r v).lix = st.lix := rfl
@[simp] theorem Strand.setF_lext (st : Strand) (r : FReg) (v : Word) : (st.setF r v).lext = st.lext := rfl
@[simp] theorem Strand.setF_llin (st : Strand) (r : FReg) (v : Word) : (st.setF r v).llin = st.llin := rfl
@[simp] theorem Strand.setF_inMatrix (st : Strand) (r : FReg) (v : Word) : (st.setF r v).inMatrix = st.inMatrix := rfl
@[simp] theorem Strand.setF_active (st : Strand) (r : FReg) (v : Word) : (st.setF r v).active = st.active := rfl
@[simp] theorem Strand.setF_shadow (st : Strand) (r : FReg) (v : Word) : (st.setF r v).shadow = st.shadow := rfl
@[simp] theorem Strand.setF_acc (st : Strand) (r : FReg) (v : Word) : (st.setF r v).acc = st.acc := rfl
@[simp] theorem Strand.setF_commitAcc (st : Strand) (r : FReg) (v : Word) : (st.setF r v).commitAcc = st.commitAcc := rfl
@[simp] theorem Strand.setF_commitActive (st : Strand) (r : FReg) (v : Word) : (st.setF r v).commitActive = st.commitActive := rfl
@[simp] theorem Strand.setF_commitShadow (st : Strand) (r : FReg) (v : Word) : (st.setF r v).commitShadow = st.commitShadow := rfl
@[simp] theorem Strand.setF_mqueue (st : Strand) (r : FReg) (v : Word) : (st.setF r v).mqueue = st.mqueue := rfl
@[simp] theorem Strand.setF_bind (st : Strand) (r : FReg) (v : Word) : (st.setF r v).bind = st.bind := rfl
@[simp] theorem Strand.setF_seq (st : Strand) (r : FReg) (v : Word) : (st.setF r v).seq = st.seq := rfl
@[simp] theorem Strand.setF_fidxSeq (st : Strand) (r : FReg) (v : Word) : (st.setF r v).fidxSeq = st.fidxSeq := rfl
@[simp] theorem Strand.setF_latch (st : Strand) (r : FReg) (v : Word) : (st.setF r v).latch = st.latch := rfl
@[simp] theorem Strand.setF_resv (st : Strand) (r : FReg) (v : Word) : (st.setF r v).resv = st.resv := rfl
@[simp] theorem Strand.setF_stream (st : Strand) (r : FReg) (v : Word) : (st.setF r v).stream = st.stream := rfl
@[simp] theorem Strand.setF_windows (st : Strand) (r : FReg) (v : Word) : (st.setF r v).windows = st.windows := rfl
@[simp] theorem Strand.setF_cache (st : Strand) (r : FReg) (v : Word) : (st.setF r v).cache = st.cache := rfl
@[simp] theorem Strand.setF_icache (st : Strand) (r : FReg) (v : Word) : (st.setF r v).icache = st.icache := rfl
@[simp] theorem Strand.setF_newest (st : Strand) (r : FReg) (v : Word) : (st.setF r v).newest = st.newest := rfl
@[simp] theorem Strand.setF_wps (st : Strand) (r : FReg) (v : Word) : (st.setF r v).wps = st.wps := rfl
@[simp] theorem Strand.setF_pending (st : Strand) (r : FReg) (v : Word) : (st.setF r v).pending = st.pending := rfl
@[simp] theorem Strand.setF_blocked (st : Strand) (r : FReg) (v : Word) : (st.setF r v).blocked = st.blocked := rfl
@[simp] theorem Strand.setF_hold (st : Strand) (r : FReg) (v : Word) : (st.setF r v).hold = st.hold := rfl
@[simp] theorem Strand.setF_awaiting (st : Strand) (r : FReg) (v : Word) : (st.setF r v).awaiting = st.awaiting := rfl
@[simp] theorem Strand.setF_yieldFor (st : Strand) (r : FReg) (v : Word) : (st.setF r v).yieldFor = st.yieldFor := rfl
@[simp] theorem Strand.setF_yieldLeft (st : Strand) (r : FReg) (v : Word) : (st.setF r v).yieldLeft = st.yieldLeft := rfl
@[simp] theorem Strand.setF_stopAt (st : Strand) (r : FReg) (v : Word) : (st.setF r v).stopAt = st.stopAt := rfl
@[simp] theorem Strand.setF_evSoFar (st : Strand) (r : FReg) (v : Word) : (st.setF r v).evSoFar = st.evSoFar := rfl
@[simp] theorem Strand.setF_evFirst (st : Strand) (r : FReg) (v : Word) : (st.setF r v).evFirst = st.evFirst := rfl
@[simp] theorem Strand.setF_handler (st : Strand) (r : FReg) (v : Word) : (st.setF r v).handler = st.handler := rfl
@[simp] theorem Strand.setF_areas (st : Strand) (r : FReg) (v : Word) : (st.setF r v).areas = st.areas := rfl
@[simp] theorem Strand.setF_blockedFor (st : Strand) (r : FReg) (v : Word) : (st.setF r v).blockedFor = st.blockedFor := rfl
@[simp] theorem Strand.setF_ordTime (st : Strand) (r : FReg) (v : Word) : (st.setF r v).ordTime = st.ordTime := rfl
@[simp] theorem Strand.setF_ordWait (st : Strand) (r : FReg) (v : Word) : (st.setF r v).ordWait = st.ordWait := rfl
@[simp] theorem Strand.setF_ordRead (st : Strand) (r : FReg) (v : Word) : (st.setF r v).ordRead = st.ordRead := rfl

/-! ### Strand.setB -/

@[simp] theorem Strand.setB_id (st : Strand) (r : BRegNo) (v : Bound) : (st.setB r v).id = st.id := rfl
@[simp] theorem Strand.setB_live (st : Strand) (r : BRegNo) (v : Bound) : (st.setB r v).live = st.live := rfl
@[simp] theorem Strand.setB_gang (st : Strand) (r : BRegNo) (v : Bound) : (st.setB r v).gang = st.gang := rfl
@[simp] theorem Strand.setB_ctx (st : Strand) (r : BRegNo) (v : Bound) : (st.setB r v).ctx = st.ctx := rfl
@[simp] theorem Strand.setB_core (st : Strand) (r : BRegNo) (v : Bound) : (st.setB r v).core = st.core := rfl
@[simp] theorem Strand.setB_place (st : Strand) (r : BRegNo) (v : Bound) : (st.setB r v).place = st.place := rfl
@[simp] theorem Strand.setB_obj (st : Strand) (r : BRegNo) (v : Bound) : (st.setB r v).obj = st.obj := rfl
@[simp] theorem Strand.setB_pc (st : Strand) (r : BRegNo) (v : Bound) : (st.setB r v).pc = st.pc := rfl
@[simp] theorem Strand.setB_prev (st : Strand) (r : BRegNo) (v : Bound) : (st.setB r v).prev = st.prev := rfl
@[simp] theorem Strand.setB_x (st : Strand) (r : BRegNo) (v : Bound) : (st.setB r v).x = st.x := rfl
@[simp] theorem Strand.setB_f (st : Strand) (r : BRegNo) (v : Bound) : (st.setB r v).f = st.f := rfl
@[simp] theorem Strand.setB_v (st : Strand) (r : BRegNo) (v : Bound) : (st.setB r v).v = st.v := rfl
@[simp] theorem Strand.setB_m (st : Strand) (r : BRegNo) (v : Bound) : (st.setB r v).m = st.m := rfl
@[simp] theorem Strand.setB_p (st : Strand) (r : BRegNo) (v : Bound) : (st.setB r v).p = st.p := rfl
@[simp] theorem Strand.setB_alg (st : Strand) (r : BRegNo) (v : Bound) : (st.setB r v).alg = st.alg := rfl
@[simp] theorem Strand.setB_rstack (st : Strand) (r : BRegNo) (v : Bound) : (st.setB r v).rstack = st.rstack := rfl
@[simp] theorem Strand.setB_rdepth (st : Strand) (r : BRegNo) (v : Bound) : (st.setB r v).rdepth = st.rdepth := rfl
@[simp] theorem Strand.setB_spillRs (st : Strand) (r : BRegNo) (v : Bound) : (st.setB r v).spillRs = st.spillRs := rfl
@[simp] theorem Strand.setB_mstack (st : Strand) (r : BRegNo) (v : Bound) : (st.setB r v).mstack = st.mstack := rfl
@[simp] theorem Strand.setB_mdepth (st : Strand) (r : BRegNo) (v : Bound) : (st.setB r v).mdepth = st.mdepth := rfl
@[simp] theorem Strand.setB_spillMs (st : Strand) (r : BRegNo) (v : Bound) : (st.setB r v).spillMs = st.spillMs := rfl
@[simp] theorem Strand.setB_rbase (st : Strand) (r : BRegNo) (v : Bound) : (st.setB r v).rbase = st.rbase := rfl
@[simp] theorem Strand.setB_mbase (st : Strand) (r : BRegNo) (v : Bound) : (st.setB r v).mbase = st.mbase := rfl
@[simp] theorem Strand.setB_vtype (st : Strand) (r : BRegNo) (v : Bound) : (st.setB r v).vtype = st.vtype := rfl
@[simp] theorem Strand.setB_vl (st : Strand) (r : BRegNo) (v : Bound) : (st.setB r v).vl = st.vl := rfl
@[simp] theorem Strand.setB_mvl (st : Strand) (r : BRegNo) (v : Bound) : (st.setB r v).mvl = st.mvl := rfl
@[simp] theorem Strand.setB_esr (st : Strand) (r : BRegNo) (v : Bound) : (st.setB r v).esr = st.esr := rfl
@[simp] theorem Strand.setB_resume (st : Strand) (r : BRegNo) (v : Bound) : (st.setB r v).resume = st.resume := rfl
@[simp] theorem Strand.setB_tau (st : Strand) (r : BRegNo) (v : Bound) : (st.setB r v).tau = st.tau := rfl
@[simp] theorem Strand.setB_fstat (st : Strand) (r : BRegNo) (v : Bound) : (st.setB r v).fstat = st.fstat := rfl
@[simp] theorem Strand.setB_fidx (st : Strand) (r : BRegNo) (v : Bound) : (st.setB r v).fidx = st.fidx := rfl
@[simp] theorem Strand.setB_stripPrev (st : Strand) (r : BRegNo) (v : Bound) : (st.setB r v).stripPrev = st.stripPrev := rfl
@[simp] theorem Strand.setB_rngKey (st : Strand) (r : BRegNo) (v : Bound) : (st.setB r v).rngKey = st.rngKey := rfl
@[simp] theorem Strand.setB_rngCtr (st : Strand) (r : BRegNo) (v : Bound) : (st.setB r v).rngCtr = st.rngCtr := rfl
@[simp] theorem Strand.setB_vcount (st : Strand) (r : BRegNo) (v : Bound) : (st.setB r v).vcount = st.vcount := rfl
@[simp] theorem Strand.setB_bufFirst (st : Strand) (r : BRegNo) (v : Bound) : (st.setB r v).bufFirst = st.bufFirst := rfl
@[simp] theorem Strand.setB_bufGroups (st : Strand) (r : BRegNo) (v : Bound) : (st.setB r v).bufGroups = st.bufGroups := rfl
@[simp] theorem Strand.setB_share (st : Strand) (r : BRegNo) (v : Bound) : (st.setB r v).share = st.share := rfl
@[simp] theorem Strand.setB_codeb (st : Strand) (r : BRegNo) (v : Bound) : (st.setB r v).codeb = st.codeb := rfl
@[simp] theorem Strand.setB_lix (st : Strand) (r : BRegNo) (v : Bound) : (st.setB r v).lix = st.lix := rfl
@[simp] theorem Strand.setB_lext (st : Strand) (r : BRegNo) (v : Bound) : (st.setB r v).lext = st.lext := rfl
@[simp] theorem Strand.setB_llin (st : Strand) (r : BRegNo) (v : Bound) : (st.setB r v).llin = st.llin := rfl
@[simp] theorem Strand.setB_inMatrix (st : Strand) (r : BRegNo) (v : Bound) : (st.setB r v).inMatrix = st.inMatrix := rfl
@[simp] theorem Strand.setB_active (st : Strand) (r : BRegNo) (v : Bound) : (st.setB r v).active = st.active := rfl
@[simp] theorem Strand.setB_shadow (st : Strand) (r : BRegNo) (v : Bound) : (st.setB r v).shadow = st.shadow := rfl
@[simp] theorem Strand.setB_acc (st : Strand) (r : BRegNo) (v : Bound) : (st.setB r v).acc = st.acc := rfl
@[simp] theorem Strand.setB_commitAcc (st : Strand) (r : BRegNo) (v : Bound) : (st.setB r v).commitAcc = st.commitAcc := rfl
@[simp] theorem Strand.setB_commitActive (st : Strand) (r : BRegNo) (v : Bound) : (st.setB r v).commitActive = st.commitActive := rfl
@[simp] theorem Strand.setB_commitShadow (st : Strand) (r : BRegNo) (v : Bound) : (st.setB r v).commitShadow = st.commitShadow := rfl
@[simp] theorem Strand.setB_mqueue (st : Strand) (r : BRegNo) (v : Bound) : (st.setB r v).mqueue = st.mqueue := rfl
@[simp] theorem Strand.setB_bind (st : Strand) (r : BRegNo) (v : Bound) : (st.setB r v).bind = st.bind := rfl
@[simp] theorem Strand.setB_seq (st : Strand) (r : BRegNo) (v : Bound) : (st.setB r v).seq = st.seq := rfl
@[simp] theorem Strand.setB_fidxSeq (st : Strand) (r : BRegNo) (v : Bound) : (st.setB r v).fidxSeq = st.fidxSeq := rfl
@[simp] theorem Strand.setB_latch (st : Strand) (r : BRegNo) (v : Bound) : (st.setB r v).latch = st.latch := rfl
@[simp] theorem Strand.setB_resv (st : Strand) (r : BRegNo) (v : Bound) : (st.setB r v).resv = st.resv := rfl
@[simp] theorem Strand.setB_stream (st : Strand) (r : BRegNo) (v : Bound) : (st.setB r v).stream = st.stream := rfl
@[simp] theorem Strand.setB_windows (st : Strand) (r : BRegNo) (v : Bound) : (st.setB r v).windows = st.windows := rfl
@[simp] theorem Strand.setB_cache (st : Strand) (r : BRegNo) (v : Bound) : (st.setB r v).cache = st.cache := rfl
@[simp] theorem Strand.setB_icache (st : Strand) (r : BRegNo) (v : Bound) : (st.setB r v).icache = st.icache := rfl
@[simp] theorem Strand.setB_newest (st : Strand) (r : BRegNo) (v : Bound) : (st.setB r v).newest = st.newest := rfl
@[simp] theorem Strand.setB_wps (st : Strand) (r : BRegNo) (v : Bound) : (st.setB r v).wps = st.wps := rfl
@[simp] theorem Strand.setB_pending (st : Strand) (r : BRegNo) (v : Bound) : (st.setB r v).pending = st.pending := rfl
@[simp] theorem Strand.setB_blocked (st : Strand) (r : BRegNo) (v : Bound) : (st.setB r v).blocked = st.blocked := rfl
@[simp] theorem Strand.setB_hold (st : Strand) (r : BRegNo) (v : Bound) : (st.setB r v).hold = st.hold := rfl
@[simp] theorem Strand.setB_awaiting (st : Strand) (r : BRegNo) (v : Bound) : (st.setB r v).awaiting = st.awaiting := rfl
@[simp] theorem Strand.setB_yieldFor (st : Strand) (r : BRegNo) (v : Bound) : (st.setB r v).yieldFor = st.yieldFor := rfl
@[simp] theorem Strand.setB_yieldLeft (st : Strand) (r : BRegNo) (v : Bound) : (st.setB r v).yieldLeft = st.yieldLeft := rfl
@[simp] theorem Strand.setB_stopAt (st : Strand) (r : BRegNo) (v : Bound) : (st.setB r v).stopAt = st.stopAt := rfl
@[simp] theorem Strand.setB_evSoFar (st : Strand) (r : BRegNo) (v : Bound) : (st.setB r v).evSoFar = st.evSoFar := rfl
@[simp] theorem Strand.setB_evFirst (st : Strand) (r : BRegNo) (v : Bound) : (st.setB r v).evFirst = st.evFirst := rfl
@[simp] theorem Strand.setB_handler (st : Strand) (r : BRegNo) (v : Bound) : (st.setB r v).handler = st.handler := rfl
@[simp] theorem Strand.setB_areas (st : Strand) (r : BRegNo) (v : Bound) : (st.setB r v).areas = st.areas := rfl
@[simp] theorem Strand.setB_blockedFor (st : Strand) (r : BRegNo) (v : Bound) : (st.setB r v).blockedFor = st.blockedFor := rfl
@[simp] theorem Strand.setB_ordTime (st : Strand) (r : BRegNo) (v : Bound) : (st.setB r v).ordTime = st.ordTime := rfl
@[simp] theorem Strand.setB_ordWait (st : Strand) (r : BRegNo) (v : Bound) : (st.setB r v).ordWait = st.ordWait := rfl
@[simp] theorem Strand.setB_ordRead (st : Strand) (r : BRegNo) (v : Bound) : (st.setB r v).ordRead = st.ordRead := rfl

/-! ### Strand.setV -/

@[simp] theorem Strand.setV_id (st : Strand) (r : VRegNo) (v : VReg) : (st.setV r v).id = st.id := rfl
@[simp] theorem Strand.setV_live (st : Strand) (r : VRegNo) (v : VReg) : (st.setV r v).live = st.live := rfl
@[simp] theorem Strand.setV_gang (st : Strand) (r : VRegNo) (v : VReg) : (st.setV r v).gang = st.gang := rfl
@[simp] theorem Strand.setV_ctx (st : Strand) (r : VRegNo) (v : VReg) : (st.setV r v).ctx = st.ctx := rfl
@[simp] theorem Strand.setV_core (st : Strand) (r : VRegNo) (v : VReg) : (st.setV r v).core = st.core := rfl
@[simp] theorem Strand.setV_place (st : Strand) (r : VRegNo) (v : VReg) : (st.setV r v).place = st.place := rfl
@[simp] theorem Strand.setV_obj (st : Strand) (r : VRegNo) (v : VReg) : (st.setV r v).obj = st.obj := rfl
@[simp] theorem Strand.setV_pc (st : Strand) (r : VRegNo) (v : VReg) : (st.setV r v).pc = st.pc := rfl
@[simp] theorem Strand.setV_prev (st : Strand) (r : VRegNo) (v : VReg) : (st.setV r v).prev = st.prev := rfl
@[simp] theorem Strand.setV_x (st : Strand) (r : VRegNo) (v : VReg) : (st.setV r v).x = st.x := rfl
@[simp] theorem Strand.setV_f (st : Strand) (r : VRegNo) (v : VReg) : (st.setV r v).f = st.f := rfl
@[simp] theorem Strand.setV_m (st : Strand) (r : VRegNo) (v : VReg) : (st.setV r v).m = st.m := rfl
@[simp] theorem Strand.setV_p (st : Strand) (r : VRegNo) (v : VReg) : (st.setV r v).p = st.p := rfl
@[simp] theorem Strand.setV_b (st : Strand) (r : VRegNo) (v : VReg) : (st.setV r v).b = st.b := rfl
@[simp] theorem Strand.setV_alg (st : Strand) (r : VRegNo) (v : VReg) : (st.setV r v).alg = st.alg := rfl
@[simp] theorem Strand.setV_rstack (st : Strand) (r : VRegNo) (v : VReg) : (st.setV r v).rstack = st.rstack := rfl
@[simp] theorem Strand.setV_rdepth (st : Strand) (r : VRegNo) (v : VReg) : (st.setV r v).rdepth = st.rdepth := rfl
@[simp] theorem Strand.setV_spillRs (st : Strand) (r : VRegNo) (v : VReg) : (st.setV r v).spillRs = st.spillRs := rfl
@[simp] theorem Strand.setV_mstack (st : Strand) (r : VRegNo) (v : VReg) : (st.setV r v).mstack = st.mstack := rfl
@[simp] theorem Strand.setV_mdepth (st : Strand) (r : VRegNo) (v : VReg) : (st.setV r v).mdepth = st.mdepth := rfl
@[simp] theorem Strand.setV_spillMs (st : Strand) (r : VRegNo) (v : VReg) : (st.setV r v).spillMs = st.spillMs := rfl
@[simp] theorem Strand.setV_rbase (st : Strand) (r : VRegNo) (v : VReg) : (st.setV r v).rbase = st.rbase := rfl
@[simp] theorem Strand.setV_mbase (st : Strand) (r : VRegNo) (v : VReg) : (st.setV r v).mbase = st.mbase := rfl
@[simp] theorem Strand.setV_vtype (st : Strand) (r : VRegNo) (v : VReg) : (st.setV r v).vtype = st.vtype := rfl
@[simp] theorem Strand.setV_vl (st : Strand) (r : VRegNo) (v : VReg) : (st.setV r v).vl = st.vl := rfl
@[simp] theorem Strand.setV_mvl (st : Strand) (r : VRegNo) (v : VReg) : (st.setV r v).mvl = st.mvl := rfl
@[simp] theorem Strand.setV_esr (st : Strand) (r : VRegNo) (v : VReg) : (st.setV r v).esr = st.esr := rfl
@[simp] theorem Strand.setV_resume (st : Strand) (r : VRegNo) (v : VReg) : (st.setV r v).resume = st.resume := rfl
@[simp] theorem Strand.setV_tau (st : Strand) (r : VRegNo) (v : VReg) : (st.setV r v).tau = st.tau := rfl
@[simp] theorem Strand.setV_fstat (st : Strand) (r : VRegNo) (v : VReg) : (st.setV r v).fstat = st.fstat := rfl
@[simp] theorem Strand.setV_fidx (st : Strand) (r : VRegNo) (v : VReg) : (st.setV r v).fidx = st.fidx := rfl
@[simp] theorem Strand.setV_stripPrev (st : Strand) (r : VRegNo) (v : VReg) : (st.setV r v).stripPrev = st.stripPrev := rfl
@[simp] theorem Strand.setV_rngKey (st : Strand) (r : VRegNo) (v : VReg) : (st.setV r v).rngKey = st.rngKey := rfl
@[simp] theorem Strand.setV_rngCtr (st : Strand) (r : VRegNo) (v : VReg) : (st.setV r v).rngCtr = st.rngCtr := rfl
@[simp] theorem Strand.setV_vcount (st : Strand) (r : VRegNo) (v : VReg) : (st.setV r v).vcount = st.vcount := rfl
@[simp] theorem Strand.setV_bufFirst (st : Strand) (r : VRegNo) (v : VReg) : (st.setV r v).bufFirst = st.bufFirst := rfl
@[simp] theorem Strand.setV_bufGroups (st : Strand) (r : VRegNo) (v : VReg) : (st.setV r v).bufGroups = st.bufGroups := rfl
@[simp] theorem Strand.setV_share (st : Strand) (r : VRegNo) (v : VReg) : (st.setV r v).share = st.share := rfl
@[simp] theorem Strand.setV_codeb (st : Strand) (r : VRegNo) (v : VReg) : (st.setV r v).codeb = st.codeb := rfl
@[simp] theorem Strand.setV_lix (st : Strand) (r : VRegNo) (v : VReg) : (st.setV r v).lix = st.lix := rfl
@[simp] theorem Strand.setV_lext (st : Strand) (r : VRegNo) (v : VReg) : (st.setV r v).lext = st.lext := rfl
@[simp] theorem Strand.setV_llin (st : Strand) (r : VRegNo) (v : VReg) : (st.setV r v).llin = st.llin := rfl
@[simp] theorem Strand.setV_inMatrix (st : Strand) (r : VRegNo) (v : VReg) : (st.setV r v).inMatrix = st.inMatrix := rfl
@[simp] theorem Strand.setV_active (st : Strand) (r : VRegNo) (v : VReg) : (st.setV r v).active = st.active := rfl
@[simp] theorem Strand.setV_shadow (st : Strand) (r : VRegNo) (v : VReg) : (st.setV r v).shadow = st.shadow := rfl
@[simp] theorem Strand.setV_acc (st : Strand) (r : VRegNo) (v : VReg) : (st.setV r v).acc = st.acc := rfl
@[simp] theorem Strand.setV_commitAcc (st : Strand) (r : VRegNo) (v : VReg) : (st.setV r v).commitAcc = st.commitAcc := rfl
@[simp] theorem Strand.setV_commitActive (st : Strand) (r : VRegNo) (v : VReg) : (st.setV r v).commitActive = st.commitActive := rfl
@[simp] theorem Strand.setV_commitShadow (st : Strand) (r : VRegNo) (v : VReg) : (st.setV r v).commitShadow = st.commitShadow := rfl
@[simp] theorem Strand.setV_mqueue (st : Strand) (r : VRegNo) (v : VReg) : (st.setV r v).mqueue = st.mqueue := rfl
@[simp] theorem Strand.setV_bind (st : Strand) (r : VRegNo) (v : VReg) : (st.setV r v).bind = st.bind := rfl
@[simp] theorem Strand.setV_seq (st : Strand) (r : VRegNo) (v : VReg) : (st.setV r v).seq = st.seq := rfl
@[simp] theorem Strand.setV_fidxSeq (st : Strand) (r : VRegNo) (v : VReg) : (st.setV r v).fidxSeq = st.fidxSeq := rfl
@[simp] theorem Strand.setV_latch (st : Strand) (r : VRegNo) (v : VReg) : (st.setV r v).latch = st.latch := rfl
@[simp] theorem Strand.setV_resv (st : Strand) (r : VRegNo) (v : VReg) : (st.setV r v).resv = st.resv := rfl
@[simp] theorem Strand.setV_stream (st : Strand) (r : VRegNo) (v : VReg) : (st.setV r v).stream = st.stream := rfl
@[simp] theorem Strand.setV_windows (st : Strand) (r : VRegNo) (v : VReg) : (st.setV r v).windows = st.windows := rfl
@[simp] theorem Strand.setV_cache (st : Strand) (r : VRegNo) (v : VReg) : (st.setV r v).cache = st.cache := rfl
@[simp] theorem Strand.setV_icache (st : Strand) (r : VRegNo) (v : VReg) : (st.setV r v).icache = st.icache := rfl
@[simp] theorem Strand.setV_newest (st : Strand) (r : VRegNo) (v : VReg) : (st.setV r v).newest = st.newest := rfl
@[simp] theorem Strand.setV_wps (st : Strand) (r : VRegNo) (v : VReg) : (st.setV r v).wps = st.wps := rfl
@[simp] theorem Strand.setV_pending (st : Strand) (r : VRegNo) (v : VReg) : (st.setV r v).pending = st.pending := rfl
@[simp] theorem Strand.setV_blocked (st : Strand) (r : VRegNo) (v : VReg) : (st.setV r v).blocked = st.blocked := rfl
@[simp] theorem Strand.setV_hold (st : Strand) (r : VRegNo) (v : VReg) : (st.setV r v).hold = st.hold := rfl
@[simp] theorem Strand.setV_awaiting (st : Strand) (r : VRegNo) (v : VReg) : (st.setV r v).awaiting = st.awaiting := rfl
@[simp] theorem Strand.setV_yieldFor (st : Strand) (r : VRegNo) (v : VReg) : (st.setV r v).yieldFor = st.yieldFor := rfl
@[simp] theorem Strand.setV_yieldLeft (st : Strand) (r : VRegNo) (v : VReg) : (st.setV r v).yieldLeft = st.yieldLeft := rfl
@[simp] theorem Strand.setV_stopAt (st : Strand) (r : VRegNo) (v : VReg) : (st.setV r v).stopAt = st.stopAt := rfl
@[simp] theorem Strand.setV_evSoFar (st : Strand) (r : VRegNo) (v : VReg) : (st.setV r v).evSoFar = st.evSoFar := rfl
@[simp] theorem Strand.setV_evFirst (st : Strand) (r : VRegNo) (v : VReg) : (st.setV r v).evFirst = st.evFirst := rfl
@[simp] theorem Strand.setV_handler (st : Strand) (r : VRegNo) (v : VReg) : (st.setV r v).handler = st.handler := rfl
@[simp] theorem Strand.setV_areas (st : Strand) (r : VRegNo) (v : VReg) : (st.setV r v).areas = st.areas := rfl
@[simp] theorem Strand.setV_blockedFor (st : Strand) (r : VRegNo) (v : VReg) : (st.setV r v).blockedFor = st.blockedFor := rfl
@[simp] theorem Strand.setV_ordTime (st : Strand) (r : VRegNo) (v : VReg) : (st.setV r v).ordTime = st.ordTime := rfl
@[simp] theorem Strand.setV_ordWait (st : Strand) (r : VRegNo) (v : VReg) : (st.setV r v).ordWait = st.ordWait := rfl
@[simp] theorem Strand.setV_ordRead (st : Strand) (r : VRegNo) (v : VReg) : (st.setV r v).ordRead = st.ordRead := rfl

/-! ### Strand.setM -/

@[simp] theorem Strand.setM_id (st : Strand) (d : MRegNo) (bits : List Bool) : (st.setM d bits).id = st.id := by unfold Strand.setM; split <;> rfl
@[simp] theorem Strand.setM_live (st : Strand) (d : MRegNo) (bits : List Bool) : (st.setM d bits).live = st.live := by unfold Strand.setM; split <;> rfl
@[simp] theorem Strand.setM_gang (st : Strand) (d : MRegNo) (bits : List Bool) : (st.setM d bits).gang = st.gang := by unfold Strand.setM; split <;> rfl
@[simp] theorem Strand.setM_ctx (st : Strand) (d : MRegNo) (bits : List Bool) : (st.setM d bits).ctx = st.ctx := by unfold Strand.setM; split <;> rfl
@[simp] theorem Strand.setM_core (st : Strand) (d : MRegNo) (bits : List Bool) : (st.setM d bits).core = st.core := by unfold Strand.setM; split <;> rfl
@[simp] theorem Strand.setM_place (st : Strand) (d : MRegNo) (bits : List Bool) : (st.setM d bits).place = st.place := by unfold Strand.setM; split <;> rfl
@[simp] theorem Strand.setM_obj (st : Strand) (d : MRegNo) (bits : List Bool) : (st.setM d bits).obj = st.obj := by unfold Strand.setM; split <;> rfl
@[simp] theorem Strand.setM_pc (st : Strand) (d : MRegNo) (bits : List Bool) : (st.setM d bits).pc = st.pc := by unfold Strand.setM; split <;> rfl
@[simp] theorem Strand.setM_prev (st : Strand) (d : MRegNo) (bits : List Bool) : (st.setM d bits).prev = st.prev := by unfold Strand.setM; split <;> rfl
@[simp] theorem Strand.setM_x (st : Strand) (d : MRegNo) (bits : List Bool) : (st.setM d bits).x = st.x := by unfold Strand.setM; split <;> rfl
@[simp] theorem Strand.setM_f (st : Strand) (d : MRegNo) (bits : List Bool) : (st.setM d bits).f = st.f := by unfold Strand.setM; split <;> rfl
@[simp] theorem Strand.setM_v (st : Strand) (d : MRegNo) (bits : List Bool) : (st.setM d bits).v = st.v := by unfold Strand.setM; split <;> rfl
@[simp] theorem Strand.setM_p (st : Strand) (d : MRegNo) (bits : List Bool) : (st.setM d bits).p = st.p := by unfold Strand.setM; split <;> rfl
@[simp] theorem Strand.setM_b (st : Strand) (d : MRegNo) (bits : List Bool) : (st.setM d bits).b = st.b := by unfold Strand.setM; split <;> rfl
@[simp] theorem Strand.setM_alg (st : Strand) (d : MRegNo) (bits : List Bool) : (st.setM d bits).alg = st.alg := by unfold Strand.setM; split <;> rfl
@[simp] theorem Strand.setM_rstack (st : Strand) (d : MRegNo) (bits : List Bool) : (st.setM d bits).rstack = st.rstack := by unfold Strand.setM; split <;> rfl
@[simp] theorem Strand.setM_rdepth (st : Strand) (d : MRegNo) (bits : List Bool) : (st.setM d bits).rdepth = st.rdepth := by unfold Strand.setM; split <;> rfl
@[simp] theorem Strand.setM_spillRs (st : Strand) (d : MRegNo) (bits : List Bool) : (st.setM d bits).spillRs = st.spillRs := by unfold Strand.setM; split <;> rfl
@[simp] theorem Strand.setM_mstack (st : Strand) (d : MRegNo) (bits : List Bool) : (st.setM d bits).mstack = st.mstack := by unfold Strand.setM; split <;> rfl
@[simp] theorem Strand.setM_mdepth (st : Strand) (d : MRegNo) (bits : List Bool) : (st.setM d bits).mdepth = st.mdepth := by unfold Strand.setM; split <;> rfl
@[simp] theorem Strand.setM_spillMs (st : Strand) (d : MRegNo) (bits : List Bool) : (st.setM d bits).spillMs = st.spillMs := by unfold Strand.setM; split <;> rfl
@[simp] theorem Strand.setM_rbase (st : Strand) (d : MRegNo) (bits : List Bool) : (st.setM d bits).rbase = st.rbase := by unfold Strand.setM; split <;> rfl
@[simp] theorem Strand.setM_mbase (st : Strand) (d : MRegNo) (bits : List Bool) : (st.setM d bits).mbase = st.mbase := by unfold Strand.setM; split <;> rfl
@[simp] theorem Strand.setM_vtype (st : Strand) (d : MRegNo) (bits : List Bool) : (st.setM d bits).vtype = st.vtype := by unfold Strand.setM; split <;> rfl
@[simp] theorem Strand.setM_vl (st : Strand) (d : MRegNo) (bits : List Bool) : (st.setM d bits).vl = st.vl := by unfold Strand.setM; split <;> rfl
@[simp] theorem Strand.setM_mvl (st : Strand) (d : MRegNo) (bits : List Bool) : (st.setM d bits).mvl = st.mvl := by unfold Strand.setM; split <;> rfl
@[simp] theorem Strand.setM_esr (st : Strand) (d : MRegNo) (bits : List Bool) : (st.setM d bits).esr = st.esr := by unfold Strand.setM; split <;> rfl
@[simp] theorem Strand.setM_resume (st : Strand) (d : MRegNo) (bits : List Bool) : (st.setM d bits).resume = st.resume := by unfold Strand.setM; split <;> rfl
@[simp] theorem Strand.setM_tau (st : Strand) (d : MRegNo) (bits : List Bool) : (st.setM d bits).tau = st.tau := by unfold Strand.setM; split <;> rfl
@[simp] theorem Strand.setM_fstat (st : Strand) (d : MRegNo) (bits : List Bool) : (st.setM d bits).fstat = st.fstat := by unfold Strand.setM; split <;> rfl
@[simp] theorem Strand.setM_fidx (st : Strand) (d : MRegNo) (bits : List Bool) : (st.setM d bits).fidx = st.fidx := by unfold Strand.setM; split <;> rfl
@[simp] theorem Strand.setM_stripPrev (st : Strand) (d : MRegNo) (bits : List Bool) : (st.setM d bits).stripPrev = st.stripPrev := by unfold Strand.setM; split <;> rfl
@[simp] theorem Strand.setM_rngKey (st : Strand) (d : MRegNo) (bits : List Bool) : (st.setM d bits).rngKey = st.rngKey := by unfold Strand.setM; split <;> rfl
@[simp] theorem Strand.setM_rngCtr (st : Strand) (d : MRegNo) (bits : List Bool) : (st.setM d bits).rngCtr = st.rngCtr := by unfold Strand.setM; split <;> rfl
@[simp] theorem Strand.setM_vcount (st : Strand) (d : MRegNo) (bits : List Bool) : (st.setM d bits).vcount = st.vcount := by unfold Strand.setM; split <;> rfl
@[simp] theorem Strand.setM_bufFirst (st : Strand) (d : MRegNo) (bits : List Bool) : (st.setM d bits).bufFirst = st.bufFirst := by unfold Strand.setM; split <;> rfl
@[simp] theorem Strand.setM_bufGroups (st : Strand) (d : MRegNo) (bits : List Bool) : (st.setM d bits).bufGroups = st.bufGroups := by unfold Strand.setM; split <;> rfl
@[simp] theorem Strand.setM_share (st : Strand) (d : MRegNo) (bits : List Bool) : (st.setM d bits).share = st.share := by unfold Strand.setM; split <;> rfl
@[simp] theorem Strand.setM_codeb (st : Strand) (d : MRegNo) (bits : List Bool) : (st.setM d bits).codeb = st.codeb := by unfold Strand.setM; split <;> rfl
@[simp] theorem Strand.setM_lix (st : Strand) (d : MRegNo) (bits : List Bool) : (st.setM d bits).lix = st.lix := by unfold Strand.setM; split <;> rfl
@[simp] theorem Strand.setM_lext (st : Strand) (d : MRegNo) (bits : List Bool) : (st.setM d bits).lext = st.lext := by unfold Strand.setM; split <;> rfl
@[simp] theorem Strand.setM_llin (st : Strand) (d : MRegNo) (bits : List Bool) : (st.setM d bits).llin = st.llin := by unfold Strand.setM; split <;> rfl
@[simp] theorem Strand.setM_inMatrix (st : Strand) (d : MRegNo) (bits : List Bool) : (st.setM d bits).inMatrix = st.inMatrix := by unfold Strand.setM; split <;> rfl
@[simp] theorem Strand.setM_active (st : Strand) (d : MRegNo) (bits : List Bool) : (st.setM d bits).active = st.active := by unfold Strand.setM; split <;> rfl
@[simp] theorem Strand.setM_shadow (st : Strand) (d : MRegNo) (bits : List Bool) : (st.setM d bits).shadow = st.shadow := by unfold Strand.setM; split <;> rfl
@[simp] theorem Strand.setM_acc (st : Strand) (d : MRegNo) (bits : List Bool) : (st.setM d bits).acc = st.acc := by unfold Strand.setM; split <;> rfl
@[simp] theorem Strand.setM_commitAcc (st : Strand) (d : MRegNo) (bits : List Bool) : (st.setM d bits).commitAcc = st.commitAcc := by unfold Strand.setM; split <;> rfl
@[simp] theorem Strand.setM_commitActive (st : Strand) (d : MRegNo) (bits : List Bool) : (st.setM d bits).commitActive = st.commitActive := by unfold Strand.setM; split <;> rfl
@[simp] theorem Strand.setM_commitShadow (st : Strand) (d : MRegNo) (bits : List Bool) : (st.setM d bits).commitShadow = st.commitShadow := by unfold Strand.setM; split <;> rfl
@[simp] theorem Strand.setM_mqueue (st : Strand) (d : MRegNo) (bits : List Bool) : (st.setM d bits).mqueue = st.mqueue := by unfold Strand.setM; split <;> rfl
@[simp] theorem Strand.setM_bind (st : Strand) (d : MRegNo) (bits : List Bool) : (st.setM d bits).bind = st.bind := by unfold Strand.setM; split <;> rfl
@[simp] theorem Strand.setM_seq (st : Strand) (d : MRegNo) (bits : List Bool) : (st.setM d bits).seq = st.seq := by unfold Strand.setM; split <;> rfl
@[simp] theorem Strand.setM_fidxSeq (st : Strand) (d : MRegNo) (bits : List Bool) : (st.setM d bits).fidxSeq = st.fidxSeq := by unfold Strand.setM; split <;> rfl
@[simp] theorem Strand.setM_latch (st : Strand) (d : MRegNo) (bits : List Bool) : (st.setM d bits).latch = st.latch := by unfold Strand.setM; split <;> rfl
@[simp] theorem Strand.setM_resv (st : Strand) (d : MRegNo) (bits : List Bool) : (st.setM d bits).resv = st.resv := by unfold Strand.setM; split <;> rfl
@[simp] theorem Strand.setM_stream (st : Strand) (d : MRegNo) (bits : List Bool) : (st.setM d bits).stream = st.stream := by unfold Strand.setM; split <;> rfl
@[simp] theorem Strand.setM_windows (st : Strand) (d : MRegNo) (bits : List Bool) : (st.setM d bits).windows = st.windows := by unfold Strand.setM; split <;> rfl
@[simp] theorem Strand.setM_cache (st : Strand) (d : MRegNo) (bits : List Bool) : (st.setM d bits).cache = st.cache := by unfold Strand.setM; split <;> rfl
@[simp] theorem Strand.setM_icache (st : Strand) (d : MRegNo) (bits : List Bool) : (st.setM d bits).icache = st.icache := by unfold Strand.setM; split <;> rfl
@[simp] theorem Strand.setM_newest (st : Strand) (d : MRegNo) (bits : List Bool) : (st.setM d bits).newest = st.newest := by unfold Strand.setM; split <;> rfl
@[simp] theorem Strand.setM_wps (st : Strand) (d : MRegNo) (bits : List Bool) : (st.setM d bits).wps = st.wps := by unfold Strand.setM; split <;> rfl
@[simp] theorem Strand.setM_pending (st : Strand) (d : MRegNo) (bits : List Bool) : (st.setM d bits).pending = st.pending := by unfold Strand.setM; split <;> rfl
@[simp] theorem Strand.setM_blocked (st : Strand) (d : MRegNo) (bits : List Bool) : (st.setM d bits).blocked = st.blocked := by unfold Strand.setM; split <;> rfl
@[simp] theorem Strand.setM_hold (st : Strand) (d : MRegNo) (bits : List Bool) : (st.setM d bits).hold = st.hold := by unfold Strand.setM; split <;> rfl
@[simp] theorem Strand.setM_awaiting (st : Strand) (d : MRegNo) (bits : List Bool) : (st.setM d bits).awaiting = st.awaiting := by unfold Strand.setM; split <;> rfl
@[simp] theorem Strand.setM_yieldFor (st : Strand) (d : MRegNo) (bits : List Bool) : (st.setM d bits).yieldFor = st.yieldFor := by unfold Strand.setM; split <;> rfl
@[simp] theorem Strand.setM_yieldLeft (st : Strand) (d : MRegNo) (bits : List Bool) : (st.setM d bits).yieldLeft = st.yieldLeft := by unfold Strand.setM; split <;> rfl
@[simp] theorem Strand.setM_stopAt (st : Strand) (d : MRegNo) (bits : List Bool) : (st.setM d bits).stopAt = st.stopAt := by unfold Strand.setM; split <;> rfl
@[simp] theorem Strand.setM_evSoFar (st : Strand) (d : MRegNo) (bits : List Bool) : (st.setM d bits).evSoFar = st.evSoFar := by unfold Strand.setM; split <;> rfl
@[simp] theorem Strand.setM_evFirst (st : Strand) (d : MRegNo) (bits : List Bool) : (st.setM d bits).evFirst = st.evFirst := by unfold Strand.setM; split <;> rfl
@[simp] theorem Strand.setM_handler (st : Strand) (d : MRegNo) (bits : List Bool) : (st.setM d bits).handler = st.handler := by unfold Strand.setM; split <;> rfl
@[simp] theorem Strand.setM_areas (st : Strand) (d : MRegNo) (bits : List Bool) : (st.setM d bits).areas = st.areas := by unfold Strand.setM; split <;> rfl
@[simp] theorem Strand.setM_blockedFor (st : Strand) (d : MRegNo) (bits : List Bool) : (st.setM d bits).blockedFor = st.blockedFor := by unfold Strand.setM; split <;> rfl
@[simp] theorem Strand.setM_ordTime (st : Strand) (d : MRegNo) (bits : List Bool) : (st.setM d bits).ordTime = st.ordTime := by unfold Strand.setM; split <;> rfl
@[simp] theorem Strand.setM_ordWait (st : Strand) (d : MRegNo) (bits : List Bool) : (st.setM d bits).ordWait = st.ordWait := by unfold Strand.setM; split <;> rfl
@[simp] theorem Strand.setM_ordRead (st : Strand) (d : MRegNo) (bits : List Bool) : (st.setM d bits).ordRead = st.ordRead := by unfold Strand.setM; split <;> rfl

/-! ### Strand.partM -/

@[simp] theorem Strand.partM_id (st : Strand) (d : MRegNo) (bits : List Bool) : (st.partM d bits).id = st.id := by unfold Strand.partM; split <;> rfl
@[simp] theorem Strand.partM_live (st : Strand) (d : MRegNo) (bits : List Bool) : (st.partM d bits).live = st.live := by unfold Strand.partM; split <;> rfl
@[simp] theorem Strand.partM_gang (st : Strand) (d : MRegNo) (bits : List Bool) : (st.partM d bits).gang = st.gang := by unfold Strand.partM; split <;> rfl
@[simp] theorem Strand.partM_ctx (st : Strand) (d : MRegNo) (bits : List Bool) : (st.partM d bits).ctx = st.ctx := by unfold Strand.partM; split <;> rfl
@[simp] theorem Strand.partM_core (st : Strand) (d : MRegNo) (bits : List Bool) : (st.partM d bits).core = st.core := by unfold Strand.partM; split <;> rfl
@[simp] theorem Strand.partM_place (st : Strand) (d : MRegNo) (bits : List Bool) : (st.partM d bits).place = st.place := by unfold Strand.partM; split <;> rfl
@[simp] theorem Strand.partM_obj (st : Strand) (d : MRegNo) (bits : List Bool) : (st.partM d bits).obj = st.obj := by unfold Strand.partM; split <;> rfl
@[simp] theorem Strand.partM_pc (st : Strand) (d : MRegNo) (bits : List Bool) : (st.partM d bits).pc = st.pc := by unfold Strand.partM; split <;> rfl
@[simp] theorem Strand.partM_prev (st : Strand) (d : MRegNo) (bits : List Bool) : (st.partM d bits).prev = st.prev := by unfold Strand.partM; split <;> rfl
@[simp] theorem Strand.partM_x (st : Strand) (d : MRegNo) (bits : List Bool) : (st.partM d bits).x = st.x := by unfold Strand.partM; split <;> rfl
@[simp] theorem Strand.partM_f (st : Strand) (d : MRegNo) (bits : List Bool) : (st.partM d bits).f = st.f := by unfold Strand.partM; split <;> rfl
@[simp] theorem Strand.partM_v (st : Strand) (d : MRegNo) (bits : List Bool) : (st.partM d bits).v = st.v := by unfold Strand.partM; split <;> rfl
@[simp] theorem Strand.partM_p (st : Strand) (d : MRegNo) (bits : List Bool) : (st.partM d bits).p = st.p := by unfold Strand.partM; split <;> rfl
@[simp] theorem Strand.partM_b (st : Strand) (d : MRegNo) (bits : List Bool) : (st.partM d bits).b = st.b := by unfold Strand.partM; split <;> rfl
@[simp] theorem Strand.partM_alg (st : Strand) (d : MRegNo) (bits : List Bool) : (st.partM d bits).alg = st.alg := by unfold Strand.partM; split <;> rfl
@[simp] theorem Strand.partM_rstack (st : Strand) (d : MRegNo) (bits : List Bool) : (st.partM d bits).rstack = st.rstack := by unfold Strand.partM; split <;> rfl
@[simp] theorem Strand.partM_rdepth (st : Strand) (d : MRegNo) (bits : List Bool) : (st.partM d bits).rdepth = st.rdepth := by unfold Strand.partM; split <;> rfl
@[simp] theorem Strand.partM_spillRs (st : Strand) (d : MRegNo) (bits : List Bool) : (st.partM d bits).spillRs = st.spillRs := by unfold Strand.partM; split <;> rfl
@[simp] theorem Strand.partM_mstack (st : Strand) (d : MRegNo) (bits : List Bool) : (st.partM d bits).mstack = st.mstack := by unfold Strand.partM; split <;> rfl
@[simp] theorem Strand.partM_mdepth (st : Strand) (d : MRegNo) (bits : List Bool) : (st.partM d bits).mdepth = st.mdepth := by unfold Strand.partM; split <;> rfl
@[simp] theorem Strand.partM_spillMs (st : Strand) (d : MRegNo) (bits : List Bool) : (st.partM d bits).spillMs = st.spillMs := by unfold Strand.partM; split <;> rfl
@[simp] theorem Strand.partM_rbase (st : Strand) (d : MRegNo) (bits : List Bool) : (st.partM d bits).rbase = st.rbase := by unfold Strand.partM; split <;> rfl
@[simp] theorem Strand.partM_mbase (st : Strand) (d : MRegNo) (bits : List Bool) : (st.partM d bits).mbase = st.mbase := by unfold Strand.partM; split <;> rfl
@[simp] theorem Strand.partM_vtype (st : Strand) (d : MRegNo) (bits : List Bool) : (st.partM d bits).vtype = st.vtype := by unfold Strand.partM; split <;> rfl
@[simp] theorem Strand.partM_vl (st : Strand) (d : MRegNo) (bits : List Bool) : (st.partM d bits).vl = st.vl := by unfold Strand.partM; split <;> rfl
@[simp] theorem Strand.partM_mvl (st : Strand) (d : MRegNo) (bits : List Bool) : (st.partM d bits).mvl = st.mvl := by unfold Strand.partM; split <;> rfl
@[simp] theorem Strand.partM_esr (st : Strand) (d : MRegNo) (bits : List Bool) : (st.partM d bits).esr = st.esr := by unfold Strand.partM; split <;> rfl
@[simp] theorem Strand.partM_resume (st : Strand) (d : MRegNo) (bits : List Bool) : (st.partM d bits).resume = st.resume := by unfold Strand.partM; split <;> rfl
@[simp] theorem Strand.partM_tau (st : Strand) (d : MRegNo) (bits : List Bool) : (st.partM d bits).tau = st.tau := by unfold Strand.partM; split <;> rfl
@[simp] theorem Strand.partM_fstat (st : Strand) (d : MRegNo) (bits : List Bool) : (st.partM d bits).fstat = st.fstat := by unfold Strand.partM; split <;> rfl
@[simp] theorem Strand.partM_fidx (st : Strand) (d : MRegNo) (bits : List Bool) : (st.partM d bits).fidx = st.fidx := by unfold Strand.partM; split <;> rfl
@[simp] theorem Strand.partM_stripPrev (st : Strand) (d : MRegNo) (bits : List Bool) : (st.partM d bits).stripPrev = st.stripPrev := by unfold Strand.partM; split <;> rfl
@[simp] theorem Strand.partM_rngKey (st : Strand) (d : MRegNo) (bits : List Bool) : (st.partM d bits).rngKey = st.rngKey := by unfold Strand.partM; split <;> rfl
@[simp] theorem Strand.partM_rngCtr (st : Strand) (d : MRegNo) (bits : List Bool) : (st.partM d bits).rngCtr = st.rngCtr := by unfold Strand.partM; split <;> rfl
@[simp] theorem Strand.partM_vcount (st : Strand) (d : MRegNo) (bits : List Bool) : (st.partM d bits).vcount = st.vcount := by unfold Strand.partM; split <;> rfl
@[simp] theorem Strand.partM_bufFirst (st : Strand) (d : MRegNo) (bits : List Bool) : (st.partM d bits).bufFirst = st.bufFirst := by unfold Strand.partM; split <;> rfl
@[simp] theorem Strand.partM_bufGroups (st : Strand) (d : MRegNo) (bits : List Bool) : (st.partM d bits).bufGroups = st.bufGroups := by unfold Strand.partM; split <;> rfl
@[simp] theorem Strand.partM_share (st : Strand) (d : MRegNo) (bits : List Bool) : (st.partM d bits).share = st.share := by unfold Strand.partM; split <;> rfl
@[simp] theorem Strand.partM_codeb (st : Strand) (d : MRegNo) (bits : List Bool) : (st.partM d bits).codeb = st.codeb := by unfold Strand.partM; split <;> rfl
@[simp] theorem Strand.partM_lix (st : Strand) (d : MRegNo) (bits : List Bool) : (st.partM d bits).lix = st.lix := by unfold Strand.partM; split <;> rfl
@[simp] theorem Strand.partM_lext (st : Strand) (d : MRegNo) (bits : List Bool) : (st.partM d bits).lext = st.lext := by unfold Strand.partM; split <;> rfl
@[simp] theorem Strand.partM_llin (st : Strand) (d : MRegNo) (bits : List Bool) : (st.partM d bits).llin = st.llin := by unfold Strand.partM; split <;> rfl
@[simp] theorem Strand.partM_inMatrix (st : Strand) (d : MRegNo) (bits : List Bool) : (st.partM d bits).inMatrix = st.inMatrix := by unfold Strand.partM; split <;> rfl
@[simp] theorem Strand.partM_active (st : Strand) (d : MRegNo) (bits : List Bool) : (st.partM d bits).active = st.active := by unfold Strand.partM; split <;> rfl
@[simp] theorem Strand.partM_shadow (st : Strand) (d : MRegNo) (bits : List Bool) : (st.partM d bits).shadow = st.shadow := by unfold Strand.partM; split <;> rfl
@[simp] theorem Strand.partM_acc (st : Strand) (d : MRegNo) (bits : List Bool) : (st.partM d bits).acc = st.acc := by unfold Strand.partM; split <;> rfl
@[simp] theorem Strand.partM_commitAcc (st : Strand) (d : MRegNo) (bits : List Bool) : (st.partM d bits).commitAcc = st.commitAcc := by unfold Strand.partM; split <;> rfl
@[simp] theorem Strand.partM_commitActive (st : Strand) (d : MRegNo) (bits : List Bool) : (st.partM d bits).commitActive = st.commitActive := by unfold Strand.partM; split <;> rfl
@[simp] theorem Strand.partM_commitShadow (st : Strand) (d : MRegNo) (bits : List Bool) : (st.partM d bits).commitShadow = st.commitShadow := by unfold Strand.partM; split <;> rfl
@[simp] theorem Strand.partM_mqueue (st : Strand) (d : MRegNo) (bits : List Bool) : (st.partM d bits).mqueue = st.mqueue := by unfold Strand.partM; split <;> rfl
@[simp] theorem Strand.partM_bind (st : Strand) (d : MRegNo) (bits : List Bool) : (st.partM d bits).bind = st.bind := by unfold Strand.partM; split <;> rfl
@[simp] theorem Strand.partM_seq (st : Strand) (d : MRegNo) (bits : List Bool) : (st.partM d bits).seq = st.seq := by unfold Strand.partM; split <;> rfl
@[simp] theorem Strand.partM_fidxSeq (st : Strand) (d : MRegNo) (bits : List Bool) : (st.partM d bits).fidxSeq = st.fidxSeq := by unfold Strand.partM; split <;> rfl
@[simp] theorem Strand.partM_latch (st : Strand) (d : MRegNo) (bits : List Bool) : (st.partM d bits).latch = st.latch := by unfold Strand.partM; split <;> rfl
@[simp] theorem Strand.partM_resv (st : Strand) (d : MRegNo) (bits : List Bool) : (st.partM d bits).resv = st.resv := by unfold Strand.partM; split <;> rfl
@[simp] theorem Strand.partM_stream (st : Strand) (d : MRegNo) (bits : List Bool) : (st.partM d bits).stream = st.stream := by unfold Strand.partM; split <;> rfl
@[simp] theorem Strand.partM_windows (st : Strand) (d : MRegNo) (bits : List Bool) : (st.partM d bits).windows = st.windows := by unfold Strand.partM; split <;> rfl
@[simp] theorem Strand.partM_cache (st : Strand) (d : MRegNo) (bits : List Bool) : (st.partM d bits).cache = st.cache := by unfold Strand.partM; split <;> rfl
@[simp] theorem Strand.partM_icache (st : Strand) (d : MRegNo) (bits : List Bool) : (st.partM d bits).icache = st.icache := by unfold Strand.partM; split <;> rfl
@[simp] theorem Strand.partM_newest (st : Strand) (d : MRegNo) (bits : List Bool) : (st.partM d bits).newest = st.newest := by unfold Strand.partM; split <;> rfl
@[simp] theorem Strand.partM_wps (st : Strand) (d : MRegNo) (bits : List Bool) : (st.partM d bits).wps = st.wps := by unfold Strand.partM; split <;> rfl
@[simp] theorem Strand.partM_pending (st : Strand) (d : MRegNo) (bits : List Bool) : (st.partM d bits).pending = st.pending := by unfold Strand.partM; split <;> rfl
@[simp] theorem Strand.partM_blocked (st : Strand) (d : MRegNo) (bits : List Bool) : (st.partM d bits).blocked = st.blocked := by unfold Strand.partM; split <;> rfl
@[simp] theorem Strand.partM_hold (st : Strand) (d : MRegNo) (bits : List Bool) : (st.partM d bits).hold = st.hold := by unfold Strand.partM; split <;> rfl
@[simp] theorem Strand.partM_awaiting (st : Strand) (d : MRegNo) (bits : List Bool) : (st.partM d bits).awaiting = st.awaiting := by unfold Strand.partM; split <;> rfl
@[simp] theorem Strand.partM_yieldFor (st : Strand) (d : MRegNo) (bits : List Bool) : (st.partM d bits).yieldFor = st.yieldFor := by unfold Strand.partM; split <;> rfl
@[simp] theorem Strand.partM_yieldLeft (st : Strand) (d : MRegNo) (bits : List Bool) : (st.partM d bits).yieldLeft = st.yieldLeft := by unfold Strand.partM; split <;> rfl
@[simp] theorem Strand.partM_stopAt (st : Strand) (d : MRegNo) (bits : List Bool) : (st.partM d bits).stopAt = st.stopAt := by unfold Strand.partM; split <;> rfl
@[simp] theorem Strand.partM_evSoFar (st : Strand) (d : MRegNo) (bits : List Bool) : (st.partM d bits).evSoFar = st.evSoFar := by unfold Strand.partM; split <;> rfl
@[simp] theorem Strand.partM_evFirst (st : Strand) (d : MRegNo) (bits : List Bool) : (st.partM d bits).evFirst = st.evFirst := by unfold Strand.partM; split <;> rfl
@[simp] theorem Strand.partM_handler (st : Strand) (d : MRegNo) (bits : List Bool) : (st.partM d bits).handler = st.handler := by unfold Strand.partM; split <;> rfl
@[simp] theorem Strand.partM_areas (st : Strand) (d : MRegNo) (bits : List Bool) : (st.partM d bits).areas = st.areas := by unfold Strand.partM; split <;> rfl
@[simp] theorem Strand.partM_blockedFor (st : Strand) (d : MRegNo) (bits : List Bool) : (st.partM d bits).blockedFor = st.blockedFor := by unfold Strand.partM; split <;> rfl
@[simp] theorem Strand.partM_ordTime (st : Strand) (d : MRegNo) (bits : List Bool) : (st.partM d bits).ordTime = st.ordTime := by unfold Strand.partM; split <;> rfl
@[simp] theorem Strand.partM_ordWait (st : Strand) (d : MRegNo) (bits : List Bool) : (st.partM d bits).ordWait = st.ordWait := by unfold Strand.partM; split <;> rfl
@[simp] theorem Strand.partM_ordRead (st : Strand) (d : MRegNo) (bits : List Bool) : (st.partM d bits).ordRead = st.ordRead := by unfold Strand.partM; split <;> rfl

/-! ### Strand.setP -/

@[simp] theorem Strand.setP_id (st : Strand) (d : PRegNo) (codes : List Nat) (prov : BitVec 16) : (st.setP d codes prov).id = st.id := by unfold Strand.setP; split <;> rfl
@[simp] theorem Strand.setP_live (st : Strand) (d : PRegNo) (codes : List Nat) (prov : BitVec 16) : (st.setP d codes prov).live = st.live := by unfold Strand.setP; split <;> rfl
@[simp] theorem Strand.setP_gang (st : Strand) (d : PRegNo) (codes : List Nat) (prov : BitVec 16) : (st.setP d codes prov).gang = st.gang := by unfold Strand.setP; split <;> rfl
@[simp] theorem Strand.setP_ctx (st : Strand) (d : PRegNo) (codes : List Nat) (prov : BitVec 16) : (st.setP d codes prov).ctx = st.ctx := by unfold Strand.setP; split <;> rfl
@[simp] theorem Strand.setP_core (st : Strand) (d : PRegNo) (codes : List Nat) (prov : BitVec 16) : (st.setP d codes prov).core = st.core := by unfold Strand.setP; split <;> rfl
@[simp] theorem Strand.setP_place (st : Strand) (d : PRegNo) (codes : List Nat) (prov : BitVec 16) : (st.setP d codes prov).place = st.place := by unfold Strand.setP; split <;> rfl
@[simp] theorem Strand.setP_obj (st : Strand) (d : PRegNo) (codes : List Nat) (prov : BitVec 16) : (st.setP d codes prov).obj = st.obj := by unfold Strand.setP; split <;> rfl
@[simp] theorem Strand.setP_pc (st : Strand) (d : PRegNo) (codes : List Nat) (prov : BitVec 16) : (st.setP d codes prov).pc = st.pc := by unfold Strand.setP; split <;> rfl
@[simp] theorem Strand.setP_prev (st : Strand) (d : PRegNo) (codes : List Nat) (prov : BitVec 16) : (st.setP d codes prov).prev = st.prev := by unfold Strand.setP; split <;> rfl
@[simp] theorem Strand.setP_x (st : Strand) (d : PRegNo) (codes : List Nat) (prov : BitVec 16) : (st.setP d codes prov).x = st.x := by unfold Strand.setP; split <;> rfl
@[simp] theorem Strand.setP_f (st : Strand) (d : PRegNo) (codes : List Nat) (prov : BitVec 16) : (st.setP d codes prov).f = st.f := by unfold Strand.setP; split <;> rfl
@[simp] theorem Strand.setP_v (st : Strand) (d : PRegNo) (codes : List Nat) (prov : BitVec 16) : (st.setP d codes prov).v = st.v := by unfold Strand.setP; split <;> rfl
@[simp] theorem Strand.setP_m (st : Strand) (d : PRegNo) (codes : List Nat) (prov : BitVec 16) : (st.setP d codes prov).m = st.m := by unfold Strand.setP; split <;> rfl
@[simp] theorem Strand.setP_b (st : Strand) (d : PRegNo) (codes : List Nat) (prov : BitVec 16) : (st.setP d codes prov).b = st.b := by unfold Strand.setP; split <;> rfl
@[simp] theorem Strand.setP_alg (st : Strand) (d : PRegNo) (codes : List Nat) (prov : BitVec 16) : (st.setP d codes prov).alg = st.alg := by unfold Strand.setP; split <;> rfl
@[simp] theorem Strand.setP_rstack (st : Strand) (d : PRegNo) (codes : List Nat) (prov : BitVec 16) : (st.setP d codes prov).rstack = st.rstack := by unfold Strand.setP; split <;> rfl
@[simp] theorem Strand.setP_rdepth (st : Strand) (d : PRegNo) (codes : List Nat) (prov : BitVec 16) : (st.setP d codes prov).rdepth = st.rdepth := by unfold Strand.setP; split <;> rfl
@[simp] theorem Strand.setP_spillRs (st : Strand) (d : PRegNo) (codes : List Nat) (prov : BitVec 16) : (st.setP d codes prov).spillRs = st.spillRs := by unfold Strand.setP; split <;> rfl
@[simp] theorem Strand.setP_mstack (st : Strand) (d : PRegNo) (codes : List Nat) (prov : BitVec 16) : (st.setP d codes prov).mstack = st.mstack := by unfold Strand.setP; split <;> rfl
@[simp] theorem Strand.setP_mdepth (st : Strand) (d : PRegNo) (codes : List Nat) (prov : BitVec 16) : (st.setP d codes prov).mdepth = st.mdepth := by unfold Strand.setP; split <;> rfl
@[simp] theorem Strand.setP_spillMs (st : Strand) (d : PRegNo) (codes : List Nat) (prov : BitVec 16) : (st.setP d codes prov).spillMs = st.spillMs := by unfold Strand.setP; split <;> rfl
@[simp] theorem Strand.setP_rbase (st : Strand) (d : PRegNo) (codes : List Nat) (prov : BitVec 16) : (st.setP d codes prov).rbase = st.rbase := by unfold Strand.setP; split <;> rfl
@[simp] theorem Strand.setP_mbase (st : Strand) (d : PRegNo) (codes : List Nat) (prov : BitVec 16) : (st.setP d codes prov).mbase = st.mbase := by unfold Strand.setP; split <;> rfl
@[simp] theorem Strand.setP_vtype (st : Strand) (d : PRegNo) (codes : List Nat) (prov : BitVec 16) : (st.setP d codes prov).vtype = st.vtype := by unfold Strand.setP; split <;> rfl
@[simp] theorem Strand.setP_vl (st : Strand) (d : PRegNo) (codes : List Nat) (prov : BitVec 16) : (st.setP d codes prov).vl = st.vl := by unfold Strand.setP; split <;> rfl
@[simp] theorem Strand.setP_mvl (st : Strand) (d : PRegNo) (codes : List Nat) (prov : BitVec 16) : (st.setP d codes prov).mvl = st.mvl := by unfold Strand.setP; split <;> rfl
@[simp] theorem Strand.setP_esr (st : Strand) (d : PRegNo) (codes : List Nat) (prov : BitVec 16) : (st.setP d codes prov).esr = st.esr := by unfold Strand.setP; split <;> rfl
@[simp] theorem Strand.setP_resume (st : Strand) (d : PRegNo) (codes : List Nat) (prov : BitVec 16) : (st.setP d codes prov).resume = st.resume := by unfold Strand.setP; split <;> rfl
@[simp] theorem Strand.setP_tau (st : Strand) (d : PRegNo) (codes : List Nat) (prov : BitVec 16) : (st.setP d codes prov).tau = st.tau := by unfold Strand.setP; split <;> rfl
@[simp] theorem Strand.setP_fstat (st : Strand) (d : PRegNo) (codes : List Nat) (prov : BitVec 16) : (st.setP d codes prov).fstat = st.fstat := by unfold Strand.setP; split <;> rfl
@[simp] theorem Strand.setP_fidx (st : Strand) (d : PRegNo) (codes : List Nat) (prov : BitVec 16) : (st.setP d codes prov).fidx = st.fidx := by unfold Strand.setP; split <;> rfl
@[simp] theorem Strand.setP_stripPrev (st : Strand) (d : PRegNo) (codes : List Nat) (prov : BitVec 16) : (st.setP d codes prov).stripPrev = st.stripPrev := by unfold Strand.setP; split <;> rfl
@[simp] theorem Strand.setP_rngKey (st : Strand) (d : PRegNo) (codes : List Nat) (prov : BitVec 16) : (st.setP d codes prov).rngKey = st.rngKey := by unfold Strand.setP; split <;> rfl
@[simp] theorem Strand.setP_rngCtr (st : Strand) (d : PRegNo) (codes : List Nat) (prov : BitVec 16) : (st.setP d codes prov).rngCtr = st.rngCtr := by unfold Strand.setP; split <;> rfl
@[simp] theorem Strand.setP_vcount (st : Strand) (d : PRegNo) (codes : List Nat) (prov : BitVec 16) : (st.setP d codes prov).vcount = st.vcount := by unfold Strand.setP; split <;> rfl
@[simp] theorem Strand.setP_bufFirst (st : Strand) (d : PRegNo) (codes : List Nat) (prov : BitVec 16) : (st.setP d codes prov).bufFirst = st.bufFirst := by unfold Strand.setP; split <;> rfl
@[simp] theorem Strand.setP_bufGroups (st : Strand) (d : PRegNo) (codes : List Nat) (prov : BitVec 16) : (st.setP d codes prov).bufGroups = st.bufGroups := by unfold Strand.setP; split <;> rfl
@[simp] theorem Strand.setP_share (st : Strand) (d : PRegNo) (codes : List Nat) (prov : BitVec 16) : (st.setP d codes prov).share = st.share := by unfold Strand.setP; split <;> rfl
@[simp] theorem Strand.setP_codeb (st : Strand) (d : PRegNo) (codes : List Nat) (prov : BitVec 16) : (st.setP d codes prov).codeb = st.codeb := by unfold Strand.setP; split <;> rfl
@[simp] theorem Strand.setP_lix (st : Strand) (d : PRegNo) (codes : List Nat) (prov : BitVec 16) : (st.setP d codes prov).lix = st.lix := by unfold Strand.setP; split <;> rfl
@[simp] theorem Strand.setP_lext (st : Strand) (d : PRegNo) (codes : List Nat) (prov : BitVec 16) : (st.setP d codes prov).lext = st.lext := by unfold Strand.setP; split <;> rfl
@[simp] theorem Strand.setP_llin (st : Strand) (d : PRegNo) (codes : List Nat) (prov : BitVec 16) : (st.setP d codes prov).llin = st.llin := by unfold Strand.setP; split <;> rfl
@[simp] theorem Strand.setP_inMatrix (st : Strand) (d : PRegNo) (codes : List Nat) (prov : BitVec 16) : (st.setP d codes prov).inMatrix = st.inMatrix := by unfold Strand.setP; split <;> rfl
@[simp] theorem Strand.setP_active (st : Strand) (d : PRegNo) (codes : List Nat) (prov : BitVec 16) : (st.setP d codes prov).active = st.active := by unfold Strand.setP; split <;> rfl
@[simp] theorem Strand.setP_shadow (st : Strand) (d : PRegNo) (codes : List Nat) (prov : BitVec 16) : (st.setP d codes prov).shadow = st.shadow := by unfold Strand.setP; split <;> rfl
@[simp] theorem Strand.setP_acc (st : Strand) (d : PRegNo) (codes : List Nat) (prov : BitVec 16) : (st.setP d codes prov).acc = st.acc := by unfold Strand.setP; split <;> rfl
@[simp] theorem Strand.setP_commitAcc (st : Strand) (d : PRegNo) (codes : List Nat) (prov : BitVec 16) : (st.setP d codes prov).commitAcc = st.commitAcc := by unfold Strand.setP; split <;> rfl
@[simp] theorem Strand.setP_commitActive (st : Strand) (d : PRegNo) (codes : List Nat) (prov : BitVec 16) : (st.setP d codes prov).commitActive = st.commitActive := by unfold Strand.setP; split <;> rfl
@[simp] theorem Strand.setP_commitShadow (st : Strand) (d : PRegNo) (codes : List Nat) (prov : BitVec 16) : (st.setP d codes prov).commitShadow = st.commitShadow := by unfold Strand.setP; split <;> rfl
@[simp] theorem Strand.setP_mqueue (st : Strand) (d : PRegNo) (codes : List Nat) (prov : BitVec 16) : (st.setP d codes prov).mqueue = st.mqueue := by unfold Strand.setP; split <;> rfl
@[simp] theorem Strand.setP_bind (st : Strand) (d : PRegNo) (codes : List Nat) (prov : BitVec 16) : (st.setP d codes prov).bind = st.bind := by unfold Strand.setP; split <;> rfl
@[simp] theorem Strand.setP_seq (st : Strand) (d : PRegNo) (codes : List Nat) (prov : BitVec 16) : (st.setP d codes prov).seq = st.seq := by unfold Strand.setP; split <;> rfl
@[simp] theorem Strand.setP_fidxSeq (st : Strand) (d : PRegNo) (codes : List Nat) (prov : BitVec 16) : (st.setP d codes prov).fidxSeq = st.fidxSeq := by unfold Strand.setP; split <;> rfl
@[simp] theorem Strand.setP_latch (st : Strand) (d : PRegNo) (codes : List Nat) (prov : BitVec 16) : (st.setP d codes prov).latch = st.latch := by unfold Strand.setP; split <;> rfl
@[simp] theorem Strand.setP_resv (st : Strand) (d : PRegNo) (codes : List Nat) (prov : BitVec 16) : (st.setP d codes prov).resv = st.resv := by unfold Strand.setP; split <;> rfl
@[simp] theorem Strand.setP_stream (st : Strand) (d : PRegNo) (codes : List Nat) (prov : BitVec 16) : (st.setP d codes prov).stream = st.stream := by unfold Strand.setP; split <;> rfl
@[simp] theorem Strand.setP_windows (st : Strand) (d : PRegNo) (codes : List Nat) (prov : BitVec 16) : (st.setP d codes prov).windows = st.windows := by unfold Strand.setP; split <;> rfl
@[simp] theorem Strand.setP_cache (st : Strand) (d : PRegNo) (codes : List Nat) (prov : BitVec 16) : (st.setP d codes prov).cache = st.cache := by unfold Strand.setP; split <;> rfl
@[simp] theorem Strand.setP_icache (st : Strand) (d : PRegNo) (codes : List Nat) (prov : BitVec 16) : (st.setP d codes prov).icache = st.icache := by unfold Strand.setP; split <;> rfl
@[simp] theorem Strand.setP_newest (st : Strand) (d : PRegNo) (codes : List Nat) (prov : BitVec 16) : (st.setP d codes prov).newest = st.newest := by unfold Strand.setP; split <;> rfl
@[simp] theorem Strand.setP_wps (st : Strand) (d : PRegNo) (codes : List Nat) (prov : BitVec 16) : (st.setP d codes prov).wps = st.wps := by unfold Strand.setP; split <;> rfl
@[simp] theorem Strand.setP_pending (st : Strand) (d : PRegNo) (codes : List Nat) (prov : BitVec 16) : (st.setP d codes prov).pending = st.pending := by unfold Strand.setP; split <;> rfl
@[simp] theorem Strand.setP_blocked (st : Strand) (d : PRegNo) (codes : List Nat) (prov : BitVec 16) : (st.setP d codes prov).blocked = st.blocked := by unfold Strand.setP; split <;> rfl
@[simp] theorem Strand.setP_hold (st : Strand) (d : PRegNo) (codes : List Nat) (prov : BitVec 16) : (st.setP d codes prov).hold = st.hold := by unfold Strand.setP; split <;> rfl
@[simp] theorem Strand.setP_awaiting (st : Strand) (d : PRegNo) (codes : List Nat) (prov : BitVec 16) : (st.setP d codes prov).awaiting = st.awaiting := by unfold Strand.setP; split <;> rfl
@[simp] theorem Strand.setP_yieldFor (st : Strand) (d : PRegNo) (codes : List Nat) (prov : BitVec 16) : (st.setP d codes prov).yieldFor = st.yieldFor := by unfold Strand.setP; split <;> rfl
@[simp] theorem Strand.setP_yieldLeft (st : Strand) (d : PRegNo) (codes : List Nat) (prov : BitVec 16) : (st.setP d codes prov).yieldLeft = st.yieldLeft := by unfold Strand.setP; split <;> rfl
@[simp] theorem Strand.setP_stopAt (st : Strand) (d : PRegNo) (codes : List Nat) (prov : BitVec 16) : (st.setP d codes prov).stopAt = st.stopAt := by unfold Strand.setP; split <;> rfl
@[simp] theorem Strand.setP_evSoFar (st : Strand) (d : PRegNo) (codes : List Nat) (prov : BitVec 16) : (st.setP d codes prov).evSoFar = st.evSoFar := by unfold Strand.setP; split <;> rfl
@[simp] theorem Strand.setP_evFirst (st : Strand) (d : PRegNo) (codes : List Nat) (prov : BitVec 16) : (st.setP d codes prov).evFirst = st.evFirst := by unfold Strand.setP; split <;> rfl
@[simp] theorem Strand.setP_handler (st : Strand) (d : PRegNo) (codes : List Nat) (prov : BitVec 16) : (st.setP d codes prov).handler = st.handler := by unfold Strand.setP; split <;> rfl
@[simp] theorem Strand.setP_areas (st : Strand) (d : PRegNo) (codes : List Nat) (prov : BitVec 16) : (st.setP d codes prov).areas = st.areas := by unfold Strand.setP; split <;> rfl
@[simp] theorem Strand.setP_blockedFor (st : Strand) (d : PRegNo) (codes : List Nat) (prov : BitVec 16) : (st.setP d codes prov).blockedFor = st.blockedFor := by unfold Strand.setP; split <;> rfl
@[simp] theorem Strand.setP_ordTime (st : Strand) (d : PRegNo) (codes : List Nat) (prov : BitVec 16) : (st.setP d codes prov).ordTime = st.ordTime := by unfold Strand.setP; split <;> rfl
@[simp] theorem Strand.setP_ordWait (st : Strand) (d : PRegNo) (codes : List Nat) (prov : BitVec 16) : (st.setP d codes prov).ordWait = st.ordWait := by unfold Strand.setP; split <;> rfl
@[simp] theorem Strand.setP_ordRead (st : Strand) (d : PRegNo) (codes : List Nat) (prov : BitVec 16) : (st.setP d codes prov).ordRead = st.ordRead := by unfold Strand.setP; split <;> rfl

/-! ### Strand.partP -/

@[simp] theorem Strand.partP_id (st : Strand) (d : PRegNo) (codes : List Nat) : (st.partP d codes).id = st.id := by unfold Strand.partP; split <;> rfl
@[simp] theorem Strand.partP_live (st : Strand) (d : PRegNo) (codes : List Nat) : (st.partP d codes).live = st.live := by unfold Strand.partP; split <;> rfl
@[simp] theorem Strand.partP_gang (st : Strand) (d : PRegNo) (codes : List Nat) : (st.partP d codes).gang = st.gang := by unfold Strand.partP; split <;> rfl
@[simp] theorem Strand.partP_ctx (st : Strand) (d : PRegNo) (codes : List Nat) : (st.partP d codes).ctx = st.ctx := by unfold Strand.partP; split <;> rfl
@[simp] theorem Strand.partP_core (st : Strand) (d : PRegNo) (codes : List Nat) : (st.partP d codes).core = st.core := by unfold Strand.partP; split <;> rfl
@[simp] theorem Strand.partP_place (st : Strand) (d : PRegNo) (codes : List Nat) : (st.partP d codes).place = st.place := by unfold Strand.partP; split <;> rfl
@[simp] theorem Strand.partP_obj (st : Strand) (d : PRegNo) (codes : List Nat) : (st.partP d codes).obj = st.obj := by unfold Strand.partP; split <;> rfl
@[simp] theorem Strand.partP_pc (st : Strand) (d : PRegNo) (codes : List Nat) : (st.partP d codes).pc = st.pc := by unfold Strand.partP; split <;> rfl
@[simp] theorem Strand.partP_prev (st : Strand) (d : PRegNo) (codes : List Nat) : (st.partP d codes).prev = st.prev := by unfold Strand.partP; split <;> rfl
@[simp] theorem Strand.partP_x (st : Strand) (d : PRegNo) (codes : List Nat) : (st.partP d codes).x = st.x := by unfold Strand.partP; split <;> rfl
@[simp] theorem Strand.partP_f (st : Strand) (d : PRegNo) (codes : List Nat) : (st.partP d codes).f = st.f := by unfold Strand.partP; split <;> rfl
@[simp] theorem Strand.partP_v (st : Strand) (d : PRegNo) (codes : List Nat) : (st.partP d codes).v = st.v := by unfold Strand.partP; split <;> rfl
@[simp] theorem Strand.partP_m (st : Strand) (d : PRegNo) (codes : List Nat) : (st.partP d codes).m = st.m := by unfold Strand.partP; split <;> rfl
@[simp] theorem Strand.partP_b (st : Strand) (d : PRegNo) (codes : List Nat) : (st.partP d codes).b = st.b := by unfold Strand.partP; split <;> rfl
@[simp] theorem Strand.partP_alg (st : Strand) (d : PRegNo) (codes : List Nat) : (st.partP d codes).alg = st.alg := by unfold Strand.partP; split <;> rfl
@[simp] theorem Strand.partP_rstack (st : Strand) (d : PRegNo) (codes : List Nat) : (st.partP d codes).rstack = st.rstack := by unfold Strand.partP; split <;> rfl
@[simp] theorem Strand.partP_rdepth (st : Strand) (d : PRegNo) (codes : List Nat) : (st.partP d codes).rdepth = st.rdepth := by unfold Strand.partP; split <;> rfl
@[simp] theorem Strand.partP_spillRs (st : Strand) (d : PRegNo) (codes : List Nat) : (st.partP d codes).spillRs = st.spillRs := by unfold Strand.partP; split <;> rfl
@[simp] theorem Strand.partP_mstack (st : Strand) (d : PRegNo) (codes : List Nat) : (st.partP d codes).mstack = st.mstack := by unfold Strand.partP; split <;> rfl
@[simp] theorem Strand.partP_mdepth (st : Strand) (d : PRegNo) (codes : List Nat) : (st.partP d codes).mdepth = st.mdepth := by unfold Strand.partP; split <;> rfl
@[simp] theorem Strand.partP_spillMs (st : Strand) (d : PRegNo) (codes : List Nat) : (st.partP d codes).spillMs = st.spillMs := by unfold Strand.partP; split <;> rfl
@[simp] theorem Strand.partP_rbase (st : Strand) (d : PRegNo) (codes : List Nat) : (st.partP d codes).rbase = st.rbase := by unfold Strand.partP; split <;> rfl
@[simp] theorem Strand.partP_mbase (st : Strand) (d : PRegNo) (codes : List Nat) : (st.partP d codes).mbase = st.mbase := by unfold Strand.partP; split <;> rfl
@[simp] theorem Strand.partP_vtype (st : Strand) (d : PRegNo) (codes : List Nat) : (st.partP d codes).vtype = st.vtype := by unfold Strand.partP; split <;> rfl
@[simp] theorem Strand.partP_vl (st : Strand) (d : PRegNo) (codes : List Nat) : (st.partP d codes).vl = st.vl := by unfold Strand.partP; split <;> rfl
@[simp] theorem Strand.partP_mvl (st : Strand) (d : PRegNo) (codes : List Nat) : (st.partP d codes).mvl = st.mvl := by unfold Strand.partP; split <;> rfl
@[simp] theorem Strand.partP_esr (st : Strand) (d : PRegNo) (codes : List Nat) : (st.partP d codes).esr = st.esr := by unfold Strand.partP; split <;> rfl
@[simp] theorem Strand.partP_resume (st : Strand) (d : PRegNo) (codes : List Nat) : (st.partP d codes).resume = st.resume := by unfold Strand.partP; split <;> rfl
@[simp] theorem Strand.partP_tau (st : Strand) (d : PRegNo) (codes : List Nat) : (st.partP d codes).tau = st.tau := by unfold Strand.partP; split <;> rfl
@[simp] theorem Strand.partP_fstat (st : Strand) (d : PRegNo) (codes : List Nat) : (st.partP d codes).fstat = st.fstat := by unfold Strand.partP; split <;> rfl
@[simp] theorem Strand.partP_fidx (st : Strand) (d : PRegNo) (codes : List Nat) : (st.partP d codes).fidx = st.fidx := by unfold Strand.partP; split <;> rfl
@[simp] theorem Strand.partP_stripPrev (st : Strand) (d : PRegNo) (codes : List Nat) : (st.partP d codes).stripPrev = st.stripPrev := by unfold Strand.partP; split <;> rfl
@[simp] theorem Strand.partP_rngKey (st : Strand) (d : PRegNo) (codes : List Nat) : (st.partP d codes).rngKey = st.rngKey := by unfold Strand.partP; split <;> rfl
@[simp] theorem Strand.partP_rngCtr (st : Strand) (d : PRegNo) (codes : List Nat) : (st.partP d codes).rngCtr = st.rngCtr := by unfold Strand.partP; split <;> rfl
@[simp] theorem Strand.partP_vcount (st : Strand) (d : PRegNo) (codes : List Nat) : (st.partP d codes).vcount = st.vcount := by unfold Strand.partP; split <;> rfl
@[simp] theorem Strand.partP_bufFirst (st : Strand) (d : PRegNo) (codes : List Nat) : (st.partP d codes).bufFirst = st.bufFirst := by unfold Strand.partP; split <;> rfl
@[simp] theorem Strand.partP_bufGroups (st : Strand) (d : PRegNo) (codes : List Nat) : (st.partP d codes).bufGroups = st.bufGroups := by unfold Strand.partP; split <;> rfl
@[simp] theorem Strand.partP_share (st : Strand) (d : PRegNo) (codes : List Nat) : (st.partP d codes).share = st.share := by unfold Strand.partP; split <;> rfl
@[simp] theorem Strand.partP_codeb (st : Strand) (d : PRegNo) (codes : List Nat) : (st.partP d codes).codeb = st.codeb := by unfold Strand.partP; split <;> rfl
@[simp] theorem Strand.partP_lix (st : Strand) (d : PRegNo) (codes : List Nat) : (st.partP d codes).lix = st.lix := by unfold Strand.partP; split <;> rfl
@[simp] theorem Strand.partP_lext (st : Strand) (d : PRegNo) (codes : List Nat) : (st.partP d codes).lext = st.lext := by unfold Strand.partP; split <;> rfl
@[simp] theorem Strand.partP_llin (st : Strand) (d : PRegNo) (codes : List Nat) : (st.partP d codes).llin = st.llin := by unfold Strand.partP; split <;> rfl
@[simp] theorem Strand.partP_inMatrix (st : Strand) (d : PRegNo) (codes : List Nat) : (st.partP d codes).inMatrix = st.inMatrix := by unfold Strand.partP; split <;> rfl
@[simp] theorem Strand.partP_active (st : Strand) (d : PRegNo) (codes : List Nat) : (st.partP d codes).active = st.active := by unfold Strand.partP; split <;> rfl
@[simp] theorem Strand.partP_shadow (st : Strand) (d : PRegNo) (codes : List Nat) : (st.partP d codes).shadow = st.shadow := by unfold Strand.partP; split <;> rfl
@[simp] theorem Strand.partP_acc (st : Strand) (d : PRegNo) (codes : List Nat) : (st.partP d codes).acc = st.acc := by unfold Strand.partP; split <;> rfl
@[simp] theorem Strand.partP_commitAcc (st : Strand) (d : PRegNo) (codes : List Nat) : (st.partP d codes).commitAcc = st.commitAcc := by unfold Strand.partP; split <;> rfl
@[simp] theorem Strand.partP_commitActive (st : Strand) (d : PRegNo) (codes : List Nat) : (st.partP d codes).commitActive = st.commitActive := by unfold Strand.partP; split <;> rfl
@[simp] theorem Strand.partP_commitShadow (st : Strand) (d : PRegNo) (codes : List Nat) : (st.partP d codes).commitShadow = st.commitShadow := by unfold Strand.partP; split <;> rfl
@[simp] theorem Strand.partP_mqueue (st : Strand) (d : PRegNo) (codes : List Nat) : (st.partP d codes).mqueue = st.mqueue := by unfold Strand.partP; split <;> rfl
@[simp] theorem Strand.partP_bind (st : Strand) (d : PRegNo) (codes : List Nat) : (st.partP d codes).bind = st.bind := by unfold Strand.partP; split <;> rfl
@[simp] theorem Strand.partP_seq (st : Strand) (d : PRegNo) (codes : List Nat) : (st.partP d codes).seq = st.seq := by unfold Strand.partP; split <;> rfl
@[simp] theorem Strand.partP_fidxSeq (st : Strand) (d : PRegNo) (codes : List Nat) : (st.partP d codes).fidxSeq = st.fidxSeq := by unfold Strand.partP; split <;> rfl
@[simp] theorem Strand.partP_latch (st : Strand) (d : PRegNo) (codes : List Nat) : (st.partP d codes).latch = st.latch := by unfold Strand.partP; split <;> rfl
@[simp] theorem Strand.partP_resv (st : Strand) (d : PRegNo) (codes : List Nat) : (st.partP d codes).resv = st.resv := by unfold Strand.partP; split <;> rfl
@[simp] theorem Strand.partP_stream (st : Strand) (d : PRegNo) (codes : List Nat) : (st.partP d codes).stream = st.stream := by unfold Strand.partP; split <;> rfl
@[simp] theorem Strand.partP_windows (st : Strand) (d : PRegNo) (codes : List Nat) : (st.partP d codes).windows = st.windows := by unfold Strand.partP; split <;> rfl
@[simp] theorem Strand.partP_cache (st : Strand) (d : PRegNo) (codes : List Nat) : (st.partP d codes).cache = st.cache := by unfold Strand.partP; split <;> rfl
@[simp] theorem Strand.partP_icache (st : Strand) (d : PRegNo) (codes : List Nat) : (st.partP d codes).icache = st.icache := by unfold Strand.partP; split <;> rfl
@[simp] theorem Strand.partP_newest (st : Strand) (d : PRegNo) (codes : List Nat) : (st.partP d codes).newest = st.newest := by unfold Strand.partP; split <;> rfl
@[simp] theorem Strand.partP_wps (st : Strand) (d : PRegNo) (codes : List Nat) : (st.partP d codes).wps = st.wps := by unfold Strand.partP; split <;> rfl
@[simp] theorem Strand.partP_pending (st : Strand) (d : PRegNo) (codes : List Nat) : (st.partP d codes).pending = st.pending := by unfold Strand.partP; split <;> rfl
@[simp] theorem Strand.partP_blocked (st : Strand) (d : PRegNo) (codes : List Nat) : (st.partP d codes).blocked = st.blocked := by unfold Strand.partP; split <;> rfl
@[simp] theorem Strand.partP_hold (st : Strand) (d : PRegNo) (codes : List Nat) : (st.partP d codes).hold = st.hold := by unfold Strand.partP; split <;> rfl
@[simp] theorem Strand.partP_awaiting (st : Strand) (d : PRegNo) (codes : List Nat) : (st.partP d codes).awaiting = st.awaiting := by unfold Strand.partP; split <;> rfl
@[simp] theorem Strand.partP_yieldFor (st : Strand) (d : PRegNo) (codes : List Nat) : (st.partP d codes).yieldFor = st.yieldFor := by unfold Strand.partP; split <;> rfl
@[simp] theorem Strand.partP_yieldLeft (st : Strand) (d : PRegNo) (codes : List Nat) : (st.partP d codes).yieldLeft = st.yieldLeft := by unfold Strand.partP; split <;> rfl
@[simp] theorem Strand.partP_stopAt (st : Strand) (d : PRegNo) (codes : List Nat) : (st.partP d codes).stopAt = st.stopAt := by unfold Strand.partP; split <;> rfl
@[simp] theorem Strand.partP_evSoFar (st : Strand) (d : PRegNo) (codes : List Nat) : (st.partP d codes).evSoFar = st.evSoFar := by unfold Strand.partP; split <;> rfl
@[simp] theorem Strand.partP_evFirst (st : Strand) (d : PRegNo) (codes : List Nat) : (st.partP d codes).evFirst = st.evFirst := by unfold Strand.partP; split <;> rfl
@[simp] theorem Strand.partP_handler (st : Strand) (d : PRegNo) (codes : List Nat) : (st.partP d codes).handler = st.handler := by unfold Strand.partP; split <;> rfl
@[simp] theorem Strand.partP_areas (st : Strand) (d : PRegNo) (codes : List Nat) : (st.partP d codes).areas = st.areas := by unfold Strand.partP; split <;> rfl
@[simp] theorem Strand.partP_blockedFor (st : Strand) (d : PRegNo) (codes : List Nat) : (st.partP d codes).blockedFor = st.blockedFor := by unfold Strand.partP; split <;> rfl
@[simp] theorem Strand.partP_ordTime (st : Strand) (d : PRegNo) (codes : List Nat) : (st.partP d codes).ordTime = st.ordTime := by unfold Strand.partP; split <;> rfl
@[simp] theorem Strand.partP_ordWait (st : Strand) (d : PRegNo) (codes : List Nat) : (st.partP d codes).ordWait = st.ordWait := by unfold Strand.partP; split <;> rfl
@[simp] theorem Strand.partP_ordRead (st : Strand) (d : PRegNo) (codes : List Nat) : (st.partP d codes).ordRead = st.ordRead := by unfold Strand.partP; split <;> rfl

/-! ### Strand.raise -/

@[simp] theorem Strand.raise_id (st : Strand) (evs : Evs) : (st.raise evs).id = st.id := rfl
@[simp] theorem Strand.raise_live (st : Strand) (evs : Evs) : (st.raise evs).live = st.live := rfl
@[simp] theorem Strand.raise_gang (st : Strand) (evs : Evs) : (st.raise evs).gang = st.gang := rfl
@[simp] theorem Strand.raise_ctx (st : Strand) (evs : Evs) : (st.raise evs).ctx = st.ctx := rfl
@[simp] theorem Strand.raise_core (st : Strand) (evs : Evs) : (st.raise evs).core = st.core := rfl
@[simp] theorem Strand.raise_place (st : Strand) (evs : Evs) : (st.raise evs).place = st.place := rfl
@[simp] theorem Strand.raise_obj (st : Strand) (evs : Evs) : (st.raise evs).obj = st.obj := rfl
@[simp] theorem Strand.raise_pc (st : Strand) (evs : Evs) : (st.raise evs).pc = st.pc := rfl
@[simp] theorem Strand.raise_prev (st : Strand) (evs : Evs) : (st.raise evs).prev = st.prev := rfl
@[simp] theorem Strand.raise_x (st : Strand) (evs : Evs) : (st.raise evs).x = st.x := rfl
@[simp] theorem Strand.raise_f (st : Strand) (evs : Evs) : (st.raise evs).f = st.f := rfl
@[simp] theorem Strand.raise_v (st : Strand) (evs : Evs) : (st.raise evs).v = st.v := rfl
@[simp] theorem Strand.raise_m (st : Strand) (evs : Evs) : (st.raise evs).m = st.m := rfl
@[simp] theorem Strand.raise_p (st : Strand) (evs : Evs) : (st.raise evs).p = st.p := rfl
@[simp] theorem Strand.raise_b (st : Strand) (evs : Evs) : (st.raise evs).b = st.b := rfl
@[simp] theorem Strand.raise_alg (st : Strand) (evs : Evs) : (st.raise evs).alg = st.alg := rfl
@[simp] theorem Strand.raise_rstack (st : Strand) (evs : Evs) : (st.raise evs).rstack = st.rstack := rfl
@[simp] theorem Strand.raise_rdepth (st : Strand) (evs : Evs) : (st.raise evs).rdepth = st.rdepth := rfl
@[simp] theorem Strand.raise_spillRs (st : Strand) (evs : Evs) : (st.raise evs).spillRs = st.spillRs := rfl
@[simp] theorem Strand.raise_mstack (st : Strand) (evs : Evs) : (st.raise evs).mstack = st.mstack := rfl
@[simp] theorem Strand.raise_mdepth (st : Strand) (evs : Evs) : (st.raise evs).mdepth = st.mdepth := rfl
@[simp] theorem Strand.raise_spillMs (st : Strand) (evs : Evs) : (st.raise evs).spillMs = st.spillMs := rfl
@[simp] theorem Strand.raise_rbase (st : Strand) (evs : Evs) : (st.raise evs).rbase = st.rbase := rfl
@[simp] theorem Strand.raise_mbase (st : Strand) (evs : Evs) : (st.raise evs).mbase = st.mbase := rfl
@[simp] theorem Strand.raise_vtype (st : Strand) (evs : Evs) : (st.raise evs).vtype = st.vtype := rfl
@[simp] theorem Strand.raise_vl (st : Strand) (evs : Evs) : (st.raise evs).vl = st.vl := rfl
@[simp] theorem Strand.raise_mvl (st : Strand) (evs : Evs) : (st.raise evs).mvl = st.mvl := rfl
@[simp] theorem Strand.raise_esr (st : Strand) (evs : Evs) : (st.raise evs).esr = st.esr := rfl
@[simp] theorem Strand.raise_resume (st : Strand) (evs : Evs) : (st.raise evs).resume = st.resume := rfl
@[simp] theorem Strand.raise_tau (st : Strand) (evs : Evs) : (st.raise evs).tau = st.tau := rfl
@[simp] theorem Strand.raise_stripPrev (st : Strand) (evs : Evs) : (st.raise evs).stripPrev = st.stripPrev := rfl
@[simp] theorem Strand.raise_rngKey (st : Strand) (evs : Evs) : (st.raise evs).rngKey = st.rngKey := rfl
@[simp] theorem Strand.raise_rngCtr (st : Strand) (evs : Evs) : (st.raise evs).rngCtr = st.rngCtr := rfl
@[simp] theorem Strand.raise_vcount (st : Strand) (evs : Evs) : (st.raise evs).vcount = st.vcount := rfl
@[simp] theorem Strand.raise_bufFirst (st : Strand) (evs : Evs) : (st.raise evs).bufFirst = st.bufFirst := rfl
@[simp] theorem Strand.raise_bufGroups (st : Strand) (evs : Evs) : (st.raise evs).bufGroups = st.bufGroups := rfl
@[simp] theorem Strand.raise_share (st : Strand) (evs : Evs) : (st.raise evs).share = st.share := rfl
@[simp] theorem Strand.raise_codeb (st : Strand) (evs : Evs) : (st.raise evs).codeb = st.codeb := rfl
@[simp] theorem Strand.raise_lix (st : Strand) (evs : Evs) : (st.raise evs).lix = st.lix := rfl
@[simp] theorem Strand.raise_lext (st : Strand) (evs : Evs) : (st.raise evs).lext = st.lext := rfl
@[simp] theorem Strand.raise_llin (st : Strand) (evs : Evs) : (st.raise evs).llin = st.llin := rfl
@[simp] theorem Strand.raise_inMatrix (st : Strand) (evs : Evs) : (st.raise evs).inMatrix = st.inMatrix := rfl
@[simp] theorem Strand.raise_active (st : Strand) (evs : Evs) : (st.raise evs).active = st.active := rfl
@[simp] theorem Strand.raise_shadow (st : Strand) (evs : Evs) : (st.raise evs).shadow = st.shadow := rfl
@[simp] theorem Strand.raise_acc (st : Strand) (evs : Evs) : (st.raise evs).acc = st.acc := rfl
@[simp] theorem Strand.raise_commitAcc (st : Strand) (evs : Evs) : (st.raise evs).commitAcc = st.commitAcc := rfl
@[simp] theorem Strand.raise_commitActive (st : Strand) (evs : Evs) : (st.raise evs).commitActive = st.commitActive := rfl
@[simp] theorem Strand.raise_commitShadow (st : Strand) (evs : Evs) : (st.raise evs).commitShadow = st.commitShadow := rfl
@[simp] theorem Strand.raise_mqueue (st : Strand) (evs : Evs) : (st.raise evs).mqueue = st.mqueue := rfl
@[simp] theorem Strand.raise_bind (st : Strand) (evs : Evs) : (st.raise evs).bind = st.bind := rfl
@[simp] theorem Strand.raise_seq (st : Strand) (evs : Evs) : (st.raise evs).seq = st.seq := rfl
@[simp] theorem Strand.raise_latch (st : Strand) (evs : Evs) : (st.raise evs).latch = st.latch := rfl
@[simp] theorem Strand.raise_resv (st : Strand) (evs : Evs) : (st.raise evs).resv = st.resv := rfl
@[simp] theorem Strand.raise_stream (st : Strand) (evs : Evs) : (st.raise evs).stream = st.stream := rfl
@[simp] theorem Strand.raise_windows (st : Strand) (evs : Evs) : (st.raise evs).windows = st.windows := rfl
@[simp] theorem Strand.raise_cache (st : Strand) (evs : Evs) : (st.raise evs).cache = st.cache := rfl
@[simp] theorem Strand.raise_icache (st : Strand) (evs : Evs) : (st.raise evs).icache = st.icache := rfl
@[simp] theorem Strand.raise_newest (st : Strand) (evs : Evs) : (st.raise evs).newest = st.newest := rfl
@[simp] theorem Strand.raise_wps (st : Strand) (evs : Evs) : (st.raise evs).wps = st.wps := rfl
@[simp] theorem Strand.raise_pending (st : Strand) (evs : Evs) : (st.raise evs).pending = st.pending := rfl
@[simp] theorem Strand.raise_blocked (st : Strand) (evs : Evs) : (st.raise evs).blocked = st.blocked := rfl
@[simp] theorem Strand.raise_hold (st : Strand) (evs : Evs) : (st.raise evs).hold = st.hold := rfl
@[simp] theorem Strand.raise_awaiting (st : Strand) (evs : Evs) : (st.raise evs).awaiting = st.awaiting := rfl
@[simp] theorem Strand.raise_yieldFor (st : Strand) (evs : Evs) : (st.raise evs).yieldFor = st.yieldFor := rfl
@[simp] theorem Strand.raise_yieldLeft (st : Strand) (evs : Evs) : (st.raise evs).yieldLeft = st.yieldLeft := rfl
@[simp] theorem Strand.raise_stopAt (st : Strand) (evs : Evs) : (st.raise evs).stopAt = st.stopAt := rfl
@[simp] theorem Strand.raise_evSoFar (st : Strand) (evs : Evs) : (st.raise evs).evSoFar = st.evSoFar := rfl
@[simp] theorem Strand.raise_evFirst (st : Strand) (evs : Evs) : (st.raise evs).evFirst = st.evFirst := rfl
@[simp] theorem Strand.raise_handler (st : Strand) (evs : Evs) : (st.raise evs).handler = st.handler := rfl
@[simp] theorem Strand.raise_areas (st : Strand) (evs : Evs) : (st.raise evs).areas = st.areas := rfl
@[simp] theorem Strand.raise_blockedFor (st : Strand) (evs : Evs) : (st.raise evs).blockedFor = st.blockedFor := rfl
@[simp] theorem Strand.raise_ordTime (st : Strand) (evs : Evs) : (st.raise evs).ordTime = st.ordTime := rfl
@[simp] theorem Strand.raise_ordWait (st : Strand) (evs : Evs) : (st.raise evs).ordWait = st.ordWait := rfl
@[simp] theorem Strand.raise_ordRead (st : Strand) (evs : Evs) : (st.raise evs).ordRead = st.ordRead := rfl

/-! ### Strand.gather -/

@[simp] theorem Strand.gather_id (st : Strand) (evs : Evs) : (st.gather evs).id = st.id := rfl
@[simp] theorem Strand.gather_live (st : Strand) (evs : Evs) : (st.gather evs).live = st.live := rfl
@[simp] theorem Strand.gather_gang (st : Strand) (evs : Evs) : (st.gather evs).gang = st.gang := rfl
@[simp] theorem Strand.gather_ctx (st : Strand) (evs : Evs) : (st.gather evs).ctx = st.ctx := rfl
@[simp] theorem Strand.gather_core (st : Strand) (evs : Evs) : (st.gather evs).core = st.core := rfl
@[simp] theorem Strand.gather_place (st : Strand) (evs : Evs) : (st.gather evs).place = st.place := rfl
@[simp] theorem Strand.gather_obj (st : Strand) (evs : Evs) : (st.gather evs).obj = st.obj := rfl
@[simp] theorem Strand.gather_pc (st : Strand) (evs : Evs) : (st.gather evs).pc = st.pc := rfl
@[simp] theorem Strand.gather_prev (st : Strand) (evs : Evs) : (st.gather evs).prev = st.prev := rfl
@[simp] theorem Strand.gather_x (st : Strand) (evs : Evs) : (st.gather evs).x = st.x := rfl
@[simp] theorem Strand.gather_f (st : Strand) (evs : Evs) : (st.gather evs).f = st.f := rfl
@[simp] theorem Strand.gather_v (st : Strand) (evs : Evs) : (st.gather evs).v = st.v := rfl
@[simp] theorem Strand.gather_m (st : Strand) (evs : Evs) : (st.gather evs).m = st.m := rfl
@[simp] theorem Strand.gather_p (st : Strand) (evs : Evs) : (st.gather evs).p = st.p := rfl
@[simp] theorem Strand.gather_b (st : Strand) (evs : Evs) : (st.gather evs).b = st.b := rfl
@[simp] theorem Strand.gather_alg (st : Strand) (evs : Evs) : (st.gather evs).alg = st.alg := rfl
@[simp] theorem Strand.gather_rstack (st : Strand) (evs : Evs) : (st.gather evs).rstack = st.rstack := rfl
@[simp] theorem Strand.gather_rdepth (st : Strand) (evs : Evs) : (st.gather evs).rdepth = st.rdepth := rfl
@[simp] theorem Strand.gather_spillRs (st : Strand) (evs : Evs) : (st.gather evs).spillRs = st.spillRs := rfl
@[simp] theorem Strand.gather_mstack (st : Strand) (evs : Evs) : (st.gather evs).mstack = st.mstack := rfl
@[simp] theorem Strand.gather_mdepth (st : Strand) (evs : Evs) : (st.gather evs).mdepth = st.mdepth := rfl
@[simp] theorem Strand.gather_spillMs (st : Strand) (evs : Evs) : (st.gather evs).spillMs = st.spillMs := rfl
@[simp] theorem Strand.gather_rbase (st : Strand) (evs : Evs) : (st.gather evs).rbase = st.rbase := rfl
@[simp] theorem Strand.gather_mbase (st : Strand) (evs : Evs) : (st.gather evs).mbase = st.mbase := rfl
@[simp] theorem Strand.gather_vtype (st : Strand) (evs : Evs) : (st.gather evs).vtype = st.vtype := rfl
@[simp] theorem Strand.gather_vl (st : Strand) (evs : Evs) : (st.gather evs).vl = st.vl := rfl
@[simp] theorem Strand.gather_mvl (st : Strand) (evs : Evs) : (st.gather evs).mvl = st.mvl := rfl
@[simp] theorem Strand.gather_esr (st : Strand) (evs : Evs) : (st.gather evs).esr = st.esr := rfl
@[simp] theorem Strand.gather_resume (st : Strand) (evs : Evs) : (st.gather evs).resume = st.resume := rfl
@[simp] theorem Strand.gather_tau (st : Strand) (evs : Evs) : (st.gather evs).tau = st.tau := rfl
@[simp] theorem Strand.gather_fstat (st : Strand) (evs : Evs) : (st.gather evs).fstat = st.fstat := rfl
@[simp] theorem Strand.gather_fidx (st : Strand) (evs : Evs) : (st.gather evs).fidx = st.fidx := rfl
@[simp] theorem Strand.gather_stripPrev (st : Strand) (evs : Evs) : (st.gather evs).stripPrev = st.stripPrev := rfl
@[simp] theorem Strand.gather_rngKey (st : Strand) (evs : Evs) : (st.gather evs).rngKey = st.rngKey := rfl
@[simp] theorem Strand.gather_rngCtr (st : Strand) (evs : Evs) : (st.gather evs).rngCtr = st.rngCtr := rfl
@[simp] theorem Strand.gather_vcount (st : Strand) (evs : Evs) : (st.gather evs).vcount = st.vcount := rfl
@[simp] theorem Strand.gather_bufFirst (st : Strand) (evs : Evs) : (st.gather evs).bufFirst = st.bufFirst := rfl
@[simp] theorem Strand.gather_bufGroups (st : Strand) (evs : Evs) : (st.gather evs).bufGroups = st.bufGroups := rfl
@[simp] theorem Strand.gather_share (st : Strand) (evs : Evs) : (st.gather evs).share = st.share := rfl
@[simp] theorem Strand.gather_codeb (st : Strand) (evs : Evs) : (st.gather evs).codeb = st.codeb := rfl
@[simp] theorem Strand.gather_lix (st : Strand) (evs : Evs) : (st.gather evs).lix = st.lix := rfl
@[simp] theorem Strand.gather_lext (st : Strand) (evs : Evs) : (st.gather evs).lext = st.lext := rfl
@[simp] theorem Strand.gather_llin (st : Strand) (evs : Evs) : (st.gather evs).llin = st.llin := rfl
@[simp] theorem Strand.gather_inMatrix (st : Strand) (evs : Evs) : (st.gather evs).inMatrix = st.inMatrix := rfl
@[simp] theorem Strand.gather_active (st : Strand) (evs : Evs) : (st.gather evs).active = st.active := rfl
@[simp] theorem Strand.gather_shadow (st : Strand) (evs : Evs) : (st.gather evs).shadow = st.shadow := rfl
@[simp] theorem Strand.gather_acc (st : Strand) (evs : Evs) : (st.gather evs).acc = st.acc := rfl
@[simp] theorem Strand.gather_commitAcc (st : Strand) (evs : Evs) : (st.gather evs).commitAcc = st.commitAcc := rfl
@[simp] theorem Strand.gather_commitActive (st : Strand) (evs : Evs) : (st.gather evs).commitActive = st.commitActive := rfl
@[simp] theorem Strand.gather_commitShadow (st : Strand) (evs : Evs) : (st.gather evs).commitShadow = st.commitShadow := rfl
@[simp] theorem Strand.gather_mqueue (st : Strand) (evs : Evs) : (st.gather evs).mqueue = st.mqueue := rfl
@[simp] theorem Strand.gather_bind (st : Strand) (evs : Evs) : (st.gather evs).bind = st.bind := rfl
@[simp] theorem Strand.gather_seq (st : Strand) (evs : Evs) : (st.gather evs).seq = st.seq := rfl
@[simp] theorem Strand.gather_fidxSeq (st : Strand) (evs : Evs) : (st.gather evs).fidxSeq = st.fidxSeq := rfl
@[simp] theorem Strand.gather_latch (st : Strand) (evs : Evs) : (st.gather evs).latch = st.latch := rfl
@[simp] theorem Strand.gather_resv (st : Strand) (evs : Evs) : (st.gather evs).resv = st.resv := rfl
@[simp] theorem Strand.gather_stream (st : Strand) (evs : Evs) : (st.gather evs).stream = st.stream := rfl
@[simp] theorem Strand.gather_windows (st : Strand) (evs : Evs) : (st.gather evs).windows = st.windows := rfl
@[simp] theorem Strand.gather_cache (st : Strand) (evs : Evs) : (st.gather evs).cache = st.cache := rfl
@[simp] theorem Strand.gather_icache (st : Strand) (evs : Evs) : (st.gather evs).icache = st.icache := rfl
@[simp] theorem Strand.gather_newest (st : Strand) (evs : Evs) : (st.gather evs).newest = st.newest := rfl
@[simp] theorem Strand.gather_wps (st : Strand) (evs : Evs) : (st.gather evs).wps = st.wps := rfl
@[simp] theorem Strand.gather_pending (st : Strand) (evs : Evs) : (st.gather evs).pending = st.pending := rfl
@[simp] theorem Strand.gather_blocked (st : Strand) (evs : Evs) : (st.gather evs).blocked = st.blocked := rfl
@[simp] theorem Strand.gather_hold (st : Strand) (evs : Evs) : (st.gather evs).hold = st.hold := rfl
@[simp] theorem Strand.gather_awaiting (st : Strand) (evs : Evs) : (st.gather evs).awaiting = st.awaiting := rfl
@[simp] theorem Strand.gather_yieldFor (st : Strand) (evs : Evs) : (st.gather evs).yieldFor = st.yieldFor := rfl
@[simp] theorem Strand.gather_yieldLeft (st : Strand) (evs : Evs) : (st.gather evs).yieldLeft = st.yieldLeft := rfl
@[simp] theorem Strand.gather_stopAt (st : Strand) (evs : Evs) : (st.gather evs).stopAt = st.stopAt := rfl
@[simp] theorem Strand.gather_handler (st : Strand) (evs : Evs) : (st.gather evs).handler = st.handler := rfl
@[simp] theorem Strand.gather_areas (st : Strand) (evs : Evs) : (st.gather evs).areas = st.areas := rfl
@[simp] theorem Strand.gather_blockedFor (st : Strand) (evs : Evs) : (st.gather evs).blockedFor = st.blockedFor := rfl
@[simp] theorem Strand.gather_ordTime (st : Strand) (evs : Evs) : (st.gather evs).ordTime = st.ordTime := rfl
@[simp] theorem Strand.gather_ordWait (st : Strand) (evs : Evs) : (st.gather evs).ordWait = st.ordWait := rfl
@[simp] theorem Strand.gather_ordRead (st : Strand) (evs : Evs) : (st.gather evs).ordRead = st.ordRead := rfl

/-! ### Strand.advance -/

@[simp] theorem Strand.advance_id (st : Strand) (r : Rnd) (n : Nat) : (st.advance r n).id = st.id := by unfold Strand.advance; split <;> rfl
@[simp] theorem Strand.advance_live (st : Strand) (r : Rnd) (n : Nat) : (st.advance r n).live = st.live := by unfold Strand.advance; split <;> rfl
@[simp] theorem Strand.advance_gang (st : Strand) (r : Rnd) (n : Nat) : (st.advance r n).gang = st.gang := by unfold Strand.advance; split <;> rfl
@[simp] theorem Strand.advance_ctx (st : Strand) (r : Rnd) (n : Nat) : (st.advance r n).ctx = st.ctx := by unfold Strand.advance; split <;> rfl
@[simp] theorem Strand.advance_core (st : Strand) (r : Rnd) (n : Nat) : (st.advance r n).core = st.core := by unfold Strand.advance; split <;> rfl
@[simp] theorem Strand.advance_place (st : Strand) (r : Rnd) (n : Nat) : (st.advance r n).place = st.place := by unfold Strand.advance; split <;> rfl
@[simp] theorem Strand.advance_obj (st : Strand) (r : Rnd) (n : Nat) : (st.advance r n).obj = st.obj := by unfold Strand.advance; split <;> rfl
@[simp] theorem Strand.advance_pc (st : Strand) (r : Rnd) (n : Nat) : (st.advance r n).pc = st.pc := by unfold Strand.advance; split <;> rfl
@[simp] theorem Strand.advance_prev (st : Strand) (r : Rnd) (n : Nat) : (st.advance r n).prev = st.prev := by unfold Strand.advance; split <;> rfl
@[simp] theorem Strand.advance_x (st : Strand) (r : Rnd) (n : Nat) : (st.advance r n).x = st.x := by unfold Strand.advance; split <;> rfl
@[simp] theorem Strand.advance_f (st : Strand) (r : Rnd) (n : Nat) : (st.advance r n).f = st.f := by unfold Strand.advance; split <;> rfl
@[simp] theorem Strand.advance_v (st : Strand) (r : Rnd) (n : Nat) : (st.advance r n).v = st.v := by unfold Strand.advance; split <;> rfl
@[simp] theorem Strand.advance_m (st : Strand) (r : Rnd) (n : Nat) : (st.advance r n).m = st.m := by unfold Strand.advance; split <;> rfl
@[simp] theorem Strand.advance_p (st : Strand) (r : Rnd) (n : Nat) : (st.advance r n).p = st.p := by unfold Strand.advance; split <;> rfl
@[simp] theorem Strand.advance_b (st : Strand) (r : Rnd) (n : Nat) : (st.advance r n).b = st.b := by unfold Strand.advance; split <;> rfl
@[simp] theorem Strand.advance_alg (st : Strand) (r : Rnd) (n : Nat) : (st.advance r n).alg = st.alg := by unfold Strand.advance; split <;> rfl
@[simp] theorem Strand.advance_rstack (st : Strand) (r : Rnd) (n : Nat) : (st.advance r n).rstack = st.rstack := by unfold Strand.advance; split <;> rfl
@[simp] theorem Strand.advance_rdepth (st : Strand) (r : Rnd) (n : Nat) : (st.advance r n).rdepth = st.rdepth := by unfold Strand.advance; split <;> rfl
@[simp] theorem Strand.advance_spillRs (st : Strand) (r : Rnd) (n : Nat) : (st.advance r n).spillRs = st.spillRs := by unfold Strand.advance; split <;> rfl
@[simp] theorem Strand.advance_mstack (st : Strand) (r : Rnd) (n : Nat) : (st.advance r n).mstack = st.mstack := by unfold Strand.advance; split <;> rfl
@[simp] theorem Strand.advance_mdepth (st : Strand) (r : Rnd) (n : Nat) : (st.advance r n).mdepth = st.mdepth := by unfold Strand.advance; split <;> rfl
@[simp] theorem Strand.advance_spillMs (st : Strand) (r : Rnd) (n : Nat) : (st.advance r n).spillMs = st.spillMs := by unfold Strand.advance; split <;> rfl
@[simp] theorem Strand.advance_rbase (st : Strand) (r : Rnd) (n : Nat) : (st.advance r n).rbase = st.rbase := by unfold Strand.advance; split <;> rfl
@[simp] theorem Strand.advance_mbase (st : Strand) (r : Rnd) (n : Nat) : (st.advance r n).mbase = st.mbase := by unfold Strand.advance; split <;> rfl
@[simp] theorem Strand.advance_vtype (st : Strand) (r : Rnd) (n : Nat) : (st.advance r n).vtype = st.vtype := by unfold Strand.advance; split <;> rfl
@[simp] theorem Strand.advance_vl (st : Strand) (r : Rnd) (n : Nat) : (st.advance r n).vl = st.vl := by unfold Strand.advance; split <;> rfl
@[simp] theorem Strand.advance_mvl (st : Strand) (r : Rnd) (n : Nat) : (st.advance r n).mvl = st.mvl := by unfold Strand.advance; split <;> rfl
@[simp] theorem Strand.advance_esr (st : Strand) (r : Rnd) (n : Nat) : (st.advance r n).esr = st.esr := by unfold Strand.advance; split <;> rfl
@[simp] theorem Strand.advance_resume (st : Strand) (r : Rnd) (n : Nat) : (st.advance r n).resume = st.resume := by unfold Strand.advance; split <;> rfl
@[simp] theorem Strand.advance_tau (st : Strand) (r : Rnd) (n : Nat) : (st.advance r n).tau = st.tau := by unfold Strand.advance; split <;> rfl
@[simp] theorem Strand.advance_fstat (st : Strand) (r : Rnd) (n : Nat) : (st.advance r n).fstat = st.fstat := by unfold Strand.advance; split <;> rfl
@[simp] theorem Strand.advance_fidx (st : Strand) (r : Rnd) (n : Nat) : (st.advance r n).fidx = st.fidx := by unfold Strand.advance; split <;> rfl
@[simp] theorem Strand.advance_stripPrev (st : Strand) (r : Rnd) (n : Nat) : (st.advance r n).stripPrev = st.stripPrev := by unfold Strand.advance; split <;> rfl
@[simp] theorem Strand.advance_rngKey (st : Strand) (r : Rnd) (n : Nat) : (st.advance r n).rngKey = st.rngKey := by unfold Strand.advance; split <;> rfl
@[simp] theorem Strand.advance_vcount (st : Strand) (r : Rnd) (n : Nat) : (st.advance r n).vcount = st.vcount := by unfold Strand.advance; split <;> rfl
@[simp] theorem Strand.advance_bufFirst (st : Strand) (r : Rnd) (n : Nat) : (st.advance r n).bufFirst = st.bufFirst := by unfold Strand.advance; split <;> rfl
@[simp] theorem Strand.advance_bufGroups (st : Strand) (r : Rnd) (n : Nat) : (st.advance r n).bufGroups = st.bufGroups := by unfold Strand.advance; split <;> rfl
@[simp] theorem Strand.advance_share (st : Strand) (r : Rnd) (n : Nat) : (st.advance r n).share = st.share := by unfold Strand.advance; split <;> rfl
@[simp] theorem Strand.advance_codeb (st : Strand) (r : Rnd) (n : Nat) : (st.advance r n).codeb = st.codeb := by unfold Strand.advance; split <;> rfl
@[simp] theorem Strand.advance_lix (st : Strand) (r : Rnd) (n : Nat) : (st.advance r n).lix = st.lix := by unfold Strand.advance; split <;> rfl
@[simp] theorem Strand.advance_lext (st : Strand) (r : Rnd) (n : Nat) : (st.advance r n).lext = st.lext := by unfold Strand.advance; split <;> rfl
@[simp] theorem Strand.advance_llin (st : Strand) (r : Rnd) (n : Nat) : (st.advance r n).llin = st.llin := by unfold Strand.advance; split <;> rfl
@[simp] theorem Strand.advance_inMatrix (st : Strand) (r : Rnd) (n : Nat) : (st.advance r n).inMatrix = st.inMatrix := by unfold Strand.advance; split <;> rfl
@[simp] theorem Strand.advance_active (st : Strand) (r : Rnd) (n : Nat) : (st.advance r n).active = st.active := by unfold Strand.advance; split <;> rfl
@[simp] theorem Strand.advance_shadow (st : Strand) (r : Rnd) (n : Nat) : (st.advance r n).shadow = st.shadow := by unfold Strand.advance; split <;> rfl
@[simp] theorem Strand.advance_acc (st : Strand) (r : Rnd) (n : Nat) : (st.advance r n).acc = st.acc := by unfold Strand.advance; split <;> rfl
@[simp] theorem Strand.advance_commitAcc (st : Strand) (r : Rnd) (n : Nat) : (st.advance r n).commitAcc = st.commitAcc := by unfold Strand.advance; split <;> rfl
@[simp] theorem Strand.advance_commitActive (st : Strand) (r : Rnd) (n : Nat) : (st.advance r n).commitActive = st.commitActive := by unfold Strand.advance; split <;> rfl
@[simp] theorem Strand.advance_commitShadow (st : Strand) (r : Rnd) (n : Nat) : (st.advance r n).commitShadow = st.commitShadow := by unfold Strand.advance; split <;> rfl
@[simp] theorem Strand.advance_mqueue (st : Strand) (r : Rnd) (n : Nat) : (st.advance r n).mqueue = st.mqueue := by unfold Strand.advance; split <;> rfl
@[simp] theorem Strand.advance_bind (st : Strand) (r : Rnd) (n : Nat) : (st.advance r n).bind = st.bind := by unfold Strand.advance; split <;> rfl
@[simp] theorem Strand.advance_seq (st : Strand) (r : Rnd) (n : Nat) : (st.advance r n).seq = st.seq := by unfold Strand.advance; split <;> rfl
@[simp] theorem Strand.advance_fidxSeq (st : Strand) (r : Rnd) (n : Nat) : (st.advance r n).fidxSeq = st.fidxSeq := by unfold Strand.advance; split <;> rfl
@[simp] theorem Strand.advance_latch (st : Strand) (r : Rnd) (n : Nat) : (st.advance r n).latch = st.latch := by unfold Strand.advance; split <;> rfl
@[simp] theorem Strand.advance_resv (st : Strand) (r : Rnd) (n : Nat) : (st.advance r n).resv = st.resv := by unfold Strand.advance; split <;> rfl
@[simp] theorem Strand.advance_stream (st : Strand) (r : Rnd) (n : Nat) : (st.advance r n).stream = st.stream := by unfold Strand.advance; split <;> rfl
@[simp] theorem Strand.advance_windows (st : Strand) (r : Rnd) (n : Nat) : (st.advance r n).windows = st.windows := by unfold Strand.advance; split <;> rfl
@[simp] theorem Strand.advance_cache (st : Strand) (r : Rnd) (n : Nat) : (st.advance r n).cache = st.cache := by unfold Strand.advance; split <;> rfl
@[simp] theorem Strand.advance_icache (st : Strand) (r : Rnd) (n : Nat) : (st.advance r n).icache = st.icache := by unfold Strand.advance; split <;> rfl
@[simp] theorem Strand.advance_newest (st : Strand) (r : Rnd) (n : Nat) : (st.advance r n).newest = st.newest := by unfold Strand.advance; split <;> rfl
@[simp] theorem Strand.advance_wps (st : Strand) (r : Rnd) (n : Nat) : (st.advance r n).wps = st.wps := by unfold Strand.advance; split <;> rfl
@[simp] theorem Strand.advance_pending (st : Strand) (r : Rnd) (n : Nat) : (st.advance r n).pending = st.pending := by unfold Strand.advance; split <;> rfl
@[simp] theorem Strand.advance_blocked (st : Strand) (r : Rnd) (n : Nat) : (st.advance r n).blocked = st.blocked := by unfold Strand.advance; split <;> rfl
@[simp] theorem Strand.advance_hold (st : Strand) (r : Rnd) (n : Nat) : (st.advance r n).hold = st.hold := by unfold Strand.advance; split <;> rfl
@[simp] theorem Strand.advance_awaiting (st : Strand) (r : Rnd) (n : Nat) : (st.advance r n).awaiting = st.awaiting := by unfold Strand.advance; split <;> rfl
@[simp] theorem Strand.advance_yieldFor (st : Strand) (r : Rnd) (n : Nat) : (st.advance r n).yieldFor = st.yieldFor := by unfold Strand.advance; split <;> rfl
@[simp] theorem Strand.advance_yieldLeft (st : Strand) (r : Rnd) (n : Nat) : (st.advance r n).yieldLeft = st.yieldLeft := by unfold Strand.advance; split <;> rfl
@[simp] theorem Strand.advance_stopAt (st : Strand) (r : Rnd) (n : Nat) : (st.advance r n).stopAt = st.stopAt := by unfold Strand.advance; split <;> rfl
@[simp] theorem Strand.advance_evSoFar (st : Strand) (r : Rnd) (n : Nat) : (st.advance r n).evSoFar = st.evSoFar := by unfold Strand.advance; split <;> rfl
@[simp] theorem Strand.advance_evFirst (st : Strand) (r : Rnd) (n : Nat) : (st.advance r n).evFirst = st.evFirst := by unfold Strand.advance; split <;> rfl
@[simp] theorem Strand.advance_handler (st : Strand) (r : Rnd) (n : Nat) : (st.advance r n).handler = st.handler := by unfold Strand.advance; split <;> rfl
@[simp] theorem Strand.advance_areas (st : Strand) (r : Rnd) (n : Nat) : (st.advance r n).areas = st.areas := by unfold Strand.advance; split <;> rfl
@[simp] theorem Strand.advance_blockedFor (st : Strand) (r : Rnd) (n : Nat) : (st.advance r n).blockedFor = st.blockedFor := by unfold Strand.advance; split <;> rfl
@[simp] theorem Strand.advance_ordTime (st : Strand) (r : Rnd) (n : Nat) : (st.advance r n).ordTime = st.ordTime := by unfold Strand.advance; split <;> rfl
@[simp] theorem Strand.advance_ordWait (st : Strand) (r : Rnd) (n : Nat) : (st.advance r n).ordWait = st.ordWait := by unfold Strand.advance; split <;> rfl
@[simp] theorem Strand.advance_ordRead (st : Strand) (r : Rnd) (n : Nat) : (st.advance r n).ordRead = st.ordRead := by unfold Strand.advance; split <;> rfl

/-! ### Strand.seeWrite -/

@[simp] theorem Strand.seeWrite_id (st : Strand) (locs : List Nat) : (Strand.seeWrite locs st).id = st.id := rfl
@[simp] theorem Strand.seeWrite_live (st : Strand) (locs : List Nat) : (Strand.seeWrite locs st).live = st.live := rfl
@[simp] theorem Strand.seeWrite_gang (st : Strand) (locs : List Nat) : (Strand.seeWrite locs st).gang = st.gang := rfl
@[simp] theorem Strand.seeWrite_ctx (st : Strand) (locs : List Nat) : (Strand.seeWrite locs st).ctx = st.ctx := rfl
@[simp] theorem Strand.seeWrite_core (st : Strand) (locs : List Nat) : (Strand.seeWrite locs st).core = st.core := rfl
@[simp] theorem Strand.seeWrite_place (st : Strand) (locs : List Nat) : (Strand.seeWrite locs st).place = st.place := rfl
@[simp] theorem Strand.seeWrite_obj (st : Strand) (locs : List Nat) : (Strand.seeWrite locs st).obj = st.obj := rfl
@[simp] theorem Strand.seeWrite_pc (st : Strand) (locs : List Nat) : (Strand.seeWrite locs st).pc = st.pc := rfl
@[simp] theorem Strand.seeWrite_prev (st : Strand) (locs : List Nat) : (Strand.seeWrite locs st).prev = st.prev := rfl
@[simp] theorem Strand.seeWrite_x (st : Strand) (locs : List Nat) : (Strand.seeWrite locs st).x = st.x := rfl
@[simp] theorem Strand.seeWrite_f (st : Strand) (locs : List Nat) : (Strand.seeWrite locs st).f = st.f := rfl
@[simp] theorem Strand.seeWrite_v (st : Strand) (locs : List Nat) : (Strand.seeWrite locs st).v = st.v := rfl
@[simp] theorem Strand.seeWrite_m (st : Strand) (locs : List Nat) : (Strand.seeWrite locs st).m = st.m := rfl
@[simp] theorem Strand.seeWrite_p (st : Strand) (locs : List Nat) : (Strand.seeWrite locs st).p = st.p := rfl
@[simp] theorem Strand.seeWrite_b (st : Strand) (locs : List Nat) : (Strand.seeWrite locs st).b = st.b := rfl
@[simp] theorem Strand.seeWrite_alg (st : Strand) (locs : List Nat) : (Strand.seeWrite locs st).alg = st.alg := rfl
@[simp] theorem Strand.seeWrite_rstack (st : Strand) (locs : List Nat) : (Strand.seeWrite locs st).rstack = st.rstack := rfl
@[simp] theorem Strand.seeWrite_rdepth (st : Strand) (locs : List Nat) : (Strand.seeWrite locs st).rdepth = st.rdepth := rfl
@[simp] theorem Strand.seeWrite_spillRs (st : Strand) (locs : List Nat) : (Strand.seeWrite locs st).spillRs = st.spillRs := rfl
@[simp] theorem Strand.seeWrite_mstack (st : Strand) (locs : List Nat) : (Strand.seeWrite locs st).mstack = st.mstack := rfl
@[simp] theorem Strand.seeWrite_mdepth (st : Strand) (locs : List Nat) : (Strand.seeWrite locs st).mdepth = st.mdepth := rfl
@[simp] theorem Strand.seeWrite_spillMs (st : Strand) (locs : List Nat) : (Strand.seeWrite locs st).spillMs = st.spillMs := rfl
@[simp] theorem Strand.seeWrite_rbase (st : Strand) (locs : List Nat) : (Strand.seeWrite locs st).rbase = st.rbase := rfl
@[simp] theorem Strand.seeWrite_mbase (st : Strand) (locs : List Nat) : (Strand.seeWrite locs st).mbase = st.mbase := rfl
@[simp] theorem Strand.seeWrite_vtype (st : Strand) (locs : List Nat) : (Strand.seeWrite locs st).vtype = st.vtype := rfl
@[simp] theorem Strand.seeWrite_vl (st : Strand) (locs : List Nat) : (Strand.seeWrite locs st).vl = st.vl := rfl
@[simp] theorem Strand.seeWrite_mvl (st : Strand) (locs : List Nat) : (Strand.seeWrite locs st).mvl = st.mvl := rfl
@[simp] theorem Strand.seeWrite_esr (st : Strand) (locs : List Nat) : (Strand.seeWrite locs st).esr = st.esr := rfl
@[simp] theorem Strand.seeWrite_resume (st : Strand) (locs : List Nat) : (Strand.seeWrite locs st).resume = st.resume := rfl
@[simp] theorem Strand.seeWrite_tau (st : Strand) (locs : List Nat) : (Strand.seeWrite locs st).tau = st.tau := rfl
@[simp] theorem Strand.seeWrite_fstat (st : Strand) (locs : List Nat) : (Strand.seeWrite locs st).fstat = st.fstat := rfl
@[simp] theorem Strand.seeWrite_fidx (st : Strand) (locs : List Nat) : (Strand.seeWrite locs st).fidx = st.fidx := rfl
@[simp] theorem Strand.seeWrite_stripPrev (st : Strand) (locs : List Nat) : (Strand.seeWrite locs st).stripPrev = st.stripPrev := rfl
@[simp] theorem Strand.seeWrite_rngKey (st : Strand) (locs : List Nat) : (Strand.seeWrite locs st).rngKey = st.rngKey := rfl
@[simp] theorem Strand.seeWrite_rngCtr (st : Strand) (locs : List Nat) : (Strand.seeWrite locs st).rngCtr = st.rngCtr := rfl
@[simp] theorem Strand.seeWrite_vcount (st : Strand) (locs : List Nat) : (Strand.seeWrite locs st).vcount = st.vcount := rfl
@[simp] theorem Strand.seeWrite_bufFirst (st : Strand) (locs : List Nat) : (Strand.seeWrite locs st).bufFirst = st.bufFirst := rfl
@[simp] theorem Strand.seeWrite_bufGroups (st : Strand) (locs : List Nat) : (Strand.seeWrite locs st).bufGroups = st.bufGroups := rfl
@[simp] theorem Strand.seeWrite_share (st : Strand) (locs : List Nat) : (Strand.seeWrite locs st).share = st.share := rfl
@[simp] theorem Strand.seeWrite_codeb (st : Strand) (locs : List Nat) : (Strand.seeWrite locs st).codeb = st.codeb := rfl
@[simp] theorem Strand.seeWrite_lix (st : Strand) (locs : List Nat) : (Strand.seeWrite locs st).lix = st.lix := rfl
@[simp] theorem Strand.seeWrite_lext (st : Strand) (locs : List Nat) : (Strand.seeWrite locs st).lext = st.lext := rfl
@[simp] theorem Strand.seeWrite_llin (st : Strand) (locs : List Nat) : (Strand.seeWrite locs st).llin = st.llin := rfl
@[simp] theorem Strand.seeWrite_inMatrix (st : Strand) (locs : List Nat) : (Strand.seeWrite locs st).inMatrix = st.inMatrix := rfl
@[simp] theorem Strand.seeWrite_active (st : Strand) (locs : List Nat) : (Strand.seeWrite locs st).active = st.active := rfl
@[simp] theorem Strand.seeWrite_shadow (st : Strand) (locs : List Nat) : (Strand.seeWrite locs st).shadow = st.shadow := rfl
@[simp] theorem Strand.seeWrite_acc (st : Strand) (locs : List Nat) : (Strand.seeWrite locs st).acc = st.acc := rfl
@[simp] theorem Strand.seeWrite_commitAcc (st : Strand) (locs : List Nat) : (Strand.seeWrite locs st).commitAcc = st.commitAcc := rfl
@[simp] theorem Strand.seeWrite_commitActive (st : Strand) (locs : List Nat) : (Strand.seeWrite locs st).commitActive = st.commitActive := rfl
@[simp] theorem Strand.seeWrite_commitShadow (st : Strand) (locs : List Nat) : (Strand.seeWrite locs st).commitShadow = st.commitShadow := rfl
@[simp] theorem Strand.seeWrite_mqueue (st : Strand) (locs : List Nat) : (Strand.seeWrite locs st).mqueue = st.mqueue := rfl
@[simp] theorem Strand.seeWrite_bind (st : Strand) (locs : List Nat) : (Strand.seeWrite locs st).bind = st.bind := rfl
@[simp] theorem Strand.seeWrite_seq (st : Strand) (locs : List Nat) : (Strand.seeWrite locs st).seq = st.seq := rfl
@[simp] theorem Strand.seeWrite_fidxSeq (st : Strand) (locs : List Nat) : (Strand.seeWrite locs st).fidxSeq = st.fidxSeq := rfl
@[simp] theorem Strand.seeWrite_latch (st : Strand) (locs : List Nat) : (Strand.seeWrite locs st).latch = st.latch := rfl
@[simp] theorem Strand.seeWrite_stream (st : Strand) (locs : List Nat) : (Strand.seeWrite locs st).stream = st.stream := rfl
@[simp] theorem Strand.seeWrite_windows (st : Strand) (locs : List Nat) : (Strand.seeWrite locs st).windows = st.windows := rfl
@[simp] theorem Strand.seeWrite_cache (st : Strand) (locs : List Nat) : (Strand.seeWrite locs st).cache = st.cache := rfl
@[simp] theorem Strand.seeWrite_icache (st : Strand) (locs : List Nat) : (Strand.seeWrite locs st).icache = st.icache := rfl
@[simp] theorem Strand.seeWrite_newest (st : Strand) (locs : List Nat) : (Strand.seeWrite locs st).newest = st.newest := rfl
@[simp] theorem Strand.seeWrite_wps (st : Strand) (locs : List Nat) : (Strand.seeWrite locs st).wps = st.wps := rfl
@[simp] theorem Strand.seeWrite_pending (st : Strand) (locs : List Nat) : (Strand.seeWrite locs st).pending = st.pending := rfl
@[simp] theorem Strand.seeWrite_blocked (st : Strand) (locs : List Nat) : (Strand.seeWrite locs st).blocked = st.blocked := rfl
@[simp] theorem Strand.seeWrite_hold (st : Strand) (locs : List Nat) : (Strand.seeWrite locs st).hold = st.hold := rfl
@[simp] theorem Strand.seeWrite_awaiting (st : Strand) (locs : List Nat) : (Strand.seeWrite locs st).awaiting = st.awaiting := rfl
@[simp] theorem Strand.seeWrite_yieldFor (st : Strand) (locs : List Nat) : (Strand.seeWrite locs st).yieldFor = st.yieldFor := rfl
@[simp] theorem Strand.seeWrite_yieldLeft (st : Strand) (locs : List Nat) : (Strand.seeWrite locs st).yieldLeft = st.yieldLeft := rfl
@[simp] theorem Strand.seeWrite_stopAt (st : Strand) (locs : List Nat) : (Strand.seeWrite locs st).stopAt = st.stopAt := rfl
@[simp] theorem Strand.seeWrite_evSoFar (st : Strand) (locs : List Nat) : (Strand.seeWrite locs st).evSoFar = st.evSoFar := rfl
@[simp] theorem Strand.seeWrite_evFirst (st : Strand) (locs : List Nat) : (Strand.seeWrite locs st).evFirst = st.evFirst := rfl
@[simp] theorem Strand.seeWrite_handler (st : Strand) (locs : List Nat) : (Strand.seeWrite locs st).handler = st.handler := rfl
@[simp] theorem Strand.seeWrite_areas (st : Strand) (locs : List Nat) : (Strand.seeWrite locs st).areas = st.areas := rfl
@[simp] theorem Strand.seeWrite_blockedFor (st : Strand) (locs : List Nat) : (Strand.seeWrite locs st).blockedFor = st.blockedFor := rfl
@[simp] theorem Strand.seeWrite_ordTime (st : Strand) (locs : List Nat) : (Strand.seeWrite locs st).ordTime = st.ordTime := rfl
@[simp] theorem Strand.seeWrite_ordWait (st : Strand) (locs : List Nat) : (Strand.seeWrite locs st).ordWait = st.ordWait := rfl
@[simp] theorem Strand.seeWrite_ordRead (st : Strand) (locs : List Nat) : (Strand.seeWrite locs st).ordRead = st.ordRead := rfl

/-! ### Strand.staleAll -/

@[simp] theorem Strand.staleAll_id (st : Strand) : (st.staleAll).id = st.id := rfl
@[simp] theorem Strand.staleAll_live (st : Strand) : (st.staleAll).live = st.live := rfl
@[simp] theorem Strand.staleAll_gang (st : Strand) : (st.staleAll).gang = st.gang := rfl
@[simp] theorem Strand.staleAll_ctx (st : Strand) : (st.staleAll).ctx = st.ctx := rfl
@[simp] theorem Strand.staleAll_core (st : Strand) : (st.staleAll).core = st.core := rfl
@[simp] theorem Strand.staleAll_place (st : Strand) : (st.staleAll).place = st.place := rfl
@[simp] theorem Strand.staleAll_obj (st : Strand) : (st.staleAll).obj = st.obj := rfl
@[simp] theorem Strand.staleAll_pc (st : Strand) : (st.staleAll).pc = st.pc := rfl
@[simp] theorem Strand.staleAll_prev (st : Strand) : (st.staleAll).prev = st.prev := rfl
@[simp] theorem Strand.staleAll_x (st : Strand) : (st.staleAll).x = st.x := rfl
@[simp] theorem Strand.staleAll_f (st : Strand) : (st.staleAll).f = st.f := rfl
@[simp] theorem Strand.staleAll_v (st : Strand) : (st.staleAll).v = st.v := rfl
@[simp] theorem Strand.staleAll_m (st : Strand) : (st.staleAll).m = st.m := rfl
@[simp] theorem Strand.staleAll_p (st : Strand) : (st.staleAll).p = st.p := rfl
@[simp] theorem Strand.staleAll_b (st : Strand) : (st.staleAll).b = st.b := rfl
@[simp] theorem Strand.staleAll_alg (st : Strand) : (st.staleAll).alg = st.alg := rfl
@[simp] theorem Strand.staleAll_rstack (st : Strand) : (st.staleAll).rstack = st.rstack := rfl
@[simp] theorem Strand.staleAll_rdepth (st : Strand) : (st.staleAll).rdepth = st.rdepth := rfl
@[simp] theorem Strand.staleAll_spillRs (st : Strand) : (st.staleAll).spillRs = st.spillRs := rfl
@[simp] theorem Strand.staleAll_mstack (st : Strand) : (st.staleAll).mstack = st.mstack := rfl
@[simp] theorem Strand.staleAll_mdepth (st : Strand) : (st.staleAll).mdepth = st.mdepth := rfl
@[simp] theorem Strand.staleAll_spillMs (st : Strand) : (st.staleAll).spillMs = st.spillMs := rfl
@[simp] theorem Strand.staleAll_rbase (st : Strand) : (st.staleAll).rbase = st.rbase := rfl
@[simp] theorem Strand.staleAll_mbase (st : Strand) : (st.staleAll).mbase = st.mbase := rfl
@[simp] theorem Strand.staleAll_vtype (st : Strand) : (st.staleAll).vtype = st.vtype := rfl
@[simp] theorem Strand.staleAll_vl (st : Strand) : (st.staleAll).vl = st.vl := rfl
@[simp] theorem Strand.staleAll_mvl (st : Strand) : (st.staleAll).mvl = st.mvl := rfl
@[simp] theorem Strand.staleAll_esr (st : Strand) : (st.staleAll).esr = st.esr := rfl
@[simp] theorem Strand.staleAll_resume (st : Strand) : (st.staleAll).resume = st.resume := rfl
@[simp] theorem Strand.staleAll_tau (st : Strand) : (st.staleAll).tau = st.tau := rfl
@[simp] theorem Strand.staleAll_fstat (st : Strand) : (st.staleAll).fstat = st.fstat := rfl
@[simp] theorem Strand.staleAll_fidx (st : Strand) : (st.staleAll).fidx = st.fidx := rfl
@[simp] theorem Strand.staleAll_stripPrev (st : Strand) : (st.staleAll).stripPrev = st.stripPrev := rfl
@[simp] theorem Strand.staleAll_rngKey (st : Strand) : (st.staleAll).rngKey = st.rngKey := rfl
@[simp] theorem Strand.staleAll_rngCtr (st : Strand) : (st.staleAll).rngCtr = st.rngCtr := rfl
@[simp] theorem Strand.staleAll_vcount (st : Strand) : (st.staleAll).vcount = st.vcount := rfl
@[simp] theorem Strand.staleAll_bufFirst (st : Strand) : (st.staleAll).bufFirst = st.bufFirst := rfl
@[simp] theorem Strand.staleAll_bufGroups (st : Strand) : (st.staleAll).bufGroups = st.bufGroups := rfl
@[simp] theorem Strand.staleAll_share (st : Strand) : (st.staleAll).share = st.share := rfl
@[simp] theorem Strand.staleAll_codeb (st : Strand) : (st.staleAll).codeb = st.codeb := rfl
@[simp] theorem Strand.staleAll_lix (st : Strand) : (st.staleAll).lix = st.lix := rfl
@[simp] theorem Strand.staleAll_lext (st : Strand) : (st.staleAll).lext = st.lext := rfl
@[simp] theorem Strand.staleAll_llin (st : Strand) : (st.staleAll).llin = st.llin := rfl
@[simp] theorem Strand.staleAll_inMatrix (st : Strand) : (st.staleAll).inMatrix = st.inMatrix := rfl
@[simp] theorem Strand.staleAll_active (st : Strand) : (st.staleAll).active = st.active := rfl
@[simp] theorem Strand.staleAll_shadow (st : Strand) : (st.staleAll).shadow = st.shadow := rfl
@[simp] theorem Strand.staleAll_acc (st : Strand) : (st.staleAll).acc = st.acc := rfl
@[simp] theorem Strand.staleAll_commitAcc (st : Strand) : (st.staleAll).commitAcc = st.commitAcc := rfl
@[simp] theorem Strand.staleAll_commitActive (st : Strand) : (st.staleAll).commitActive = st.commitActive := rfl
@[simp] theorem Strand.staleAll_commitShadow (st : Strand) : (st.staleAll).commitShadow = st.commitShadow := rfl
@[simp] theorem Strand.staleAll_mqueue (st : Strand) : (st.staleAll).mqueue = st.mqueue := rfl
@[simp] theorem Strand.staleAll_bind (st : Strand) : (st.staleAll).bind = st.bind := rfl
@[simp] theorem Strand.staleAll_seq (st : Strand) : (st.staleAll).seq = st.seq := rfl
@[simp] theorem Strand.staleAll_fidxSeq (st : Strand) : (st.staleAll).fidxSeq = st.fidxSeq := rfl
@[simp] theorem Strand.staleAll_latch (st : Strand) : (st.staleAll).latch = st.latch := rfl
@[simp] theorem Strand.staleAll_resv (st : Strand) : (st.staleAll).resv = st.resv := rfl
@[simp] theorem Strand.staleAll_windows (st : Strand) : (st.staleAll).windows = st.windows := rfl
@[simp] theorem Strand.staleAll_cache (st : Strand) : (st.staleAll).cache = st.cache := rfl
@[simp] theorem Strand.staleAll_icache (st : Strand) : (st.staleAll).icache = st.icache := rfl
@[simp] theorem Strand.staleAll_newest (st : Strand) : (st.staleAll).newest = st.newest := rfl
@[simp] theorem Strand.staleAll_wps (st : Strand) : (st.staleAll).wps = st.wps := rfl
@[simp] theorem Strand.staleAll_pending (st : Strand) : (st.staleAll).pending = st.pending := rfl
@[simp] theorem Strand.staleAll_blocked (st : Strand) : (st.staleAll).blocked = st.blocked := rfl
@[simp] theorem Strand.staleAll_hold (st : Strand) : (st.staleAll).hold = st.hold := rfl
@[simp] theorem Strand.staleAll_awaiting (st : Strand) : (st.staleAll).awaiting = st.awaiting := rfl
@[simp] theorem Strand.staleAll_yieldFor (st : Strand) : (st.staleAll).yieldFor = st.yieldFor := rfl
@[simp] theorem Strand.staleAll_yieldLeft (st : Strand) : (st.staleAll).yieldLeft = st.yieldLeft := rfl
@[simp] theorem Strand.staleAll_stopAt (st : Strand) : (st.staleAll).stopAt = st.stopAt := rfl
@[simp] theorem Strand.staleAll_evSoFar (st : Strand) : (st.staleAll).evSoFar = st.evSoFar := rfl
@[simp] theorem Strand.staleAll_evFirst (st : Strand) : (st.staleAll).evFirst = st.evFirst := rfl
@[simp] theorem Strand.staleAll_handler (st : Strand) : (st.staleAll).handler = st.handler := rfl
@[simp] theorem Strand.staleAll_areas (st : Strand) : (st.staleAll).areas = st.areas := rfl
@[simp] theorem Strand.staleAll_blockedFor (st : Strand) : (st.staleAll).blockedFor = st.blockedFor := rfl
@[simp] theorem Strand.staleAll_ordTime (st : Strand) : (st.staleAll).ordTime = st.ordTime := rfl
@[simp] theorem Strand.staleAll_ordWait (st : Strand) : (st.staleAll).ordWait = st.ordWait := rfl
@[simp] theorem Strand.staleAll_ordRead (st : Strand) : (st.staleAll).ordRead = st.ordRead := rfl

/-! ### Strand.staleBytes -/

@[simp] theorem Strand.staleBytes_id (st : Strand) (bs : List Byt) : (st.staleBytes bs).id = st.id := by unfold Strand.staleBytes; split <;> rfl
@[simp] theorem Strand.staleBytes_live (st : Strand) (bs : List Byt) : (st.staleBytes bs).live = st.live := by unfold Strand.staleBytes; split <;> rfl
@[simp] theorem Strand.staleBytes_gang (st : Strand) (bs : List Byt) : (st.staleBytes bs).gang = st.gang := by unfold Strand.staleBytes; split <;> rfl
@[simp] theorem Strand.staleBytes_ctx (st : Strand) (bs : List Byt) : (st.staleBytes bs).ctx = st.ctx := by unfold Strand.staleBytes; split <;> rfl
@[simp] theorem Strand.staleBytes_core (st : Strand) (bs : List Byt) : (st.staleBytes bs).core = st.core := by unfold Strand.staleBytes; split <;> rfl
@[simp] theorem Strand.staleBytes_place (st : Strand) (bs : List Byt) : (st.staleBytes bs).place = st.place := by unfold Strand.staleBytes; split <;> rfl
@[simp] theorem Strand.staleBytes_obj (st : Strand) (bs : List Byt) : (st.staleBytes bs).obj = st.obj := by unfold Strand.staleBytes; split <;> rfl
@[simp] theorem Strand.staleBytes_pc (st : Strand) (bs : List Byt) : (st.staleBytes bs).pc = st.pc := by unfold Strand.staleBytes; split <;> rfl
@[simp] theorem Strand.staleBytes_prev (st : Strand) (bs : List Byt) : (st.staleBytes bs).prev = st.prev := by unfold Strand.staleBytes; split <;> rfl
@[simp] theorem Strand.staleBytes_x (st : Strand) (bs : List Byt) : (st.staleBytes bs).x = st.x := by unfold Strand.staleBytes; split <;> rfl
@[simp] theorem Strand.staleBytes_f (st : Strand) (bs : List Byt) : (st.staleBytes bs).f = st.f := by unfold Strand.staleBytes; split <;> rfl
@[simp] theorem Strand.staleBytes_v (st : Strand) (bs : List Byt) : (st.staleBytes bs).v = st.v := by unfold Strand.staleBytes; split <;> rfl
@[simp] theorem Strand.staleBytes_m (st : Strand) (bs : List Byt) : (st.staleBytes bs).m = st.m := by unfold Strand.staleBytes; split <;> rfl
@[simp] theorem Strand.staleBytes_p (st : Strand) (bs : List Byt) : (st.staleBytes bs).p = st.p := by unfold Strand.staleBytes; split <;> rfl
@[simp] theorem Strand.staleBytes_b (st : Strand) (bs : List Byt) : (st.staleBytes bs).b = st.b := by unfold Strand.staleBytes; split <;> rfl
@[simp] theorem Strand.staleBytes_alg (st : Strand) (bs : List Byt) : (st.staleBytes bs).alg = st.alg := by unfold Strand.staleBytes; split <;> rfl
@[simp] theorem Strand.staleBytes_rstack (st : Strand) (bs : List Byt) : (st.staleBytes bs).rstack = st.rstack := by unfold Strand.staleBytes; split <;> rfl
@[simp] theorem Strand.staleBytes_rdepth (st : Strand) (bs : List Byt) : (st.staleBytes bs).rdepth = st.rdepth := by unfold Strand.staleBytes; split <;> rfl
@[simp] theorem Strand.staleBytes_spillRs (st : Strand) (bs : List Byt) : (st.staleBytes bs).spillRs = st.spillRs := by unfold Strand.staleBytes; split <;> rfl
@[simp] theorem Strand.staleBytes_mstack (st : Strand) (bs : List Byt) : (st.staleBytes bs).mstack = st.mstack := by unfold Strand.staleBytes; split <;> rfl
@[simp] theorem Strand.staleBytes_mdepth (st : Strand) (bs : List Byt) : (st.staleBytes bs).mdepth = st.mdepth := by unfold Strand.staleBytes; split <;> rfl
@[simp] theorem Strand.staleBytes_spillMs (st : Strand) (bs : List Byt) : (st.staleBytes bs).spillMs = st.spillMs := by unfold Strand.staleBytes; split <;> rfl
@[simp] theorem Strand.staleBytes_rbase (st : Strand) (bs : List Byt) : (st.staleBytes bs).rbase = st.rbase := by unfold Strand.staleBytes; split <;> rfl
@[simp] theorem Strand.staleBytes_mbase (st : Strand) (bs : List Byt) : (st.staleBytes bs).mbase = st.mbase := by unfold Strand.staleBytes; split <;> rfl
@[simp] theorem Strand.staleBytes_vtype (st : Strand) (bs : List Byt) : (st.staleBytes bs).vtype = st.vtype := by unfold Strand.staleBytes; split <;> rfl
@[simp] theorem Strand.staleBytes_vl (st : Strand) (bs : List Byt) : (st.staleBytes bs).vl = st.vl := by unfold Strand.staleBytes; split <;> rfl
@[simp] theorem Strand.staleBytes_mvl (st : Strand) (bs : List Byt) : (st.staleBytes bs).mvl = st.mvl := by unfold Strand.staleBytes; split <;> rfl
@[simp] theorem Strand.staleBytes_esr (st : Strand) (bs : List Byt) : (st.staleBytes bs).esr = st.esr := by unfold Strand.staleBytes; split <;> rfl
@[simp] theorem Strand.staleBytes_resume (st : Strand) (bs : List Byt) : (st.staleBytes bs).resume = st.resume := by unfold Strand.staleBytes; split <;> rfl
@[simp] theorem Strand.staleBytes_tau (st : Strand) (bs : List Byt) : (st.staleBytes bs).tau = st.tau := by unfold Strand.staleBytes; split <;> rfl
@[simp] theorem Strand.staleBytes_fstat (st : Strand) (bs : List Byt) : (st.staleBytes bs).fstat = st.fstat := by unfold Strand.staleBytes; split <;> rfl
@[simp] theorem Strand.staleBytes_fidx (st : Strand) (bs : List Byt) : (st.staleBytes bs).fidx = st.fidx := by unfold Strand.staleBytes; split <;> rfl
@[simp] theorem Strand.staleBytes_stripPrev (st : Strand) (bs : List Byt) : (st.staleBytes bs).stripPrev = st.stripPrev := by unfold Strand.staleBytes; split <;> rfl
@[simp] theorem Strand.staleBytes_rngKey (st : Strand) (bs : List Byt) : (st.staleBytes bs).rngKey = st.rngKey := by unfold Strand.staleBytes; split <;> rfl
@[simp] theorem Strand.staleBytes_rngCtr (st : Strand) (bs : List Byt) : (st.staleBytes bs).rngCtr = st.rngCtr := by unfold Strand.staleBytes; split <;> rfl
@[simp] theorem Strand.staleBytes_vcount (st : Strand) (bs : List Byt) : (st.staleBytes bs).vcount = st.vcount := by unfold Strand.staleBytes; split <;> rfl
@[simp] theorem Strand.staleBytes_bufFirst (st : Strand) (bs : List Byt) : (st.staleBytes bs).bufFirst = st.bufFirst := by unfold Strand.staleBytes; split <;> rfl
@[simp] theorem Strand.staleBytes_bufGroups (st : Strand) (bs : List Byt) : (st.staleBytes bs).bufGroups = st.bufGroups := by unfold Strand.staleBytes; split <;> rfl
@[simp] theorem Strand.staleBytes_share (st : Strand) (bs : List Byt) : (st.staleBytes bs).share = st.share := by unfold Strand.staleBytes; split <;> rfl
@[simp] theorem Strand.staleBytes_codeb (st : Strand) (bs : List Byt) : (st.staleBytes bs).codeb = st.codeb := by unfold Strand.staleBytes; split <;> rfl
@[simp] theorem Strand.staleBytes_lix (st : Strand) (bs : List Byt) : (st.staleBytes bs).lix = st.lix := by unfold Strand.staleBytes; split <;> rfl
@[simp] theorem Strand.staleBytes_lext (st : Strand) (bs : List Byt) : (st.staleBytes bs).lext = st.lext := by unfold Strand.staleBytes; split <;> rfl
@[simp] theorem Strand.staleBytes_llin (st : Strand) (bs : List Byt) : (st.staleBytes bs).llin = st.llin := by unfold Strand.staleBytes; split <;> rfl
@[simp] theorem Strand.staleBytes_inMatrix (st : Strand) (bs : List Byt) : (st.staleBytes bs).inMatrix = st.inMatrix := by unfold Strand.staleBytes; split <;> rfl
@[simp] theorem Strand.staleBytes_active (st : Strand) (bs : List Byt) : (st.staleBytes bs).active = st.active := by unfold Strand.staleBytes; split <;> rfl
@[simp] theorem Strand.staleBytes_shadow (st : Strand) (bs : List Byt) : (st.staleBytes bs).shadow = st.shadow := by unfold Strand.staleBytes; split <;> rfl
@[simp] theorem Strand.staleBytes_acc (st : Strand) (bs : List Byt) : (st.staleBytes bs).acc = st.acc := by unfold Strand.staleBytes; split <;> rfl
@[simp] theorem Strand.staleBytes_commitAcc (st : Strand) (bs : List Byt) : (st.staleBytes bs).commitAcc = st.commitAcc := by unfold Strand.staleBytes; split <;> rfl
@[simp] theorem Strand.staleBytes_commitActive (st : Strand) (bs : List Byt) : (st.staleBytes bs).commitActive = st.commitActive := by unfold Strand.staleBytes; split <;> rfl
@[simp] theorem Strand.staleBytes_commitShadow (st : Strand) (bs : List Byt) : (st.staleBytes bs).commitShadow = st.commitShadow := by unfold Strand.staleBytes; split <;> rfl
@[simp] theorem Strand.staleBytes_mqueue (st : Strand) (bs : List Byt) : (st.staleBytes bs).mqueue = st.mqueue := by unfold Strand.staleBytes; split <;> rfl
@[simp] theorem Strand.staleBytes_bind (st : Strand) (bs : List Byt) : (st.staleBytes bs).bind = st.bind := by unfold Strand.staleBytes; split <;> rfl
@[simp] theorem Strand.staleBytes_seq (st : Strand) (bs : List Byt) : (st.staleBytes bs).seq = st.seq := by unfold Strand.staleBytes; split <;> rfl
@[simp] theorem Strand.staleBytes_fidxSeq (st : Strand) (bs : List Byt) : (st.staleBytes bs).fidxSeq = st.fidxSeq := by unfold Strand.staleBytes; split <;> rfl
@[simp] theorem Strand.staleBytes_latch (st : Strand) (bs : List Byt) : (st.staleBytes bs).latch = st.latch := by unfold Strand.staleBytes; split <;> rfl
@[simp] theorem Strand.staleBytes_resv (st : Strand) (bs : List Byt) : (st.staleBytes bs).resv = st.resv := by unfold Strand.staleBytes; split <;> rfl
@[simp] theorem Strand.staleBytes_windows (st : Strand) (bs : List Byt) : (st.staleBytes bs).windows = st.windows := by unfold Strand.staleBytes; split <;> rfl
@[simp] theorem Strand.staleBytes_cache (st : Strand) (bs : List Byt) : (st.staleBytes bs).cache = st.cache := by unfold Strand.staleBytes; split <;> rfl
@[simp] theorem Strand.staleBytes_icache (st : Strand) (bs : List Byt) : (st.staleBytes bs).icache = st.icache := by unfold Strand.staleBytes; split <;> rfl
@[simp] theorem Strand.staleBytes_newest (st : Strand) (bs : List Byt) : (st.staleBytes bs).newest = st.newest := by unfold Strand.staleBytes; split <;> rfl
@[simp] theorem Strand.staleBytes_wps (st : Strand) (bs : List Byt) : (st.staleBytes bs).wps = st.wps := by unfold Strand.staleBytes; split <;> rfl
@[simp] theorem Strand.staleBytes_pending (st : Strand) (bs : List Byt) : (st.staleBytes bs).pending = st.pending := by unfold Strand.staleBytes; split <;> rfl
@[simp] theorem Strand.staleBytes_blocked (st : Strand) (bs : List Byt) : (st.staleBytes bs).blocked = st.blocked := by unfold Strand.staleBytes; split <;> rfl
@[simp] theorem Strand.staleBytes_hold (st : Strand) (bs : List Byt) : (st.staleBytes bs).hold = st.hold := by unfold Strand.staleBytes; split <;> rfl
@[simp] theorem Strand.staleBytes_awaiting (st : Strand) (bs : List Byt) : (st.staleBytes bs).awaiting = st.awaiting := by unfold Strand.staleBytes; split <;> rfl
@[simp] theorem Strand.staleBytes_yieldFor (st : Strand) (bs : List Byt) : (st.staleBytes bs).yieldFor = st.yieldFor := by unfold Strand.staleBytes; split <;> rfl
@[simp] theorem Strand.staleBytes_yieldLeft (st : Strand) (bs : List Byt) : (st.staleBytes bs).yieldLeft = st.yieldLeft := by unfold Strand.staleBytes; split <;> rfl
@[simp] theorem Strand.staleBytes_stopAt (st : Strand) (bs : List Byt) : (st.staleBytes bs).stopAt = st.stopAt := by unfold Strand.staleBytes; split <;> rfl
@[simp] theorem Strand.staleBytes_evSoFar (st : Strand) (bs : List Byt) : (st.staleBytes bs).evSoFar = st.evSoFar := by unfold Strand.staleBytes; split <;> rfl
@[simp] theorem Strand.staleBytes_evFirst (st : Strand) (bs : List Byt) : (st.staleBytes bs).evFirst = st.evFirst := by unfold Strand.staleBytes; split <;> rfl
@[simp] theorem Strand.staleBytes_handler (st : Strand) (bs : List Byt) : (st.staleBytes bs).handler = st.handler := by unfold Strand.staleBytes; split <;> rfl
@[simp] theorem Strand.staleBytes_areas (st : Strand) (bs : List Byt) : (st.staleBytes bs).areas = st.areas := by unfold Strand.staleBytes; split <;> rfl
@[simp] theorem Strand.staleBytes_blockedFor (st : Strand) (bs : List Byt) : (st.staleBytes bs).blockedFor = st.blockedFor := by unfold Strand.staleBytes; split <;> rfl
@[simp] theorem Strand.staleBytes_ordTime (st : Strand) (bs : List Byt) : (st.staleBytes bs).ordTime = st.ordTime := by unfold Strand.staleBytes; split <;> rfl
@[simp] theorem Strand.staleBytes_ordWait (st : Strand) (bs : List Byt) : (st.staleBytes bs).ordWait = st.ordWait := by unfold Strand.staleBytes; split <;> rfl
@[simp] theorem Strand.staleBytes_ordRead (st : Strand) (bs : List Byt) : (st.staleBytes bs).ordRead = st.ordRead := by unfold Strand.staleBytes; split <;> rfl

/-! ### Strand.setVtype -/

@[simp] theorem Strand.setVtype_id (st : Strand) (w : Word) : (st.setVtype w).id = st.id := rfl
@[simp] theorem Strand.setVtype_live (st : Strand) (w : Word) : (st.setVtype w).live = st.live := rfl
@[simp] theorem Strand.setVtype_gang (st : Strand) (w : Word) : (st.setVtype w).gang = st.gang := rfl
@[simp] theorem Strand.setVtype_ctx (st : Strand) (w : Word) : (st.setVtype w).ctx = st.ctx := rfl
@[simp] theorem Strand.setVtype_core (st : Strand) (w : Word) : (st.setVtype w).core = st.core := rfl
@[simp] theorem Strand.setVtype_place (st : Strand) (w : Word) : (st.setVtype w).place = st.place := rfl
@[simp] theorem Strand.setVtype_obj (st : Strand) (w : Word) : (st.setVtype w).obj = st.obj := rfl
@[simp] theorem Strand.setVtype_pc (st : Strand) (w : Word) : (st.setVtype w).pc = st.pc := rfl
@[simp] theorem Strand.setVtype_prev (st : Strand) (w : Word) : (st.setVtype w).prev = st.prev := rfl
@[simp] theorem Strand.setVtype_x (st : Strand) (w : Word) : (st.setVtype w).x = st.x := rfl
@[simp] theorem Strand.setVtype_f (st : Strand) (w : Word) : (st.setVtype w).f = st.f := rfl
@[simp] theorem Strand.setVtype_v (st : Strand) (w : Word) : (st.setVtype w).v = st.v := rfl
@[simp] theorem Strand.setVtype_m (st : Strand) (w : Word) : (st.setVtype w).m = st.m := rfl
@[simp] theorem Strand.setVtype_p (st : Strand) (w : Word) : (st.setVtype w).p = st.p := rfl
@[simp] theorem Strand.setVtype_b (st : Strand) (w : Word) : (st.setVtype w).b = st.b := rfl
@[simp] theorem Strand.setVtype_alg (st : Strand) (w : Word) : (st.setVtype w).alg = st.alg := rfl
@[simp] theorem Strand.setVtype_rstack (st : Strand) (w : Word) : (st.setVtype w).rstack = st.rstack := rfl
@[simp] theorem Strand.setVtype_rdepth (st : Strand) (w : Word) : (st.setVtype w).rdepth = st.rdepth := rfl
@[simp] theorem Strand.setVtype_spillRs (st : Strand) (w : Word) : (st.setVtype w).spillRs = st.spillRs := rfl
@[simp] theorem Strand.setVtype_mstack (st : Strand) (w : Word) : (st.setVtype w).mstack = st.mstack := rfl
@[simp] theorem Strand.setVtype_mdepth (st : Strand) (w : Word) : (st.setVtype w).mdepth = st.mdepth := rfl
@[simp] theorem Strand.setVtype_spillMs (st : Strand) (w : Word) : (st.setVtype w).spillMs = st.spillMs := rfl
@[simp] theorem Strand.setVtype_rbase (st : Strand) (w : Word) : (st.setVtype w).rbase = st.rbase := rfl
@[simp] theorem Strand.setVtype_mbase (st : Strand) (w : Word) : (st.setVtype w).mbase = st.mbase := rfl
@[simp] theorem Strand.setVtype_mvl (st : Strand) (w : Word) : (st.setVtype w).mvl = st.mvl := rfl
@[simp] theorem Strand.setVtype_esr (st : Strand) (w : Word) : (st.setVtype w).esr = st.esr := rfl
@[simp] theorem Strand.setVtype_resume (st : Strand) (w : Word) : (st.setVtype w).resume = st.resume := rfl
@[simp] theorem Strand.setVtype_tau (st : Strand) (w : Word) : (st.setVtype w).tau = st.tau := rfl
@[simp] theorem Strand.setVtype_fstat (st : Strand) (w : Word) : (st.setVtype w).fstat = st.fstat := rfl
@[simp] theorem Strand.setVtype_fidx (st : Strand) (w : Word) : (st.setVtype w).fidx = st.fidx := rfl
@[simp] theorem Strand.setVtype_stripPrev (st : Strand) (w : Word) : (st.setVtype w).stripPrev = st.stripPrev := rfl
@[simp] theorem Strand.setVtype_rngKey (st : Strand) (w : Word) : (st.setVtype w).rngKey = st.rngKey := rfl
@[simp] theorem Strand.setVtype_rngCtr (st : Strand) (w : Word) : (st.setVtype w).rngCtr = st.rngCtr := rfl
@[simp] theorem Strand.setVtype_vcount (st : Strand) (w : Word) : (st.setVtype w).vcount = st.vcount := rfl
@[simp] theorem Strand.setVtype_bufFirst (st : Strand) (w : Word) : (st.setVtype w).bufFirst = st.bufFirst := rfl
@[simp] theorem Strand.setVtype_bufGroups (st : Strand) (w : Word) : (st.setVtype w).bufGroups = st.bufGroups := rfl
@[simp] theorem Strand.setVtype_share (st : Strand) (w : Word) : (st.setVtype w).share = st.share := rfl
@[simp] theorem Strand.setVtype_codeb (st : Strand) (w : Word) : (st.setVtype w).codeb = st.codeb := rfl
@[simp] theorem Strand.setVtype_lix (st : Strand) (w : Word) : (st.setVtype w).lix = st.lix := rfl
@[simp] theorem Strand.setVtype_lext (st : Strand) (w : Word) : (st.setVtype w).lext = st.lext := rfl
@[simp] theorem Strand.setVtype_llin (st : Strand) (w : Word) : (st.setVtype w).llin = st.llin := rfl
@[simp] theorem Strand.setVtype_inMatrix (st : Strand) (w : Word) : (st.setVtype w).inMatrix = st.inMatrix := rfl
@[simp] theorem Strand.setVtype_active (st : Strand) (w : Word) : (st.setVtype w).active = st.active := rfl
@[simp] theorem Strand.setVtype_shadow (st : Strand) (w : Word) : (st.setVtype w).shadow = st.shadow := rfl
@[simp] theorem Strand.setVtype_acc (st : Strand) (w : Word) : (st.setVtype w).acc = st.acc := rfl
@[simp] theorem Strand.setVtype_commitAcc (st : Strand) (w : Word) : (st.setVtype w).commitAcc = st.commitAcc := rfl
@[simp] theorem Strand.setVtype_commitActive (st : Strand) (w : Word) : (st.setVtype w).commitActive = st.commitActive := rfl
@[simp] theorem Strand.setVtype_commitShadow (st : Strand) (w : Word) : (st.setVtype w).commitShadow = st.commitShadow := rfl
@[simp] theorem Strand.setVtype_mqueue (st : Strand) (w : Word) : (st.setVtype w).mqueue = st.mqueue := rfl
@[simp] theorem Strand.setVtype_bind (st : Strand) (w : Word) : (st.setVtype w).bind = st.bind := rfl
@[simp] theorem Strand.setVtype_seq (st : Strand) (w : Word) : (st.setVtype w).seq = st.seq := rfl
@[simp] theorem Strand.setVtype_fidxSeq (st : Strand) (w : Word) : (st.setVtype w).fidxSeq = st.fidxSeq := rfl
@[simp] theorem Strand.setVtype_latch (st : Strand) (w : Word) : (st.setVtype w).latch = st.latch := rfl
@[simp] theorem Strand.setVtype_resv (st : Strand) (w : Word) : (st.setVtype w).resv = st.resv := rfl
@[simp] theorem Strand.setVtype_stream (st : Strand) (w : Word) : (st.setVtype w).stream = st.stream := rfl
@[simp] theorem Strand.setVtype_windows (st : Strand) (w : Word) : (st.setVtype w).windows = st.windows := rfl
@[simp] theorem Strand.setVtype_cache (st : Strand) (w : Word) : (st.setVtype w).cache = st.cache := rfl
@[simp] theorem Strand.setVtype_icache (st : Strand) (w : Word) : (st.setVtype w).icache = st.icache := rfl
@[simp] theorem Strand.setVtype_newest (st : Strand) (w : Word) : (st.setVtype w).newest = st.newest := rfl
@[simp] theorem Strand.setVtype_wps (st : Strand) (w : Word) : (st.setVtype w).wps = st.wps := rfl
@[simp] theorem Strand.setVtype_pending (st : Strand) (w : Word) : (st.setVtype w).pending = st.pending := rfl
@[simp] theorem Strand.setVtype_blocked (st : Strand) (w : Word) : (st.setVtype w).blocked = st.blocked := rfl
@[simp] theorem Strand.setVtype_hold (st : Strand) (w : Word) : (st.setVtype w).hold = st.hold := rfl
@[simp] theorem Strand.setVtype_awaiting (st : Strand) (w : Word) : (st.setVtype w).awaiting = st.awaiting := rfl
@[simp] theorem Strand.setVtype_yieldFor (st : Strand) (w : Word) : (st.setVtype w).yieldFor = st.yieldFor := rfl
@[simp] theorem Strand.setVtype_yieldLeft (st : Strand) (w : Word) : (st.setVtype w).yieldLeft = st.yieldLeft := rfl
@[simp] theorem Strand.setVtype_stopAt (st : Strand) (w : Word) : (st.setVtype w).stopAt = st.stopAt := rfl
@[simp] theorem Strand.setVtype_evSoFar (st : Strand) (w : Word) : (st.setVtype w).evSoFar = st.evSoFar := rfl
@[simp] theorem Strand.setVtype_evFirst (st : Strand) (w : Word) : (st.setVtype w).evFirst = st.evFirst := rfl
@[simp] theorem Strand.setVtype_handler (st : Strand) (w : Word) : (st.setVtype w).handler = st.handler := rfl
@[simp] theorem Strand.setVtype_areas (st : Strand) (w : Word) : (st.setVtype w).areas = st.areas := rfl
@[simp] theorem Strand.setVtype_blockedFor (st : Strand) (w : Word) : (st.setVtype w).blockedFor = st.blockedFor := rfl
@[simp] theorem Strand.setVtype_ordTime (st : Strand) (w : Word) : (st.setVtype w).ordTime = st.ordTime := rfl
@[simp] theorem Strand.setVtype_ordWait (st : Strand) (w : Word) : (st.setVtype w).ordWait = st.ordWait := rfl
@[simp] theorem Strand.setVtype_ordRead (st : Strand) (w : Word) : (st.setVtype w).ordRead = st.ordRead := rfl

/-! ### State.setMe -/

@[simp] theorem State.setMe_wfront (s : State) (st : Strand) : (s.setMe st).wfront = s.wfront := rfl
@[simp] theorem State.setMe_strands (s : State) (st : Strand) : (s.setMe st).strands = s.strands := rfl
@[simp] theorem State.setMe_cores (s : State) (st : Strand) : (s.setMe st).cores = s.cores := rfl
@[simp] theorem State.setMe_clusters (s : State) (st : Strand) : (s.setMe st).clusters = s.clusters := rfl
@[simp] theorem State.setMe_mem (s : State) (st : Strand) : (s.setMe st).mem = s.mem := rfl
@[simp] theorem State.setMe_bad (s : State) (st : Strand) : (s.setMe st).bad = s.bad := rfl
@[simp] theorem State.setMe_wbad (s : State) (st : Strand) : (s.setMe st).wbad = s.wbad := rfl
@[simp] theorem State.setMe_ctxs (s : State) (st : Strand) : (s.setMe st).ctxs = s.ctxs := rfl
@[simp] theorem State.setMe_parts (s : State) (st : Strand) : (s.setMe st).parts = s.parts := rfl
@[simp] theorem State.setMe_queues (s : State) (st : Strand) : (s.setMe st).queues = s.queues := rfl
@[simp] theorem State.setMe_launches (s : State) (st : Strand) : (s.setMe st).launches = s.launches := rfl
@[simp] theorem State.setMe_fabs (s : State) (st : Strand) : (s.setMe st).fabs = s.fabs := rfl
@[simp] theorem State.setMe_wins (s : State) (st : Strand) : (s.setMe st).wins = s.wins := rfl
@[simp] theorem State.setMe_groups (s : State) (st : Strand) : (s.setMe st).groups = s.groups := rfl
@[simp] theorem State.setMe_hosts (s : State) (st : Strand) : (s.setMe st).hosts = s.hosts := rfl
@[simp] theorem State.setMe_nextLaunch (s : State) (st : Strand) : (s.setMe st).nextLaunch = s.nextLaunch := rfl
@[simp] theorem State.setMe_nextSid (s : State) (st : Strand) : (s.setMe st).nextSid = s.nextSid := rfl
@[simp] theorem State.setMe_nextOp (s : State) (st : Strand) : (s.setMe st).nextOp = s.nextOp := rfl
@[simp] theorem State.setMe_cycle (s : State) (st : Strand) : (s.setMe st).cycle = s.cycle := rfl
@[simp] theorem State.setMe_time (s : State) (st : Strand) : (s.setMe st).time = s.time := rfl
@[simp] theorem State.setMe_timeFrac (s : State) (st : Strand) : (s.setMe st).timeFrac = s.timeFrac := rfl
@[simp] theorem State.setMe_rate (s : State) (st : Strand) : (s.setMe st).rate = s.rate := rfl
@[simp] theorem State.setMe_ebound (s : State) (st : Strand) : (s.setMe st).ebound = s.ebound := rfl
@[simp] theorem State.setMe_bc (s : State) (st : Strand) : (s.setMe st).bc = s.bc := rfl
@[simp] theorem State.setMe_lock (s : State) (st : Strand) : (s.setMe st).lock = s.lock := rfl
@[simp] theorem State.setMe_ptpDomain (s : State) (st : Strand) : (s.setMe st).ptpDomain = s.ptpDomain := rfl
@[simp] theorem State.setMe_ptpPorts (s : State) (st : Strand) : (s.setMe st).ptpPorts = s.ptpPorts := rfl
@[simp] theorem State.setMe_ptpPeer (s : State) (st : Strand) : (s.setMe st).ptpPeer = s.ptpPeer := rfl
@[simp] theorem State.setMe_boot (s : State) (st : Strand) : (s.setMe st).boot = s.boot := rfl
@[simp] theorem State.setMe_gfloor (s : State) (st : Strand) : (s.setMe st).gfloor = s.gfloor := rfl
@[simp] theorem State.setMe_decTable (s : State) (st : Strand) : (s.setMe st).decTable = s.decTable := rfl
@[simp] theorem State.setMe_decImage (s : State) (st : Strand) : (s.setMe st).decImage = s.decImage := rfl
@[simp] theorem State.setMe_firmware (s : State) (st : Strand) : (s.setMe st).firmware = s.firmware := rfl
@[simp] theorem State.setMe_nextFirmware (s : State) (st : Strand) : (s.setMe st).nextFirmware = s.nextFirmware := rfl
@[simp] theorem State.setMe_fseq (s : State) (st : Strand) : (s.setMe st).fseq = s.fseq := rfl
@[simp] theorem State.setMe_hseq (s : State) (st : Strand) : (s.setMe st).hseq = s.hseq := rfl
@[simp] theorem State.setMe_samples (s : State) (st : Strand) : (s.setMe st).samples = s.samples := rfl
@[simp] theorem State.setMe_spent (s : State) (st : Strand) : (s.setMe st).spent = s.spent := rfl
@[simp] theorem State.setMe_retiring (s : State) (st : Strand) : (s.setMe st).retiring = s.retiring := rfl
@[simp] theorem State.setMe_noSpare (s : State) (st : Strand) : (s.setMe st).noSpare = s.noSpare := rfl
@[simp] theorem State.setMe_ckArea (s : State) (st : Strand) : (s.setMe st).ckArea = s.ckArea := rfl
@[simp] theorem State.setMe_ckAsked (s : State) (st : Strand) : (s.setMe st).ckAsked = s.ckAsked := rfl
@[simp] theorem State.setMe_held (s : State) (st : Strand) : (s.setMe st).held = s.held := rfl
@[simp] theorem State.setMe_heldFrom (s : State) (st : Strand) : (s.setMe st).heldFrom = s.heldFrom := rfl
@[simp] theorem State.setMe_trigger (s : State) (st : Strand) : (s.setMe st).trigger = s.trigger := rfl
@[simp] theorem State.setMe_ckRun (s : State) (st : Strand) : (s.setMe st).ckRun = s.ckRun := rfl
@[simp] theorem State.setMe_ckSeq (s : State) (st : Strand) : (s.setMe st).ckSeq = s.ckSeq := rfl
@[simp] theorem State.setMe_ckEnd (s : State) (st : Strand) : (s.setMe st).ckEnd = s.ckEnd := rfl
@[simp] theorem State.setMe_holds (s : State) (st : Strand) : (s.setMe st).holds = s.holds := rfl
@[simp] theorem State.setMe_dirtyArmed (s : State) (st : Strand) : (s.setMe st).dirtyArmed = s.dirtyArmed := rfl
@[simp] theorem State.setMe_image (s : State) (st : Strand) : (s.setMe st).image = s.image := rfl
@[simp] theorem State.setMe_logArea (s : State) (st : Strand) : (s.setMe st).logArea = s.logArea := rfl
@[simp] theorem State.setMe_logPos (s : State) (st : Strand) : (s.setMe st).logPos = s.logPos := rfl
@[simp] theorem State.setMe_lseq (s : State) (st : Strand) : (s.setMe st).lseq = s.lseq := rfl
@[simp] theorem State.setMe_logOn (s : State) (st : Strand) : (s.setMe st).logOn = s.logOn := rfl
@[simp] theorem State.setMe_logMarker (s : State) (st : Strand) : (s.setMe st).logMarker = s.logMarker := rfl
@[simp] theorem State.setMe_logDec (s : State) (st : Strand) : (s.setMe st).logDec = s.logDec := rfl
@[simp] theorem State.setMe_coh (s : State) (st : Strand) : (s.setMe st).coh = s.coh := rfl
@[simp] theorem State.setMe_places (s : State) (st : Strand) : (s.setMe st).places = s.places := rfl
@[simp] theorem State.setMe_loads (s : State) (st : Strand) : (s.setMe st).loads = s.loads := rfl
@[simp] theorem State.setMe_replay (s : State) (st : Strand) : (s.setMe st).replay = s.replay := rfl
@[simp] theorem State.setMe_frozen (s : State) (st : Strand) : (s.setMe st).frozen = s.frozen := rfl
@[simp] theorem State.setMe_out (s : State) (st : Strand) : (s.setMe st).out = s.out := rfl
@[simp] theorem State.setMe_agenda (s : State) (st : Strand) : (s.setMe st).agenda = s.agenda := rfl
@[simp] theorem State.setMe_fresh (s : State) (st : Strand) : (s.setMe st).fresh = s.fresh := rfl

/-! ### State.setCore -/

@[simp] theorem State.setCore_me (s : State) (c : Nat) (v : Core) : (s.setCore c v).me = s.me := rfl
@[simp] theorem State.setCore_wfront (s : State) (c : Nat) (v : Core) : (s.setCore c v).wfront = s.wfront := rfl
@[simp] theorem State.setCore_strands (s : State) (c : Nat) (v : Core) : (s.setCore c v).strands = s.strands := rfl
@[simp] theorem State.setCore_clusters (s : State) (c : Nat) (v : Core) : (s.setCore c v).clusters = s.clusters := rfl
@[simp] theorem State.setCore_mem (s : State) (c : Nat) (v : Core) : (s.setCore c v).mem = s.mem := rfl
@[simp] theorem State.setCore_bad (s : State) (c : Nat) (v : Core) : (s.setCore c v).bad = s.bad := rfl
@[simp] theorem State.setCore_wbad (s : State) (c : Nat) (v : Core) : (s.setCore c v).wbad = s.wbad := rfl
@[simp] theorem State.setCore_ctxs (s : State) (c : Nat) (v : Core) : (s.setCore c v).ctxs = s.ctxs := rfl
@[simp] theorem State.setCore_parts (s : State) (c : Nat) (v : Core) : (s.setCore c v).parts = s.parts := rfl
@[simp] theorem State.setCore_queues (s : State) (c : Nat) (v : Core) : (s.setCore c v).queues = s.queues := rfl
@[simp] theorem State.setCore_launches (s : State) (c : Nat) (v : Core) : (s.setCore c v).launches = s.launches := rfl
@[simp] theorem State.setCore_fabs (s : State) (c : Nat) (v : Core) : (s.setCore c v).fabs = s.fabs := rfl
@[simp] theorem State.setCore_wins (s : State) (c : Nat) (v : Core) : (s.setCore c v).wins = s.wins := rfl
@[simp] theorem State.setCore_groups (s : State) (c : Nat) (v : Core) : (s.setCore c v).groups = s.groups := rfl
@[simp] theorem State.setCore_hosts (s : State) (c : Nat) (v : Core) : (s.setCore c v).hosts = s.hosts := rfl
@[simp] theorem State.setCore_nextLaunch (s : State) (c : Nat) (v : Core) : (s.setCore c v).nextLaunch = s.nextLaunch := rfl
@[simp] theorem State.setCore_nextSid (s : State) (c : Nat) (v : Core) : (s.setCore c v).nextSid = s.nextSid := rfl
@[simp] theorem State.setCore_nextOp (s : State) (c : Nat) (v : Core) : (s.setCore c v).nextOp = s.nextOp := rfl
@[simp] theorem State.setCore_cycle (s : State) (c : Nat) (v : Core) : (s.setCore c v).cycle = s.cycle := rfl
@[simp] theorem State.setCore_time (s : State) (c : Nat) (v : Core) : (s.setCore c v).time = s.time := rfl
@[simp] theorem State.setCore_timeFrac (s : State) (c : Nat) (v : Core) : (s.setCore c v).timeFrac = s.timeFrac := rfl
@[simp] theorem State.setCore_rate (s : State) (c : Nat) (v : Core) : (s.setCore c v).rate = s.rate := rfl
@[simp] theorem State.setCore_ebound (s : State) (c : Nat) (v : Core) : (s.setCore c v).ebound = s.ebound := rfl
@[simp] theorem State.setCore_bc (s : State) (c : Nat) (v : Core) : (s.setCore c v).bc = s.bc := rfl
@[simp] theorem State.setCore_lock (s : State) (c : Nat) (v : Core) : (s.setCore c v).lock = s.lock := rfl
@[simp] theorem State.setCore_ptpDomain (s : State) (c : Nat) (v : Core) : (s.setCore c v).ptpDomain = s.ptpDomain := rfl
@[simp] theorem State.setCore_ptpPorts (s : State) (c : Nat) (v : Core) : (s.setCore c v).ptpPorts = s.ptpPorts := rfl
@[simp] theorem State.setCore_ptpPeer (s : State) (c : Nat) (v : Core) : (s.setCore c v).ptpPeer = s.ptpPeer := rfl
@[simp] theorem State.setCore_boot (s : State) (c : Nat) (v : Core) : (s.setCore c v).boot = s.boot := rfl
@[simp] theorem State.setCore_gfloor (s : State) (c : Nat) (v : Core) : (s.setCore c v).gfloor = s.gfloor := rfl
@[simp] theorem State.setCore_decTable (s : State) (c : Nat) (v : Core) : (s.setCore c v).decTable = s.decTable := rfl
@[simp] theorem State.setCore_decImage (s : State) (c : Nat) (v : Core) : (s.setCore c v).decImage = s.decImage := rfl
@[simp] theorem State.setCore_firmware (s : State) (c : Nat) (v : Core) : (s.setCore c v).firmware = s.firmware := rfl
@[simp] theorem State.setCore_nextFirmware (s : State) (c : Nat) (v : Core) : (s.setCore c v).nextFirmware = s.nextFirmware := rfl
@[simp] theorem State.setCore_fseq (s : State) (c : Nat) (v : Core) : (s.setCore c v).fseq = s.fseq := rfl
@[simp] theorem State.setCore_hseq (s : State) (c : Nat) (v : Core) : (s.setCore c v).hseq = s.hseq := rfl
@[simp] theorem State.setCore_samples (s : State) (c : Nat) (v : Core) : (s.setCore c v).samples = s.samples := rfl
@[simp] theorem State.setCore_spent (s : State) (c : Nat) (v : Core) : (s.setCore c v).spent = s.spent := rfl
@[simp] theorem State.setCore_retiring (s : State) (c : Nat) (v : Core) : (s.setCore c v).retiring = s.retiring := rfl
@[simp] theorem State.setCore_noSpare (s : State) (c : Nat) (v : Core) : (s.setCore c v).noSpare = s.noSpare := rfl
@[simp] theorem State.setCore_ckArea (s : State) (c : Nat) (v : Core) : (s.setCore c v).ckArea = s.ckArea := rfl
@[simp] theorem State.setCore_ckAsked (s : State) (c : Nat) (v : Core) : (s.setCore c v).ckAsked = s.ckAsked := rfl
@[simp] theorem State.setCore_held (s : State) (c : Nat) (v : Core) : (s.setCore c v).held = s.held := rfl
@[simp] theorem State.setCore_heldFrom (s : State) (c : Nat) (v : Core) : (s.setCore c v).heldFrom = s.heldFrom := rfl
@[simp] theorem State.setCore_trigger (s : State) (c : Nat) (v : Core) : (s.setCore c v).trigger = s.trigger := rfl
@[simp] theorem State.setCore_ckRun (s : State) (c : Nat) (v : Core) : (s.setCore c v).ckRun = s.ckRun := rfl
@[simp] theorem State.setCore_ckSeq (s : State) (c : Nat) (v : Core) : (s.setCore c v).ckSeq = s.ckSeq := rfl
@[simp] theorem State.setCore_ckEnd (s : State) (c : Nat) (v : Core) : (s.setCore c v).ckEnd = s.ckEnd := rfl
@[simp] theorem State.setCore_holds (s : State) (c : Nat) (v : Core) : (s.setCore c v).holds = s.holds := rfl
@[simp] theorem State.setCore_dirtyArmed (s : State) (c : Nat) (v : Core) : (s.setCore c v).dirtyArmed = s.dirtyArmed := rfl
@[simp] theorem State.setCore_image (s : State) (c : Nat) (v : Core) : (s.setCore c v).image = s.image := rfl
@[simp] theorem State.setCore_logArea (s : State) (c : Nat) (v : Core) : (s.setCore c v).logArea = s.logArea := rfl
@[simp] theorem State.setCore_logPos (s : State) (c : Nat) (v : Core) : (s.setCore c v).logPos = s.logPos := rfl
@[simp] theorem State.setCore_lseq (s : State) (c : Nat) (v : Core) : (s.setCore c v).lseq = s.lseq := rfl
@[simp] theorem State.setCore_logOn (s : State) (c : Nat) (v : Core) : (s.setCore c v).logOn = s.logOn := rfl
@[simp] theorem State.setCore_logMarker (s : State) (c : Nat) (v : Core) : (s.setCore c v).logMarker = s.logMarker := rfl
@[simp] theorem State.setCore_logDec (s : State) (c : Nat) (v : Core) : (s.setCore c v).logDec = s.logDec := rfl
@[simp] theorem State.setCore_coh (s : State) (c : Nat) (v : Core) : (s.setCore c v).coh = s.coh := rfl
@[simp] theorem State.setCore_places (s : State) (c : Nat) (v : Core) : (s.setCore c v).places = s.places := rfl
@[simp] theorem State.setCore_loads (s : State) (c : Nat) (v : Core) : (s.setCore c v).loads = s.loads := rfl
@[simp] theorem State.setCore_replay (s : State) (c : Nat) (v : Core) : (s.setCore c v).replay = s.replay := rfl
@[simp] theorem State.setCore_frozen (s : State) (c : Nat) (v : Core) : (s.setCore c v).frozen = s.frozen := rfl
@[simp] theorem State.setCore_out (s : State) (c : Nat) (v : Core) : (s.setCore c v).out = s.out := rfl
@[simp] theorem State.setCore_agenda (s : State) (c : Nat) (v : Core) : (s.setCore c v).agenda = s.agenda := rfl
@[simp] theorem State.setCore_fresh (s : State) (c : Nat) (v : Core) : (s.setCore c v).fresh = s.fresh := rfl

/-! ### State.setCluster -/

@[simp] theorem State.setCluster_me (s : State) (k : Nat) (v : Cluster) : (s.setCluster k v).me = s.me := rfl
@[simp] theorem State.setCluster_wfront (s : State) (k : Nat) (v : Cluster) : (s.setCluster k v).wfront = s.wfront := rfl
@[simp] theorem State.setCluster_strands (s : State) (k : Nat) (v : Cluster) : (s.setCluster k v).strands = s.strands := rfl
@[simp] theorem State.setCluster_cores (s : State) (k : Nat) (v : Cluster) : (s.setCluster k v).cores = s.cores := rfl
@[simp] theorem State.setCluster_mem (s : State) (k : Nat) (v : Cluster) : (s.setCluster k v).mem = s.mem := rfl
@[simp] theorem State.setCluster_bad (s : State) (k : Nat) (v : Cluster) : (s.setCluster k v).bad = s.bad := rfl
@[simp] theorem State.setCluster_wbad (s : State) (k : Nat) (v : Cluster) : (s.setCluster k v).wbad = s.wbad := rfl
@[simp] theorem State.setCluster_ctxs (s : State) (k : Nat) (v : Cluster) : (s.setCluster k v).ctxs = s.ctxs := rfl
@[simp] theorem State.setCluster_parts (s : State) (k : Nat) (v : Cluster) : (s.setCluster k v).parts = s.parts := rfl
@[simp] theorem State.setCluster_queues (s : State) (k : Nat) (v : Cluster) : (s.setCluster k v).queues = s.queues := rfl
@[simp] theorem State.setCluster_launches (s : State) (k : Nat) (v : Cluster) : (s.setCluster k v).launches = s.launches := rfl
@[simp] theorem State.setCluster_fabs (s : State) (k : Nat) (v : Cluster) : (s.setCluster k v).fabs = s.fabs := rfl
@[simp] theorem State.setCluster_wins (s : State) (k : Nat) (v : Cluster) : (s.setCluster k v).wins = s.wins := rfl
@[simp] theorem State.setCluster_groups (s : State) (k : Nat) (v : Cluster) : (s.setCluster k v).groups = s.groups := rfl
@[simp] theorem State.setCluster_hosts (s : State) (k : Nat) (v : Cluster) : (s.setCluster k v).hosts = s.hosts := rfl
@[simp] theorem State.setCluster_nextLaunch (s : State) (k : Nat) (v : Cluster) : (s.setCluster k v).nextLaunch = s.nextLaunch := rfl
@[simp] theorem State.setCluster_nextSid (s : State) (k : Nat) (v : Cluster) : (s.setCluster k v).nextSid = s.nextSid := rfl
@[simp] theorem State.setCluster_nextOp (s : State) (k : Nat) (v : Cluster) : (s.setCluster k v).nextOp = s.nextOp := rfl
@[simp] theorem State.setCluster_cycle (s : State) (k : Nat) (v : Cluster) : (s.setCluster k v).cycle = s.cycle := rfl
@[simp] theorem State.setCluster_time (s : State) (k : Nat) (v : Cluster) : (s.setCluster k v).time = s.time := rfl
@[simp] theorem State.setCluster_timeFrac (s : State) (k : Nat) (v : Cluster) : (s.setCluster k v).timeFrac = s.timeFrac := rfl
@[simp] theorem State.setCluster_rate (s : State) (k : Nat) (v : Cluster) : (s.setCluster k v).rate = s.rate := rfl
@[simp] theorem State.setCluster_ebound (s : State) (k : Nat) (v : Cluster) : (s.setCluster k v).ebound = s.ebound := rfl
@[simp] theorem State.setCluster_bc (s : State) (k : Nat) (v : Cluster) : (s.setCluster k v).bc = s.bc := rfl
@[simp] theorem State.setCluster_lock (s : State) (k : Nat) (v : Cluster) : (s.setCluster k v).lock = s.lock := rfl
@[simp] theorem State.setCluster_ptpDomain (s : State) (k : Nat) (v : Cluster) : (s.setCluster k v).ptpDomain = s.ptpDomain := rfl
@[simp] theorem State.setCluster_ptpPorts (s : State) (k : Nat) (v : Cluster) : (s.setCluster k v).ptpPorts = s.ptpPorts := rfl
@[simp] theorem State.setCluster_ptpPeer (s : State) (k : Nat) (v : Cluster) : (s.setCluster k v).ptpPeer = s.ptpPeer := rfl
@[simp] theorem State.setCluster_boot (s : State) (k : Nat) (v : Cluster) : (s.setCluster k v).boot = s.boot := rfl
@[simp] theorem State.setCluster_gfloor (s : State) (k : Nat) (v : Cluster) : (s.setCluster k v).gfloor = s.gfloor := rfl
@[simp] theorem State.setCluster_decTable (s : State) (k : Nat) (v : Cluster) : (s.setCluster k v).decTable = s.decTable := rfl
@[simp] theorem State.setCluster_decImage (s : State) (k : Nat) (v : Cluster) : (s.setCluster k v).decImage = s.decImage := rfl
@[simp] theorem State.setCluster_firmware (s : State) (k : Nat) (v : Cluster) : (s.setCluster k v).firmware = s.firmware := rfl
@[simp] theorem State.setCluster_nextFirmware (s : State) (k : Nat) (v : Cluster) : (s.setCluster k v).nextFirmware = s.nextFirmware := rfl
@[simp] theorem State.setCluster_fseq (s : State) (k : Nat) (v : Cluster) : (s.setCluster k v).fseq = s.fseq := rfl
@[simp] theorem State.setCluster_hseq (s : State) (k : Nat) (v : Cluster) : (s.setCluster k v).hseq = s.hseq := rfl
@[simp] theorem State.setCluster_samples (s : State) (k : Nat) (v : Cluster) : (s.setCluster k v).samples = s.samples := rfl
@[simp] theorem State.setCluster_spent (s : State) (k : Nat) (v : Cluster) : (s.setCluster k v).spent = s.spent := rfl
@[simp] theorem State.setCluster_retiring (s : State) (k : Nat) (v : Cluster) : (s.setCluster k v).retiring = s.retiring := rfl
@[simp] theorem State.setCluster_noSpare (s : State) (k : Nat) (v : Cluster) : (s.setCluster k v).noSpare = s.noSpare := rfl
@[simp] theorem State.setCluster_ckArea (s : State) (k : Nat) (v : Cluster) : (s.setCluster k v).ckArea = s.ckArea := rfl
@[simp] theorem State.setCluster_ckAsked (s : State) (k : Nat) (v : Cluster) : (s.setCluster k v).ckAsked = s.ckAsked := rfl
@[simp] theorem State.setCluster_held (s : State) (k : Nat) (v : Cluster) : (s.setCluster k v).held = s.held := rfl
@[simp] theorem State.setCluster_heldFrom (s : State) (k : Nat) (v : Cluster) : (s.setCluster k v).heldFrom = s.heldFrom := rfl
@[simp] theorem State.setCluster_trigger (s : State) (k : Nat) (v : Cluster) : (s.setCluster k v).trigger = s.trigger := rfl
@[simp] theorem State.setCluster_ckRun (s : State) (k : Nat) (v : Cluster) : (s.setCluster k v).ckRun = s.ckRun := rfl
@[simp] theorem State.setCluster_ckSeq (s : State) (k : Nat) (v : Cluster) : (s.setCluster k v).ckSeq = s.ckSeq := rfl
@[simp] theorem State.setCluster_ckEnd (s : State) (k : Nat) (v : Cluster) : (s.setCluster k v).ckEnd = s.ckEnd := rfl
@[simp] theorem State.setCluster_holds (s : State) (k : Nat) (v : Cluster) : (s.setCluster k v).holds = s.holds := rfl
@[simp] theorem State.setCluster_dirtyArmed (s : State) (k : Nat) (v : Cluster) : (s.setCluster k v).dirtyArmed = s.dirtyArmed := rfl
@[simp] theorem State.setCluster_image (s : State) (k : Nat) (v : Cluster) : (s.setCluster k v).image = s.image := rfl
@[simp] theorem State.setCluster_logArea (s : State) (k : Nat) (v : Cluster) : (s.setCluster k v).logArea = s.logArea := rfl
@[simp] theorem State.setCluster_logPos (s : State) (k : Nat) (v : Cluster) : (s.setCluster k v).logPos = s.logPos := rfl
@[simp] theorem State.setCluster_lseq (s : State) (k : Nat) (v : Cluster) : (s.setCluster k v).lseq = s.lseq := rfl
@[simp] theorem State.setCluster_logOn (s : State) (k : Nat) (v : Cluster) : (s.setCluster k v).logOn = s.logOn := rfl
@[simp] theorem State.setCluster_logMarker (s : State) (k : Nat) (v : Cluster) : (s.setCluster k v).logMarker = s.logMarker := rfl
@[simp] theorem State.setCluster_logDec (s : State) (k : Nat) (v : Cluster) : (s.setCluster k v).logDec = s.logDec := rfl
@[simp] theorem State.setCluster_coh (s : State) (k : Nat) (v : Cluster) : (s.setCluster k v).coh = s.coh := rfl
@[simp] theorem State.setCluster_places (s : State) (k : Nat) (v : Cluster) : (s.setCluster k v).places = s.places := rfl
@[simp] theorem State.setCluster_loads (s : State) (k : Nat) (v : Cluster) : (s.setCluster k v).loads = s.loads := rfl
@[simp] theorem State.setCluster_replay (s : State) (k : Nat) (v : Cluster) : (s.setCluster k v).replay = s.replay := rfl
@[simp] theorem State.setCluster_frozen (s : State) (k : Nat) (v : Cluster) : (s.setCluster k v).frozen = s.frozen := rfl
@[simp] theorem State.setCluster_out (s : State) (k : Nat) (v : Cluster) : (s.setCluster k v).out = s.out := rfl
@[simp] theorem State.setCluster_agenda (s : State) (k : Nat) (v : Cluster) : (s.setCluster k v).agenda = s.agenda := rfl
@[simp] theorem State.setCluster_fresh (s : State) (k : Nat) (v : Cluster) : (s.setCluster k v).fresh = s.fresh := rfl

/-! ### State.setQueue -/

@[simp] theorem State.setQueue_me (s : State) (q : Queue) : (s.setQueue q).me = s.me := rfl
@[simp] theorem State.setQueue_wfront (s : State) (q : Queue) : (s.setQueue q).wfront = s.wfront := rfl
@[simp] theorem State.setQueue_strands (s : State) (q : Queue) : (s.setQueue q).strands = s.strands := rfl
@[simp] theorem State.setQueue_cores (s : State) (q : Queue) : (s.setQueue q).cores = s.cores := rfl
@[simp] theorem State.setQueue_clusters (s : State) (q : Queue) : (s.setQueue q).clusters = s.clusters := rfl
@[simp] theorem State.setQueue_mem (s : State) (q : Queue) : (s.setQueue q).mem = s.mem := rfl
@[simp] theorem State.setQueue_bad (s : State) (q : Queue) : (s.setQueue q).bad = s.bad := rfl
@[simp] theorem State.setQueue_wbad (s : State) (q : Queue) : (s.setQueue q).wbad = s.wbad := rfl
@[simp] theorem State.setQueue_ctxs (s : State) (q : Queue) : (s.setQueue q).ctxs = s.ctxs := rfl
@[simp] theorem State.setQueue_parts (s : State) (q : Queue) : (s.setQueue q).parts = s.parts := rfl
@[simp] theorem State.setQueue_launches (s : State) (q : Queue) : (s.setQueue q).launches = s.launches := rfl
@[simp] theorem State.setQueue_fabs (s : State) (q : Queue) : (s.setQueue q).fabs = s.fabs := rfl
@[simp] theorem State.setQueue_wins (s : State) (q : Queue) : (s.setQueue q).wins = s.wins := rfl
@[simp] theorem State.setQueue_groups (s : State) (q : Queue) : (s.setQueue q).groups = s.groups := rfl
@[simp] theorem State.setQueue_hosts (s : State) (q : Queue) : (s.setQueue q).hosts = s.hosts := rfl
@[simp] theorem State.setQueue_nextLaunch (s : State) (q : Queue) : (s.setQueue q).nextLaunch = s.nextLaunch := rfl
@[simp] theorem State.setQueue_nextSid (s : State) (q : Queue) : (s.setQueue q).nextSid = s.nextSid := rfl
@[simp] theorem State.setQueue_nextOp (s : State) (q : Queue) : (s.setQueue q).nextOp = s.nextOp := rfl
@[simp] theorem State.setQueue_cycle (s : State) (q : Queue) : (s.setQueue q).cycle = s.cycle := rfl
@[simp] theorem State.setQueue_time (s : State) (q : Queue) : (s.setQueue q).time = s.time := rfl
@[simp] theorem State.setQueue_timeFrac (s : State) (q : Queue) : (s.setQueue q).timeFrac = s.timeFrac := rfl
@[simp] theorem State.setQueue_rate (s : State) (q : Queue) : (s.setQueue q).rate = s.rate := rfl
@[simp] theorem State.setQueue_ebound (s : State) (q : Queue) : (s.setQueue q).ebound = s.ebound := rfl
@[simp] theorem State.setQueue_bc (s : State) (q : Queue) : (s.setQueue q).bc = s.bc := rfl
@[simp] theorem State.setQueue_lock (s : State) (q : Queue) : (s.setQueue q).lock = s.lock := rfl
@[simp] theorem State.setQueue_ptpDomain (s : State) (q : Queue) : (s.setQueue q).ptpDomain = s.ptpDomain := rfl
@[simp] theorem State.setQueue_ptpPorts (s : State) (q : Queue) : (s.setQueue q).ptpPorts = s.ptpPorts := rfl
@[simp] theorem State.setQueue_ptpPeer (s : State) (q : Queue) : (s.setQueue q).ptpPeer = s.ptpPeer := rfl
@[simp] theorem State.setQueue_boot (s : State) (q : Queue) : (s.setQueue q).boot = s.boot := rfl
@[simp] theorem State.setQueue_gfloor (s : State) (q : Queue) : (s.setQueue q).gfloor = s.gfloor := rfl
@[simp] theorem State.setQueue_decTable (s : State) (q : Queue) : (s.setQueue q).decTable = s.decTable := rfl
@[simp] theorem State.setQueue_decImage (s : State) (q : Queue) : (s.setQueue q).decImage = s.decImage := rfl
@[simp] theorem State.setQueue_firmware (s : State) (q : Queue) : (s.setQueue q).firmware = s.firmware := rfl
@[simp] theorem State.setQueue_nextFirmware (s : State) (q : Queue) : (s.setQueue q).nextFirmware = s.nextFirmware := rfl
@[simp] theorem State.setQueue_fseq (s : State) (q : Queue) : (s.setQueue q).fseq = s.fseq := rfl
@[simp] theorem State.setQueue_hseq (s : State) (q : Queue) : (s.setQueue q).hseq = s.hseq := rfl
@[simp] theorem State.setQueue_samples (s : State) (q : Queue) : (s.setQueue q).samples = s.samples := rfl
@[simp] theorem State.setQueue_spent (s : State) (q : Queue) : (s.setQueue q).spent = s.spent := rfl
@[simp] theorem State.setQueue_retiring (s : State) (q : Queue) : (s.setQueue q).retiring = s.retiring := rfl
@[simp] theorem State.setQueue_noSpare (s : State) (q : Queue) : (s.setQueue q).noSpare = s.noSpare := rfl
@[simp] theorem State.setQueue_ckArea (s : State) (q : Queue) : (s.setQueue q).ckArea = s.ckArea := rfl
@[simp] theorem State.setQueue_ckAsked (s : State) (q : Queue) : (s.setQueue q).ckAsked = s.ckAsked := rfl
@[simp] theorem State.setQueue_held (s : State) (q : Queue) : (s.setQueue q).held = s.held := rfl
@[simp] theorem State.setQueue_heldFrom (s : State) (q : Queue) : (s.setQueue q).heldFrom = s.heldFrom := rfl
@[simp] theorem State.setQueue_trigger (s : State) (q : Queue) : (s.setQueue q).trigger = s.trigger := rfl
@[simp] theorem State.setQueue_ckRun (s : State) (q : Queue) : (s.setQueue q).ckRun = s.ckRun := rfl
@[simp] theorem State.setQueue_ckSeq (s : State) (q : Queue) : (s.setQueue q).ckSeq = s.ckSeq := rfl
@[simp] theorem State.setQueue_ckEnd (s : State) (q : Queue) : (s.setQueue q).ckEnd = s.ckEnd := rfl
@[simp] theorem State.setQueue_holds (s : State) (q : Queue) : (s.setQueue q).holds = s.holds := rfl
@[simp] theorem State.setQueue_dirtyArmed (s : State) (q : Queue) : (s.setQueue q).dirtyArmed = s.dirtyArmed := rfl
@[simp] theorem State.setQueue_image (s : State) (q : Queue) : (s.setQueue q).image = s.image := rfl
@[simp] theorem State.setQueue_logArea (s : State) (q : Queue) : (s.setQueue q).logArea = s.logArea := rfl
@[simp] theorem State.setQueue_logPos (s : State) (q : Queue) : (s.setQueue q).logPos = s.logPos := rfl
@[simp] theorem State.setQueue_lseq (s : State) (q : Queue) : (s.setQueue q).lseq = s.lseq := rfl
@[simp] theorem State.setQueue_logOn (s : State) (q : Queue) : (s.setQueue q).logOn = s.logOn := rfl
@[simp] theorem State.setQueue_logMarker (s : State) (q : Queue) : (s.setQueue q).logMarker = s.logMarker := rfl
@[simp] theorem State.setQueue_logDec (s : State) (q : Queue) : (s.setQueue q).logDec = s.logDec := rfl
@[simp] theorem State.setQueue_coh (s : State) (q : Queue) : (s.setQueue q).coh = s.coh := rfl
@[simp] theorem State.setQueue_places (s : State) (q : Queue) : (s.setQueue q).places = s.places := rfl
@[simp] theorem State.setQueue_loads (s : State) (q : Queue) : (s.setQueue q).loads = s.loads := rfl
@[simp] theorem State.setQueue_replay (s : State) (q : Queue) : (s.setQueue q).replay = s.replay := rfl
@[simp] theorem State.setQueue_frozen (s : State) (q : Queue) : (s.setQueue q).frozen = s.frozen := rfl
@[simp] theorem State.setQueue_out (s : State) (q : Queue) : (s.setQueue q).out = s.out := rfl
@[simp] theorem State.setQueue_agenda (s : State) (q : Queue) : (s.setQueue q).agenda = s.agenda := rfl
@[simp] theorem State.setQueue_fresh (s : State) (q : Queue) : (s.setQueue q).fresh = s.fresh := rfl

/-! ### State.setLaunch -/

@[simp] theorem State.setLaunch_me (s : State) (l : Launch) : (s.setLaunch l).me = s.me := rfl
@[simp] theorem State.setLaunch_wfront (s : State) (l : Launch) : (s.setLaunch l).wfront = s.wfront := rfl
@[simp] theorem State.setLaunch_strands (s : State) (l : Launch) : (s.setLaunch l).strands = s.strands := rfl
@[simp] theorem State.setLaunch_cores (s : State) (l : Launch) : (s.setLaunch l).cores = s.cores := rfl
@[simp] theorem State.setLaunch_clusters (s : State) (l : Launch) : (s.setLaunch l).clusters = s.clusters := rfl
@[simp] theorem State.setLaunch_mem (s : State) (l : Launch) : (s.setLaunch l).mem = s.mem := rfl
@[simp] theorem State.setLaunch_bad (s : State) (l : Launch) : (s.setLaunch l).bad = s.bad := rfl
@[simp] theorem State.setLaunch_wbad (s : State) (l : Launch) : (s.setLaunch l).wbad = s.wbad := rfl
@[simp] theorem State.setLaunch_ctxs (s : State) (l : Launch) : (s.setLaunch l).ctxs = s.ctxs := rfl
@[simp] theorem State.setLaunch_parts (s : State) (l : Launch) : (s.setLaunch l).parts = s.parts := rfl
@[simp] theorem State.setLaunch_queues (s : State) (l : Launch) : (s.setLaunch l).queues = s.queues := rfl
@[simp] theorem State.setLaunch_fabs (s : State) (l : Launch) : (s.setLaunch l).fabs = s.fabs := rfl
@[simp] theorem State.setLaunch_wins (s : State) (l : Launch) : (s.setLaunch l).wins = s.wins := rfl
@[simp] theorem State.setLaunch_groups (s : State) (l : Launch) : (s.setLaunch l).groups = s.groups := rfl
@[simp] theorem State.setLaunch_hosts (s : State) (l : Launch) : (s.setLaunch l).hosts = s.hosts := rfl
@[simp] theorem State.setLaunch_nextLaunch (s : State) (l : Launch) : (s.setLaunch l).nextLaunch = s.nextLaunch := rfl
@[simp] theorem State.setLaunch_nextSid (s : State) (l : Launch) : (s.setLaunch l).nextSid = s.nextSid := rfl
@[simp] theorem State.setLaunch_nextOp (s : State) (l : Launch) : (s.setLaunch l).nextOp = s.nextOp := rfl
@[simp] theorem State.setLaunch_cycle (s : State) (l : Launch) : (s.setLaunch l).cycle = s.cycle := rfl
@[simp] theorem State.setLaunch_time (s : State) (l : Launch) : (s.setLaunch l).time = s.time := rfl
@[simp] theorem State.setLaunch_timeFrac (s : State) (l : Launch) : (s.setLaunch l).timeFrac = s.timeFrac := rfl
@[simp] theorem State.setLaunch_rate (s : State) (l : Launch) : (s.setLaunch l).rate = s.rate := rfl
@[simp] theorem State.setLaunch_ebound (s : State) (l : Launch) : (s.setLaunch l).ebound = s.ebound := rfl
@[simp] theorem State.setLaunch_bc (s : State) (l : Launch) : (s.setLaunch l).bc = s.bc := rfl
@[simp] theorem State.setLaunch_lock (s : State) (l : Launch) : (s.setLaunch l).lock = s.lock := rfl
@[simp] theorem State.setLaunch_ptpDomain (s : State) (l : Launch) : (s.setLaunch l).ptpDomain = s.ptpDomain := rfl
@[simp] theorem State.setLaunch_ptpPorts (s : State) (l : Launch) : (s.setLaunch l).ptpPorts = s.ptpPorts := rfl
@[simp] theorem State.setLaunch_ptpPeer (s : State) (l : Launch) : (s.setLaunch l).ptpPeer = s.ptpPeer := rfl
@[simp] theorem State.setLaunch_boot (s : State) (l : Launch) : (s.setLaunch l).boot = s.boot := rfl
@[simp] theorem State.setLaunch_gfloor (s : State) (l : Launch) : (s.setLaunch l).gfloor = s.gfloor := rfl
@[simp] theorem State.setLaunch_decTable (s : State) (l : Launch) : (s.setLaunch l).decTable = s.decTable := rfl
@[simp] theorem State.setLaunch_decImage (s : State) (l : Launch) : (s.setLaunch l).decImage = s.decImage := rfl
@[simp] theorem State.setLaunch_firmware (s : State) (l : Launch) : (s.setLaunch l).firmware = s.firmware := rfl
@[simp] theorem State.setLaunch_nextFirmware (s : State) (l : Launch) : (s.setLaunch l).nextFirmware = s.nextFirmware := rfl
@[simp] theorem State.setLaunch_fseq (s : State) (l : Launch) : (s.setLaunch l).fseq = s.fseq := rfl
@[simp] theorem State.setLaunch_hseq (s : State) (l : Launch) : (s.setLaunch l).hseq = s.hseq := rfl
@[simp] theorem State.setLaunch_samples (s : State) (l : Launch) : (s.setLaunch l).samples = s.samples := rfl
@[simp] theorem State.setLaunch_spent (s : State) (l : Launch) : (s.setLaunch l).spent = s.spent := rfl
@[simp] theorem State.setLaunch_retiring (s : State) (l : Launch) : (s.setLaunch l).retiring = s.retiring := rfl
@[simp] theorem State.setLaunch_noSpare (s : State) (l : Launch) : (s.setLaunch l).noSpare = s.noSpare := rfl
@[simp] theorem State.setLaunch_ckArea (s : State) (l : Launch) : (s.setLaunch l).ckArea = s.ckArea := rfl
@[simp] theorem State.setLaunch_ckAsked (s : State) (l : Launch) : (s.setLaunch l).ckAsked = s.ckAsked := rfl
@[simp] theorem State.setLaunch_held (s : State) (l : Launch) : (s.setLaunch l).held = s.held := rfl
@[simp] theorem State.setLaunch_heldFrom (s : State) (l : Launch) : (s.setLaunch l).heldFrom = s.heldFrom := rfl
@[simp] theorem State.setLaunch_trigger (s : State) (l : Launch) : (s.setLaunch l).trigger = s.trigger := rfl
@[simp] theorem State.setLaunch_ckRun (s : State) (l : Launch) : (s.setLaunch l).ckRun = s.ckRun := rfl
@[simp] theorem State.setLaunch_ckSeq (s : State) (l : Launch) : (s.setLaunch l).ckSeq = s.ckSeq := rfl
@[simp] theorem State.setLaunch_ckEnd (s : State) (l : Launch) : (s.setLaunch l).ckEnd = s.ckEnd := rfl
@[simp] theorem State.setLaunch_holds (s : State) (l : Launch) : (s.setLaunch l).holds = s.holds := rfl
@[simp] theorem State.setLaunch_dirtyArmed (s : State) (l : Launch) : (s.setLaunch l).dirtyArmed = s.dirtyArmed := rfl
@[simp] theorem State.setLaunch_image (s : State) (l : Launch) : (s.setLaunch l).image = s.image := rfl
@[simp] theorem State.setLaunch_logArea (s : State) (l : Launch) : (s.setLaunch l).logArea = s.logArea := rfl
@[simp] theorem State.setLaunch_logPos (s : State) (l : Launch) : (s.setLaunch l).logPos = s.logPos := rfl
@[simp] theorem State.setLaunch_lseq (s : State) (l : Launch) : (s.setLaunch l).lseq = s.lseq := rfl
@[simp] theorem State.setLaunch_logOn (s : State) (l : Launch) : (s.setLaunch l).logOn = s.logOn := rfl
@[simp] theorem State.setLaunch_logMarker (s : State) (l : Launch) : (s.setLaunch l).logMarker = s.logMarker := rfl
@[simp] theorem State.setLaunch_logDec (s : State) (l : Launch) : (s.setLaunch l).logDec = s.logDec := rfl
@[simp] theorem State.setLaunch_coh (s : State) (l : Launch) : (s.setLaunch l).coh = s.coh := rfl
@[simp] theorem State.setLaunch_places (s : State) (l : Launch) : (s.setLaunch l).places = s.places := rfl
@[simp] theorem State.setLaunch_loads (s : State) (l : Launch) : (s.setLaunch l).loads = s.loads := rfl
@[simp] theorem State.setLaunch_replay (s : State) (l : Launch) : (s.setLaunch l).replay = s.replay := rfl
@[simp] theorem State.setLaunch_frozen (s : State) (l : Launch) : (s.setLaunch l).frozen = s.frozen := rfl
@[simp] theorem State.setLaunch_out (s : State) (l : Launch) : (s.setLaunch l).out = s.out := rfl
@[simp] theorem State.setLaunch_agenda (s : State) (l : Launch) : (s.setLaunch l).agenda = s.agenda := rfl
@[simp] theorem State.setLaunch_fresh (s : State) (l : Launch) : (s.setLaunch l).fresh = s.fresh := rfl

/-! ### State.setCtx -/

@[simp] theorem State.setCtx_me (s : State) (c : Ctx) : (s.setCtx c).me = s.me := rfl
@[simp] theorem State.setCtx_wfront (s : State) (c : Ctx) : (s.setCtx c).wfront = s.wfront := rfl
@[simp] theorem State.setCtx_strands (s : State) (c : Ctx) : (s.setCtx c).strands = s.strands := rfl
@[simp] theorem State.setCtx_cores (s : State) (c : Ctx) : (s.setCtx c).cores = s.cores := rfl
@[simp] theorem State.setCtx_clusters (s : State) (c : Ctx) : (s.setCtx c).clusters = s.clusters := rfl
@[simp] theorem State.setCtx_mem (s : State) (c : Ctx) : (s.setCtx c).mem = s.mem := rfl
@[simp] theorem State.setCtx_bad (s : State) (c : Ctx) : (s.setCtx c).bad = s.bad := rfl
@[simp] theorem State.setCtx_wbad (s : State) (c : Ctx) : (s.setCtx c).wbad = s.wbad := rfl
@[simp] theorem State.setCtx_parts (s : State) (c : Ctx) : (s.setCtx c).parts = s.parts := rfl
@[simp] theorem State.setCtx_queues (s : State) (c : Ctx) : (s.setCtx c).queues = s.queues := rfl
@[simp] theorem State.setCtx_launches (s : State) (c : Ctx) : (s.setCtx c).launches = s.launches := rfl
@[simp] theorem State.setCtx_fabs (s : State) (c : Ctx) : (s.setCtx c).fabs = s.fabs := rfl
@[simp] theorem State.setCtx_wins (s : State) (c : Ctx) : (s.setCtx c).wins = s.wins := rfl
@[simp] theorem State.setCtx_groups (s : State) (c : Ctx) : (s.setCtx c).groups = s.groups := rfl
@[simp] theorem State.setCtx_hosts (s : State) (c : Ctx) : (s.setCtx c).hosts = s.hosts := rfl
@[simp] theorem State.setCtx_nextLaunch (s : State) (c : Ctx) : (s.setCtx c).nextLaunch = s.nextLaunch := rfl
@[simp] theorem State.setCtx_nextSid (s : State) (c : Ctx) : (s.setCtx c).nextSid = s.nextSid := rfl
@[simp] theorem State.setCtx_nextOp (s : State) (c : Ctx) : (s.setCtx c).nextOp = s.nextOp := rfl
@[simp] theorem State.setCtx_cycle (s : State) (c : Ctx) : (s.setCtx c).cycle = s.cycle := rfl
@[simp] theorem State.setCtx_time (s : State) (c : Ctx) : (s.setCtx c).time = s.time := rfl
@[simp] theorem State.setCtx_timeFrac (s : State) (c : Ctx) : (s.setCtx c).timeFrac = s.timeFrac := rfl
@[simp] theorem State.setCtx_rate (s : State) (c : Ctx) : (s.setCtx c).rate = s.rate := rfl
@[simp] theorem State.setCtx_ebound (s : State) (c : Ctx) : (s.setCtx c).ebound = s.ebound := rfl
@[simp] theorem State.setCtx_bc (s : State) (c : Ctx) : (s.setCtx c).bc = s.bc := rfl
@[simp] theorem State.setCtx_lock (s : State) (c : Ctx) : (s.setCtx c).lock = s.lock := rfl
@[simp] theorem State.setCtx_ptpDomain (s : State) (c : Ctx) : (s.setCtx c).ptpDomain = s.ptpDomain := rfl
@[simp] theorem State.setCtx_ptpPorts (s : State) (c : Ctx) : (s.setCtx c).ptpPorts = s.ptpPorts := rfl
@[simp] theorem State.setCtx_ptpPeer (s : State) (c : Ctx) : (s.setCtx c).ptpPeer = s.ptpPeer := rfl
@[simp] theorem State.setCtx_boot (s : State) (c : Ctx) : (s.setCtx c).boot = s.boot := rfl
@[simp] theorem State.setCtx_gfloor (s : State) (c : Ctx) : (s.setCtx c).gfloor = s.gfloor := rfl
@[simp] theorem State.setCtx_decTable (s : State) (c : Ctx) : (s.setCtx c).decTable = s.decTable := rfl
@[simp] theorem State.setCtx_decImage (s : State) (c : Ctx) : (s.setCtx c).decImage = s.decImage := rfl
@[simp] theorem State.setCtx_firmware (s : State) (c : Ctx) : (s.setCtx c).firmware = s.firmware := rfl
@[simp] theorem State.setCtx_nextFirmware (s : State) (c : Ctx) : (s.setCtx c).nextFirmware = s.nextFirmware := rfl
@[simp] theorem State.setCtx_fseq (s : State) (c : Ctx) : (s.setCtx c).fseq = s.fseq := rfl
@[simp] theorem State.setCtx_hseq (s : State) (c : Ctx) : (s.setCtx c).hseq = s.hseq := rfl
@[simp] theorem State.setCtx_samples (s : State) (c : Ctx) : (s.setCtx c).samples = s.samples := rfl
@[simp] theorem State.setCtx_spent (s : State) (c : Ctx) : (s.setCtx c).spent = s.spent := rfl
@[simp] theorem State.setCtx_retiring (s : State) (c : Ctx) : (s.setCtx c).retiring = s.retiring := rfl
@[simp] theorem State.setCtx_noSpare (s : State) (c : Ctx) : (s.setCtx c).noSpare = s.noSpare := rfl
@[simp] theorem State.setCtx_ckArea (s : State) (c : Ctx) : (s.setCtx c).ckArea = s.ckArea := rfl
@[simp] theorem State.setCtx_ckAsked (s : State) (c : Ctx) : (s.setCtx c).ckAsked = s.ckAsked := rfl
@[simp] theorem State.setCtx_held (s : State) (c : Ctx) : (s.setCtx c).held = s.held := rfl
@[simp] theorem State.setCtx_heldFrom (s : State) (c : Ctx) : (s.setCtx c).heldFrom = s.heldFrom := rfl
@[simp] theorem State.setCtx_trigger (s : State) (c : Ctx) : (s.setCtx c).trigger = s.trigger := rfl
@[simp] theorem State.setCtx_ckRun (s : State) (c : Ctx) : (s.setCtx c).ckRun = s.ckRun := rfl
@[simp] theorem State.setCtx_ckSeq (s : State) (c : Ctx) : (s.setCtx c).ckSeq = s.ckSeq := rfl
@[simp] theorem State.setCtx_ckEnd (s : State) (c : Ctx) : (s.setCtx c).ckEnd = s.ckEnd := rfl
@[simp] theorem State.setCtx_holds (s : State) (c : Ctx) : (s.setCtx c).holds = s.holds := rfl
@[simp] theorem State.setCtx_dirtyArmed (s : State) (c : Ctx) : (s.setCtx c).dirtyArmed = s.dirtyArmed := rfl
@[simp] theorem State.setCtx_image (s : State) (c : Ctx) : (s.setCtx c).image = s.image := rfl
@[simp] theorem State.setCtx_logArea (s : State) (c : Ctx) : (s.setCtx c).logArea = s.logArea := rfl
@[simp] theorem State.setCtx_logPos (s : State) (c : Ctx) : (s.setCtx c).logPos = s.logPos := rfl
@[simp] theorem State.setCtx_lseq (s : State) (c : Ctx) : (s.setCtx c).lseq = s.lseq := rfl
@[simp] theorem State.setCtx_logOn (s : State) (c : Ctx) : (s.setCtx c).logOn = s.logOn := rfl
@[simp] theorem State.setCtx_logMarker (s : State) (c : Ctx) : (s.setCtx c).logMarker = s.logMarker := rfl
@[simp] theorem State.setCtx_logDec (s : State) (c : Ctx) : (s.setCtx c).logDec = s.logDec := rfl
@[simp] theorem State.setCtx_coh (s : State) (c : Ctx) : (s.setCtx c).coh = s.coh := rfl
@[simp] theorem State.setCtx_places (s : State) (c : Ctx) : (s.setCtx c).places = s.places := rfl
@[simp] theorem State.setCtx_loads (s : State) (c : Ctx) : (s.setCtx c).loads = s.loads := rfl
@[simp] theorem State.setCtx_replay (s : State) (c : Ctx) : (s.setCtx c).replay = s.replay := rfl
@[simp] theorem State.setCtx_frozen (s : State) (c : Ctx) : (s.setCtx c).frozen = s.frozen := rfl
@[simp] theorem State.setCtx_out (s : State) (c : Ctx) : (s.setCtx c).out = s.out := rfl
@[simp] theorem State.setCtx_agenda (s : State) (c : Ctx) : (s.setCtx c).agenda = s.agenda := rfl
@[simp] theorem State.setCtx_fresh (s : State) (c : Ctx) : (s.setCtx c).fresh = s.fresh := rfl

/-! ### State.mapStrands -/

@[simp] theorem State.mapStrands_wfront (s : State) (g : Strand → Strand) : (s.mapStrands g).wfront = s.wfront := rfl
@[simp] theorem State.mapStrands_cores (s : State) (g : Strand → Strand) : (s.mapStrands g).cores = s.cores := rfl
@[simp] theorem State.mapStrands_clusters (s : State) (g : Strand → Strand) : (s.mapStrands g).clusters = s.clusters := rfl
@[simp] theorem State.mapStrands_mem (s : State) (g : Strand → Strand) : (s.mapStrands g).mem = s.mem := rfl
@[simp] theorem State.mapStrands_bad (s : State) (g : Strand → Strand) : (s.mapStrands g).bad = s.bad := rfl
@[simp] theorem State.mapStrands_wbad (s : State) (g : Strand → Strand) : (s.mapStrands g).wbad = s.wbad := rfl
@[simp] theorem State.mapStrands_ctxs (s : State) (g : Strand → Strand) : (s.mapStrands g).ctxs = s.ctxs := rfl
@[simp] theorem State.mapStrands_parts (s : State) (g : Strand → Strand) : (s.mapStrands g).parts = s.parts := rfl
@[simp] theorem State.mapStrands_queues (s : State) (g : Strand → Strand) : (s.mapStrands g).queues = s.queues := rfl
@[simp] theorem State.mapStrands_launches (s : State) (g : Strand → Strand) : (s.mapStrands g).launches = s.launches := rfl
@[simp] theorem State.mapStrands_fabs (s : State) (g : Strand → Strand) : (s.mapStrands g).fabs = s.fabs := rfl
@[simp] theorem State.mapStrands_wins (s : State) (g : Strand → Strand) : (s.mapStrands g).wins = s.wins := rfl
@[simp] theorem State.mapStrands_groups (s : State) (g : Strand → Strand) : (s.mapStrands g).groups = s.groups := rfl
@[simp] theorem State.mapStrands_hosts (s : State) (g : Strand → Strand) : (s.mapStrands g).hosts = s.hosts := rfl
@[simp] theorem State.mapStrands_nextLaunch (s : State) (g : Strand → Strand) : (s.mapStrands g).nextLaunch = s.nextLaunch := rfl
@[simp] theorem State.mapStrands_nextSid (s : State) (g : Strand → Strand) : (s.mapStrands g).nextSid = s.nextSid := rfl
@[simp] theorem State.mapStrands_nextOp (s : State) (g : Strand → Strand) : (s.mapStrands g).nextOp = s.nextOp := rfl
@[simp] theorem State.mapStrands_cycle (s : State) (g : Strand → Strand) : (s.mapStrands g).cycle = s.cycle := rfl
@[simp] theorem State.mapStrands_time (s : State) (g : Strand → Strand) : (s.mapStrands g).time = s.time := rfl
@[simp] theorem State.mapStrands_timeFrac (s : State) (g : Strand → Strand) : (s.mapStrands g).timeFrac = s.timeFrac := rfl
@[simp] theorem State.mapStrands_rate (s : State) (g : Strand → Strand) : (s.mapStrands g).rate = s.rate := rfl
@[simp] theorem State.mapStrands_ebound (s : State) (g : Strand → Strand) : (s.mapStrands g).ebound = s.ebound := rfl
@[simp] theorem State.mapStrands_bc (s : State) (g : Strand → Strand) : (s.mapStrands g).bc = s.bc := rfl
@[simp] theorem State.mapStrands_lock (s : State) (g : Strand → Strand) : (s.mapStrands g).lock = s.lock := rfl
@[simp] theorem State.mapStrands_ptpDomain (s : State) (g : Strand → Strand) : (s.mapStrands g).ptpDomain = s.ptpDomain := rfl
@[simp] theorem State.mapStrands_ptpPorts (s : State) (g : Strand → Strand) : (s.mapStrands g).ptpPorts = s.ptpPorts := rfl
@[simp] theorem State.mapStrands_ptpPeer (s : State) (g : Strand → Strand) : (s.mapStrands g).ptpPeer = s.ptpPeer := rfl
@[simp] theorem State.mapStrands_boot (s : State) (g : Strand → Strand) : (s.mapStrands g).boot = s.boot := rfl
@[simp] theorem State.mapStrands_gfloor (s : State) (g : Strand → Strand) : (s.mapStrands g).gfloor = s.gfloor := rfl
@[simp] theorem State.mapStrands_decTable (s : State) (g : Strand → Strand) : (s.mapStrands g).decTable = s.decTable := rfl
@[simp] theorem State.mapStrands_decImage (s : State) (g : Strand → Strand) : (s.mapStrands g).decImage = s.decImage := rfl
@[simp] theorem State.mapStrands_firmware (s : State) (g : Strand → Strand) : (s.mapStrands g).firmware = s.firmware := rfl
@[simp] theorem State.mapStrands_nextFirmware (s : State) (g : Strand → Strand) : (s.mapStrands g).nextFirmware = s.nextFirmware := rfl
@[simp] theorem State.mapStrands_fseq (s : State) (g : Strand → Strand) : (s.mapStrands g).fseq = s.fseq := rfl
@[simp] theorem State.mapStrands_hseq (s : State) (g : Strand → Strand) : (s.mapStrands g).hseq = s.hseq := rfl
@[simp] theorem State.mapStrands_samples (s : State) (g : Strand → Strand) : (s.mapStrands g).samples = s.samples := rfl
@[simp] theorem State.mapStrands_spent (s : State) (g : Strand → Strand) : (s.mapStrands g).spent = s.spent := rfl
@[simp] theorem State.mapStrands_retiring (s : State) (g : Strand → Strand) : (s.mapStrands g).retiring = s.retiring := rfl
@[simp] theorem State.mapStrands_noSpare (s : State) (g : Strand → Strand) : (s.mapStrands g).noSpare = s.noSpare := rfl
@[simp] theorem State.mapStrands_ckArea (s : State) (g : Strand → Strand) : (s.mapStrands g).ckArea = s.ckArea := rfl
@[simp] theorem State.mapStrands_ckAsked (s : State) (g : Strand → Strand) : (s.mapStrands g).ckAsked = s.ckAsked := rfl
@[simp] theorem State.mapStrands_held (s : State) (g : Strand → Strand) : (s.mapStrands g).held = s.held := rfl
@[simp] theorem State.mapStrands_heldFrom (s : State) (g : Strand → Strand) : (s.mapStrands g).heldFrom = s.heldFrom := rfl
@[simp] theorem State.mapStrands_trigger (s : State) (g : Strand → Strand) : (s.mapStrands g).trigger = s.trigger := rfl
@[simp] theorem State.mapStrands_ckRun (s : State) (g : Strand → Strand) : (s.mapStrands g).ckRun = s.ckRun := rfl
@[simp] theorem State.mapStrands_ckSeq (s : State) (g : Strand → Strand) : (s.mapStrands g).ckSeq = s.ckSeq := rfl
@[simp] theorem State.mapStrands_ckEnd (s : State) (g : Strand → Strand) : (s.mapStrands g).ckEnd = s.ckEnd := rfl
@[simp] theorem State.mapStrands_holds (s : State) (g : Strand → Strand) : (s.mapStrands g).holds = s.holds := rfl
@[simp] theorem State.mapStrands_dirtyArmed (s : State) (g : Strand → Strand) : (s.mapStrands g).dirtyArmed = s.dirtyArmed := rfl
@[simp] theorem State.mapStrands_image (s : State) (g : Strand → Strand) : (s.mapStrands g).image = s.image := rfl
@[simp] theorem State.mapStrands_logArea (s : State) (g : Strand → Strand) : (s.mapStrands g).logArea = s.logArea := rfl
@[simp] theorem State.mapStrands_logPos (s : State) (g : Strand → Strand) : (s.mapStrands g).logPos = s.logPos := rfl
@[simp] theorem State.mapStrands_lseq (s : State) (g : Strand → Strand) : (s.mapStrands g).lseq = s.lseq := rfl
@[simp] theorem State.mapStrands_logOn (s : State) (g : Strand → Strand) : (s.mapStrands g).logOn = s.logOn := rfl
@[simp] theorem State.mapStrands_logMarker (s : State) (g : Strand → Strand) : (s.mapStrands g).logMarker = s.logMarker := rfl
@[simp] theorem State.mapStrands_logDec (s : State) (g : Strand → Strand) : (s.mapStrands g).logDec = s.logDec := rfl
@[simp] theorem State.mapStrands_coh (s : State) (g : Strand → Strand) : (s.mapStrands g).coh = s.coh := rfl
@[simp] theorem State.mapStrands_places (s : State) (g : Strand → Strand) : (s.mapStrands g).places = s.places := rfl
@[simp] theorem State.mapStrands_loads (s : State) (g : Strand → Strand) : (s.mapStrands g).loads = s.loads := rfl
@[simp] theorem State.mapStrands_replay (s : State) (g : Strand → Strand) : (s.mapStrands g).replay = s.replay := rfl
@[simp] theorem State.mapStrands_frozen (s : State) (g : Strand → Strand) : (s.mapStrands g).frozen = s.frozen := rfl
@[simp] theorem State.mapStrands_out (s : State) (g : Strand → Strand) : (s.mapStrands g).out = s.out := rfl
@[simp] theorem State.mapStrands_agenda (s : State) (g : Strand → Strand) : (s.mapStrands g).agenda = s.agenda := rfl
@[simp] theorem State.mapStrands_fresh (s : State) (g : Strand → Strand) : (s.mapStrands g).fresh = s.fresh := rfl

/-! ### State.poke -/

@[simp] theorem State.poke_wfront (s : State) (locs : List Nat) (bs : List Byte) : (s.poke locs bs).wfront = s.wfront := rfl
@[simp] theorem State.poke_cores (s : State) (locs : List Nat) (bs : List Byte) : (s.poke locs bs).cores = s.cores := rfl
@[simp] theorem State.poke_clusters (s : State) (locs : List Nat) (bs : List Byte) : (s.poke locs bs).clusters = s.clusters := rfl
@[simp] theorem State.poke_wbad (s : State) (locs : List Nat) (bs : List Byte) : (s.poke locs bs).wbad = s.wbad := rfl
@[simp] theorem State.poke_ctxs (s : State) (locs : List Nat) (bs : List Byte) : (s.poke locs bs).ctxs = s.ctxs := rfl
@[simp] theorem State.poke_parts (s : State) (locs : List Nat) (bs : List Byte) : (s.poke locs bs).parts = s.parts := rfl
@[simp] theorem State.poke_queues (s : State) (locs : List Nat) (bs : List Byte) : (s.poke locs bs).queues = s.queues := rfl
@[simp] theorem State.poke_launches (s : State) (locs : List Nat) (bs : List Byte) : (s.poke locs bs).launches = s.launches := rfl
@[simp] theorem State.poke_fabs (s : State) (locs : List Nat) (bs : List Byte) : (s.poke locs bs).fabs = s.fabs := rfl
@[simp] theorem State.poke_wins (s : State) (locs : List Nat) (bs : List Byte) : (s.poke locs bs).wins = s.wins := rfl
@[simp] theorem State.poke_groups (s : State) (locs : List Nat) (bs : List Byte) : (s.poke locs bs).groups = s.groups := rfl
@[simp] theorem State.poke_hosts (s : State) (locs : List Nat) (bs : List Byte) : (s.poke locs bs).hosts = s.hosts := rfl
@[simp] theorem State.poke_nextLaunch (s : State) (locs : List Nat) (bs : List Byte) : (s.poke locs bs).nextLaunch = s.nextLaunch := rfl
@[simp] theorem State.poke_nextSid (s : State) (locs : List Nat) (bs : List Byte) : (s.poke locs bs).nextSid = s.nextSid := rfl
@[simp] theorem State.poke_nextOp (s : State) (locs : List Nat) (bs : List Byte) : (s.poke locs bs).nextOp = s.nextOp := rfl
@[simp] theorem State.poke_cycle (s : State) (locs : List Nat) (bs : List Byte) : (s.poke locs bs).cycle = s.cycle := rfl
@[simp] theorem State.poke_time (s : State) (locs : List Nat) (bs : List Byte) : (s.poke locs bs).time = s.time := rfl
@[simp] theorem State.poke_timeFrac (s : State) (locs : List Nat) (bs : List Byte) : (s.poke locs bs).timeFrac = s.timeFrac := rfl
@[simp] theorem State.poke_rate (s : State) (locs : List Nat) (bs : List Byte) : (s.poke locs bs).rate = s.rate := rfl
@[simp] theorem State.poke_ebound (s : State) (locs : List Nat) (bs : List Byte) : (s.poke locs bs).ebound = s.ebound := rfl
@[simp] theorem State.poke_bc (s : State) (locs : List Nat) (bs : List Byte) : (s.poke locs bs).bc = s.bc := rfl
@[simp] theorem State.poke_lock (s : State) (locs : List Nat) (bs : List Byte) : (s.poke locs bs).lock = s.lock := rfl
@[simp] theorem State.poke_ptpDomain (s : State) (locs : List Nat) (bs : List Byte) : (s.poke locs bs).ptpDomain = s.ptpDomain := rfl
@[simp] theorem State.poke_ptpPorts (s : State) (locs : List Nat) (bs : List Byte) : (s.poke locs bs).ptpPorts = s.ptpPorts := rfl
@[simp] theorem State.poke_ptpPeer (s : State) (locs : List Nat) (bs : List Byte) : (s.poke locs bs).ptpPeer = s.ptpPeer := rfl
@[simp] theorem State.poke_boot (s : State) (locs : List Nat) (bs : List Byte) : (s.poke locs bs).boot = s.boot := rfl
@[simp] theorem State.poke_gfloor (s : State) (locs : List Nat) (bs : List Byte) : (s.poke locs bs).gfloor = s.gfloor := rfl
@[simp] theorem State.poke_decTable (s : State) (locs : List Nat) (bs : List Byte) : (s.poke locs bs).decTable = s.decTable := rfl
@[simp] theorem State.poke_decImage (s : State) (locs : List Nat) (bs : List Byte) : (s.poke locs bs).decImage = s.decImage := rfl
@[simp] theorem State.poke_firmware (s : State) (locs : List Nat) (bs : List Byte) : (s.poke locs bs).firmware = s.firmware := rfl
@[simp] theorem State.poke_nextFirmware (s : State) (locs : List Nat) (bs : List Byte) : (s.poke locs bs).nextFirmware = s.nextFirmware := rfl
@[simp] theorem State.poke_fseq (s : State) (locs : List Nat) (bs : List Byte) : (s.poke locs bs).fseq = s.fseq := rfl
@[simp] theorem State.poke_hseq (s : State) (locs : List Nat) (bs : List Byte) : (s.poke locs bs).hseq = s.hseq := rfl
@[simp] theorem State.poke_samples (s : State) (locs : List Nat) (bs : List Byte) : (s.poke locs bs).samples = s.samples := rfl
@[simp] theorem State.poke_spent (s : State) (locs : List Nat) (bs : List Byte) : (s.poke locs bs).spent = s.spent := rfl
@[simp] theorem State.poke_retiring (s : State) (locs : List Nat) (bs : List Byte) : (s.poke locs bs).retiring = s.retiring := rfl
@[simp] theorem State.poke_noSpare (s : State) (locs : List Nat) (bs : List Byte) : (s.poke locs bs).noSpare = s.noSpare := rfl
@[simp] theorem State.poke_ckArea (s : State) (locs : List Nat) (bs : List Byte) : (s.poke locs bs).ckArea = s.ckArea := rfl
@[simp] theorem State.poke_ckAsked (s : State) (locs : List Nat) (bs : List Byte) : (s.poke locs bs).ckAsked = s.ckAsked := rfl
@[simp] theorem State.poke_held (s : State) (locs : List Nat) (bs : List Byte) : (s.poke locs bs).held = s.held := rfl
@[simp] theorem State.poke_heldFrom (s : State) (locs : List Nat) (bs : List Byte) : (s.poke locs bs).heldFrom = s.heldFrom := rfl
@[simp] theorem State.poke_trigger (s : State) (locs : List Nat) (bs : List Byte) : (s.poke locs bs).trigger = s.trigger := rfl
@[simp] theorem State.poke_ckRun (s : State) (locs : List Nat) (bs : List Byte) : (s.poke locs bs).ckRun = s.ckRun := rfl
@[simp] theorem State.poke_ckSeq (s : State) (locs : List Nat) (bs : List Byte) : (s.poke locs bs).ckSeq = s.ckSeq := rfl
@[simp] theorem State.poke_ckEnd (s : State) (locs : List Nat) (bs : List Byte) : (s.poke locs bs).ckEnd = s.ckEnd := rfl
@[simp] theorem State.poke_holds (s : State) (locs : List Nat) (bs : List Byte) : (s.poke locs bs).holds = s.holds := rfl
@[simp] theorem State.poke_logArea (s : State) (locs : List Nat) (bs : List Byte) : (s.poke locs bs).logArea = s.logArea := rfl
@[simp] theorem State.poke_logPos (s : State) (locs : List Nat) (bs : List Byte) : (s.poke locs bs).logPos = s.logPos := rfl
@[simp] theorem State.poke_lseq (s : State) (locs : List Nat) (bs : List Byte) : (s.poke locs bs).lseq = s.lseq := rfl
@[simp] theorem State.poke_logOn (s : State) (locs : List Nat) (bs : List Byte) : (s.poke locs bs).logOn = s.logOn := rfl
@[simp] theorem State.poke_logMarker (s : State) (locs : List Nat) (bs : List Byte) : (s.poke locs bs).logMarker = s.logMarker := rfl
@[simp] theorem State.poke_logDec (s : State) (locs : List Nat) (bs : List Byte) : (s.poke locs bs).logDec = s.logDec := rfl
@[simp] theorem State.poke_places (s : State) (locs : List Nat) (bs : List Byte) : (s.poke locs bs).places = s.places := rfl
@[simp] theorem State.poke_loads (s : State) (locs : List Nat) (bs : List Byte) : (s.poke locs bs).loads = s.loads := rfl
@[simp] theorem State.poke_replay (s : State) (locs : List Nat) (bs : List Byte) : (s.poke locs bs).replay = s.replay := rfl
@[simp] theorem State.poke_frozen (s : State) (locs : List Nat) (bs : List Byte) : (s.poke locs bs).frozen = s.frozen := rfl
@[simp] theorem State.poke_out (s : State) (locs : List Nat) (bs : List Byte) : (s.poke locs bs).out = s.out := rfl
@[simp] theorem State.poke_agenda (s : State) (locs : List Nat) (bs : List Byte) : (s.poke locs bs).agenda = s.agenda := rfl
@[simp] theorem State.poke_fresh (s : State) (locs : List Nat) (bs : List Byte) : (s.poke locs bs).fresh = s.fresh := rfl

/-! ### State.retire -/

@[simp] theorem State.retire_wfront (s : State) (w : Nat) : (s.retire w).wfront = s.wfront := rfl
@[simp] theorem State.retire_strands (s : State) (w : Nat) : (s.retire w).strands = s.strands := rfl
@[simp] theorem State.retire_cores (s : State) (w : Nat) : (s.retire w).cores = s.cores := rfl
@[simp] theorem State.retire_clusters (s : State) (w : Nat) : (s.retire w).clusters = s.clusters := rfl
@[simp] theorem State.retire_mem (s : State) (w : Nat) : (s.retire w).mem = s.mem := rfl
@[simp] theorem State.retire_bad (s : State) (w : Nat) : (s.retire w).bad = s.bad := rfl
@[simp] theorem State.retire_wbad (s : State) (w : Nat) : (s.retire w).wbad = s.wbad := rfl
@[simp] theorem State.retire_ctxs (s : State) (w : Nat) : (s.retire w).ctxs = s.ctxs := rfl
@[simp] theorem State.retire_parts (s : State) (w : Nat) : (s.retire w).parts = s.parts := rfl
@[simp] theorem State.retire_queues (s : State) (w : Nat) : (s.retire w).queues = s.queues := rfl
@[simp] theorem State.retire_launches (s : State) (w : Nat) : (s.retire w).launches = s.launches := rfl
@[simp] theorem State.retire_fabs (s : State) (w : Nat) : (s.retire w).fabs = s.fabs := rfl
@[simp] theorem State.retire_wins (s : State) (w : Nat) : (s.retire w).wins = s.wins := rfl
@[simp] theorem State.retire_groups (s : State) (w : Nat) : (s.retire w).groups = s.groups := rfl
@[simp] theorem State.retire_hosts (s : State) (w : Nat) : (s.retire w).hosts = s.hosts := rfl
@[simp] theorem State.retire_nextLaunch (s : State) (w : Nat) : (s.retire w).nextLaunch = s.nextLaunch := rfl
@[simp] theorem State.retire_nextSid (s : State) (w : Nat) : (s.retire w).nextSid = s.nextSid := rfl
@[simp] theorem State.retire_nextOp (s : State) (w : Nat) : (s.retire w).nextOp = s.nextOp := rfl
@[simp] theorem State.retire_cycle (s : State) (w : Nat) : (s.retire w).cycle = s.cycle := rfl
@[simp] theorem State.retire_time (s : State) (w : Nat) : (s.retire w).time = s.time := rfl
@[simp] theorem State.retire_timeFrac (s : State) (w : Nat) : (s.retire w).timeFrac = s.timeFrac := rfl
@[simp] theorem State.retire_rate (s : State) (w : Nat) : (s.retire w).rate = s.rate := rfl
@[simp] theorem State.retire_ebound (s : State) (w : Nat) : (s.retire w).ebound = s.ebound := rfl
@[simp] theorem State.retire_bc (s : State) (w : Nat) : (s.retire w).bc = s.bc := rfl
@[simp] theorem State.retire_lock (s : State) (w : Nat) : (s.retire w).lock = s.lock := rfl
@[simp] theorem State.retire_ptpDomain (s : State) (w : Nat) : (s.retire w).ptpDomain = s.ptpDomain := rfl
@[simp] theorem State.retire_ptpPorts (s : State) (w : Nat) : (s.retire w).ptpPorts = s.ptpPorts := rfl
@[simp] theorem State.retire_ptpPeer (s : State) (w : Nat) : (s.retire w).ptpPeer = s.ptpPeer := rfl
@[simp] theorem State.retire_boot (s : State) (w : Nat) : (s.retire w).boot = s.boot := rfl
@[simp] theorem State.retire_gfloor (s : State) (w : Nat) : (s.retire w).gfloor = s.gfloor := rfl
@[simp] theorem State.retire_decTable (s : State) (w : Nat) : (s.retire w).decTable = s.decTable := rfl
@[simp] theorem State.retire_decImage (s : State) (w : Nat) : (s.retire w).decImage = s.decImage := rfl
@[simp] theorem State.retire_firmware (s : State) (w : Nat) : (s.retire w).firmware = s.firmware := rfl
@[simp] theorem State.retire_nextFirmware (s : State) (w : Nat) : (s.retire w).nextFirmware = s.nextFirmware := rfl
@[simp] theorem State.retire_fseq (s : State) (w : Nat) : (s.retire w).fseq = s.fseq := rfl
@[simp] theorem State.retire_hseq (s : State) (w : Nat) : (s.retire w).hseq = s.hseq := rfl
@[simp] theorem State.retire_samples (s : State) (w : Nat) : (s.retire w).samples = s.samples := rfl
@[simp] theorem State.retire_spent (s : State) (w : Nat) : (s.retire w).spent = s.spent := rfl
@[simp] theorem State.retire_retiring (s : State) (w : Nat) : (s.retire w).retiring = s.retiring := rfl
@[simp] theorem State.retire_noSpare (s : State) (w : Nat) : (s.retire w).noSpare = s.noSpare := rfl
@[simp] theorem State.retire_ckArea (s : State) (w : Nat) : (s.retire w).ckArea = s.ckArea := rfl
@[simp] theorem State.retire_ckAsked (s : State) (w : Nat) : (s.retire w).ckAsked = s.ckAsked := rfl
@[simp] theorem State.retire_held (s : State) (w : Nat) : (s.retire w).held = s.held := rfl
@[simp] theorem State.retire_heldFrom (s : State) (w : Nat) : (s.retire w).heldFrom = s.heldFrom := rfl
@[simp] theorem State.retire_trigger (s : State) (w : Nat) : (s.retire w).trigger = s.trigger := rfl
@[simp] theorem State.retire_ckRun (s : State) (w : Nat) : (s.retire w).ckRun = s.ckRun := rfl
@[simp] theorem State.retire_ckSeq (s : State) (w : Nat) : (s.retire w).ckSeq = s.ckSeq := rfl
@[simp] theorem State.retire_ckEnd (s : State) (w : Nat) : (s.retire w).ckEnd = s.ckEnd := rfl
@[simp] theorem State.retire_holds (s : State) (w : Nat) : (s.retire w).holds = s.holds := rfl
@[simp] theorem State.retire_dirtyArmed (s : State) (w : Nat) : (s.retire w).dirtyArmed = s.dirtyArmed := rfl
@[simp] theorem State.retire_image (s : State) (w : Nat) : (s.retire w).image = s.image := rfl
@[simp] theorem State.retire_logArea (s : State) (w : Nat) : (s.retire w).logArea = s.logArea := rfl
@[simp] theorem State.retire_logPos (s : State) (w : Nat) : (s.retire w).logPos = s.logPos := rfl
@[simp] theorem State.retire_lseq (s : State) (w : Nat) : (s.retire w).lseq = s.lseq := rfl
@[simp] theorem State.retire_logOn (s : State) (w : Nat) : (s.retire w).logOn = s.logOn := rfl
@[simp] theorem State.retire_logMarker (s : State) (w : Nat) : (s.retire w).logMarker = s.logMarker := rfl
@[simp] theorem State.retire_logDec (s : State) (w : Nat) : (s.retire w).logDec = s.logDec := rfl
@[simp] theorem State.retire_coh (s : State) (w : Nat) : (s.retire w).coh = s.coh := rfl
@[simp] theorem State.retire_places (s : State) (w : Nat) : (s.retire w).places = s.places := rfl
@[simp] theorem State.retire_loads (s : State) (w : Nat) : (s.retire w).loads = s.loads := rfl
@[simp] theorem State.retire_replay (s : State) (w : Nat) : (s.retire w).replay = s.replay := rfl
@[simp] theorem State.retire_frozen (s : State) (w : Nat) : (s.retire w).frozen = s.frozen := rfl
@[simp] theorem State.retire_out (s : State) (w : Nat) : (s.retire w).out = s.out := rfl
@[simp] theorem State.retire_agenda (s : State) (w : Nat) : (s.retire w).agenda = s.agenda := rfl
@[simp] theorem State.retire_fresh (s : State) (w : Nat) : (s.retire w).fresh = s.fresh := rfl

/-! ### State.jump -/

@[simp] theorem State.jump_wfront (s : State) (t : Word) : (s.jump t).wfront = s.wfront := rfl
@[simp] theorem State.jump_strands (s : State) (t : Word) : (s.jump t).strands = s.strands := rfl
@[simp] theorem State.jump_cores (s : State) (t : Word) : (s.jump t).cores = s.cores := rfl
@[simp] theorem State.jump_clusters (s : State) (t : Word) : (s.jump t).clusters = s.clusters := rfl
@[simp] theorem State.jump_mem (s : State) (t : Word) : (s.jump t).mem = s.mem := rfl
@[simp] theorem State.jump_bad (s : State) (t : Word) : (s.jump t).bad = s.bad := rfl
@[simp] theorem State.jump_wbad (s : State) (t : Word) : (s.jump t).wbad = s.wbad := rfl
@[simp] theorem State.jump_ctxs (s : State) (t : Word) : (s.jump t).ctxs = s.ctxs := rfl
@[simp] theorem State.jump_parts (s : State) (t : Word) : (s.jump t).parts = s.parts := rfl
@[simp] theorem State.jump_queues (s : State) (t : Word) : (s.jump t).queues = s.queues := rfl
@[simp] theorem State.jump_launches (s : State) (t : Word) : (s.jump t).launches = s.launches := rfl
@[simp] theorem State.jump_fabs (s : State) (t : Word) : (s.jump t).fabs = s.fabs := rfl
@[simp] theorem State.jump_wins (s : State) (t : Word) : (s.jump t).wins = s.wins := rfl
@[simp] theorem State.jump_groups (s : State) (t : Word) : (s.jump t).groups = s.groups := rfl
@[simp] theorem State.jump_hosts (s : State) (t : Word) : (s.jump t).hosts = s.hosts := rfl
@[simp] theorem State.jump_nextLaunch (s : State) (t : Word) : (s.jump t).nextLaunch = s.nextLaunch := rfl
@[simp] theorem State.jump_nextSid (s : State) (t : Word) : (s.jump t).nextSid = s.nextSid := rfl
@[simp] theorem State.jump_nextOp (s : State) (t : Word) : (s.jump t).nextOp = s.nextOp := rfl
@[simp] theorem State.jump_cycle (s : State) (t : Word) : (s.jump t).cycle = s.cycle := rfl
@[simp] theorem State.jump_time (s : State) (t : Word) : (s.jump t).time = s.time := rfl
@[simp] theorem State.jump_timeFrac (s : State) (t : Word) : (s.jump t).timeFrac = s.timeFrac := rfl
@[simp] theorem State.jump_rate (s : State) (t : Word) : (s.jump t).rate = s.rate := rfl
@[simp] theorem State.jump_ebound (s : State) (t : Word) : (s.jump t).ebound = s.ebound := rfl
@[simp] theorem State.jump_bc (s : State) (t : Word) : (s.jump t).bc = s.bc := rfl
@[simp] theorem State.jump_lock (s : State) (t : Word) : (s.jump t).lock = s.lock := rfl
@[simp] theorem State.jump_ptpDomain (s : State) (t : Word) : (s.jump t).ptpDomain = s.ptpDomain := rfl
@[simp] theorem State.jump_ptpPorts (s : State) (t : Word) : (s.jump t).ptpPorts = s.ptpPorts := rfl
@[simp] theorem State.jump_ptpPeer (s : State) (t : Word) : (s.jump t).ptpPeer = s.ptpPeer := rfl
@[simp] theorem State.jump_boot (s : State) (t : Word) : (s.jump t).boot = s.boot := rfl
@[simp] theorem State.jump_gfloor (s : State) (t : Word) : (s.jump t).gfloor = s.gfloor := rfl
@[simp] theorem State.jump_decTable (s : State) (t : Word) : (s.jump t).decTable = s.decTable := rfl
@[simp] theorem State.jump_decImage (s : State) (t : Word) : (s.jump t).decImage = s.decImage := rfl
@[simp] theorem State.jump_firmware (s : State) (t : Word) : (s.jump t).firmware = s.firmware := rfl
@[simp] theorem State.jump_nextFirmware (s : State) (t : Word) : (s.jump t).nextFirmware = s.nextFirmware := rfl
@[simp] theorem State.jump_fseq (s : State) (t : Word) : (s.jump t).fseq = s.fseq := rfl
@[simp] theorem State.jump_hseq (s : State) (t : Word) : (s.jump t).hseq = s.hseq := rfl
@[simp] theorem State.jump_samples (s : State) (t : Word) : (s.jump t).samples = s.samples := rfl
@[simp] theorem State.jump_spent (s : State) (t : Word) : (s.jump t).spent = s.spent := rfl
@[simp] theorem State.jump_retiring (s : State) (t : Word) : (s.jump t).retiring = s.retiring := rfl
@[simp] theorem State.jump_noSpare (s : State) (t : Word) : (s.jump t).noSpare = s.noSpare := rfl
@[simp] theorem State.jump_ckArea (s : State) (t : Word) : (s.jump t).ckArea = s.ckArea := rfl
@[simp] theorem State.jump_ckAsked (s : State) (t : Word) : (s.jump t).ckAsked = s.ckAsked := rfl
@[simp] theorem State.jump_held (s : State) (t : Word) : (s.jump t).held = s.held := rfl
@[simp] theorem State.jump_heldFrom (s : State) (t : Word) : (s.jump t).heldFrom = s.heldFrom := rfl
@[simp] theorem State.jump_trigger (s : State) (t : Word) : (s.jump t).trigger = s.trigger := rfl
@[simp] theorem State.jump_ckRun (s : State) (t : Word) : (s.jump t).ckRun = s.ckRun := rfl
@[simp] theorem State.jump_ckSeq (s : State) (t : Word) : (s.jump t).ckSeq = s.ckSeq := rfl
@[simp] theorem State.jump_ckEnd (s : State) (t : Word) : (s.jump t).ckEnd = s.ckEnd := rfl
@[simp] theorem State.jump_holds (s : State) (t : Word) : (s.jump t).holds = s.holds := rfl
@[simp] theorem State.jump_dirtyArmed (s : State) (t : Word) : (s.jump t).dirtyArmed = s.dirtyArmed := rfl
@[simp] theorem State.jump_image (s : State) (t : Word) : (s.jump t).image = s.image := rfl
@[simp] theorem State.jump_logArea (s : State) (t : Word) : (s.jump t).logArea = s.logArea := rfl
@[simp] theorem State.jump_logPos (s : State) (t : Word) : (s.jump t).logPos = s.logPos := rfl
@[simp] theorem State.jump_lseq (s : State) (t : Word) : (s.jump t).lseq = s.lseq := rfl
@[simp] theorem State.jump_logOn (s : State) (t : Word) : (s.jump t).logOn = s.logOn := rfl
@[simp] theorem State.jump_logMarker (s : State) (t : Word) : (s.jump t).logMarker = s.logMarker := rfl
@[simp] theorem State.jump_logDec (s : State) (t : Word) : (s.jump t).logDec = s.logDec := rfl
@[simp] theorem State.jump_coh (s : State) (t : Word) : (s.jump t).coh = s.coh := rfl
@[simp] theorem State.jump_places (s : State) (t : Word) : (s.jump t).places = s.places := rfl
@[simp] theorem State.jump_loads (s : State) (t : Word) : (s.jump t).loads = s.loads := rfl
@[simp] theorem State.jump_replay (s : State) (t : Word) : (s.jump t).replay = s.replay := rfl
@[simp] theorem State.jump_frozen (s : State) (t : Word) : (s.jump t).frozen = s.frozen := rfl
@[simp] theorem State.jump_out (s : State) (t : Word) : (s.jump t).out = s.out := rfl
@[simp] theorem State.jump_agenda (s : State) (t : Word) : (s.jump t).agenda = s.agenda := rfl
@[simp] theorem State.jump_fresh (s : State) (t : Word) : (s.jump t).fresh = s.fresh := rfl

/-! ### State.writeX -/

@[simp] theorem State.writeX_wfront (s : State) (d : XReg) (v : Word) : (s.writeX d v).wfront = s.wfront := rfl
@[simp] theorem State.writeX_strands (s : State) (d : XReg) (v : Word) : (s.writeX d v).strands = s.strands := rfl
@[simp] theorem State.writeX_cores (s : State) (d : XReg) (v : Word) : (s.writeX d v).cores = s.cores := rfl
@[simp] theorem State.writeX_clusters (s : State) (d : XReg) (v : Word) : (s.writeX d v).clusters = s.clusters := rfl
@[simp] theorem State.writeX_mem (s : State) (d : XReg) (v : Word) : (s.writeX d v).mem = s.mem := rfl
@[simp] theorem State.writeX_bad (s : State) (d : XReg) (v : Word) : (s.writeX d v).bad = s.bad := rfl
@[simp] theorem State.writeX_wbad (s : State) (d : XReg) (v : Word) : (s.writeX d v).wbad = s.wbad := rfl
@[simp] theorem State.writeX_ctxs (s : State) (d : XReg) (v : Word) : (s.writeX d v).ctxs = s.ctxs := rfl
@[simp] theorem State.writeX_parts (s : State) (d : XReg) (v : Word) : (s.writeX d v).parts = s.parts := rfl
@[simp] theorem State.writeX_queues (s : State) (d : XReg) (v : Word) : (s.writeX d v).queues = s.queues := rfl
@[simp] theorem State.writeX_launches (s : State) (d : XReg) (v : Word) : (s.writeX d v).launches = s.launches := rfl
@[simp] theorem State.writeX_fabs (s : State) (d : XReg) (v : Word) : (s.writeX d v).fabs = s.fabs := rfl
@[simp] theorem State.writeX_wins (s : State) (d : XReg) (v : Word) : (s.writeX d v).wins = s.wins := rfl
@[simp] theorem State.writeX_groups (s : State) (d : XReg) (v : Word) : (s.writeX d v).groups = s.groups := rfl
@[simp] theorem State.writeX_hosts (s : State) (d : XReg) (v : Word) : (s.writeX d v).hosts = s.hosts := rfl
@[simp] theorem State.writeX_nextLaunch (s : State) (d : XReg) (v : Word) : (s.writeX d v).nextLaunch = s.nextLaunch := rfl
@[simp] theorem State.writeX_nextSid (s : State) (d : XReg) (v : Word) : (s.writeX d v).nextSid = s.nextSid := rfl
@[simp] theorem State.writeX_nextOp (s : State) (d : XReg) (v : Word) : (s.writeX d v).nextOp = s.nextOp := rfl
@[simp] theorem State.writeX_cycle (s : State) (d : XReg) (v : Word) : (s.writeX d v).cycle = s.cycle := rfl
@[simp] theorem State.writeX_time (s : State) (d : XReg) (v : Word) : (s.writeX d v).time = s.time := rfl
@[simp] theorem State.writeX_timeFrac (s : State) (d : XReg) (v : Word) : (s.writeX d v).timeFrac = s.timeFrac := rfl
@[simp] theorem State.writeX_rate (s : State) (d : XReg) (v : Word) : (s.writeX d v).rate = s.rate := rfl
@[simp] theorem State.writeX_ebound (s : State) (d : XReg) (v : Word) : (s.writeX d v).ebound = s.ebound := rfl
@[simp] theorem State.writeX_bc (s : State) (d : XReg) (v : Word) : (s.writeX d v).bc = s.bc := rfl
@[simp] theorem State.writeX_lock (s : State) (d : XReg) (v : Word) : (s.writeX d v).lock = s.lock := rfl
@[simp] theorem State.writeX_ptpDomain (s : State) (d : XReg) (v : Word) : (s.writeX d v).ptpDomain = s.ptpDomain := rfl
@[simp] theorem State.writeX_ptpPorts (s : State) (d : XReg) (v : Word) : (s.writeX d v).ptpPorts = s.ptpPorts := rfl
@[simp] theorem State.writeX_ptpPeer (s : State) (d : XReg) (v : Word) : (s.writeX d v).ptpPeer = s.ptpPeer := rfl
@[simp] theorem State.writeX_boot (s : State) (d : XReg) (v : Word) : (s.writeX d v).boot = s.boot := rfl
@[simp] theorem State.writeX_gfloor (s : State) (d : XReg) (v : Word) : (s.writeX d v).gfloor = s.gfloor := rfl
@[simp] theorem State.writeX_decTable (s : State) (d : XReg) (v : Word) : (s.writeX d v).decTable = s.decTable := rfl
@[simp] theorem State.writeX_decImage (s : State) (d : XReg) (v : Word) : (s.writeX d v).decImage = s.decImage := rfl
@[simp] theorem State.writeX_firmware (s : State) (d : XReg) (v : Word) : (s.writeX d v).firmware = s.firmware := rfl
@[simp] theorem State.writeX_nextFirmware (s : State) (d : XReg) (v : Word) : (s.writeX d v).nextFirmware = s.nextFirmware := rfl
@[simp] theorem State.writeX_fseq (s : State) (d : XReg) (v : Word) : (s.writeX d v).fseq = s.fseq := rfl
@[simp] theorem State.writeX_hseq (s : State) (d : XReg) (v : Word) : (s.writeX d v).hseq = s.hseq := rfl
@[simp] theorem State.writeX_samples (s : State) (d : XReg) (v : Word) : (s.writeX d v).samples = s.samples := rfl
@[simp] theorem State.writeX_spent (s : State) (d : XReg) (v : Word) : (s.writeX d v).spent = s.spent := rfl
@[simp] theorem State.writeX_retiring (s : State) (d : XReg) (v : Word) : (s.writeX d v).retiring = s.retiring := rfl
@[simp] theorem State.writeX_noSpare (s : State) (d : XReg) (v : Word) : (s.writeX d v).noSpare = s.noSpare := rfl
@[simp] theorem State.writeX_ckArea (s : State) (d : XReg) (v : Word) : (s.writeX d v).ckArea = s.ckArea := rfl
@[simp] theorem State.writeX_ckAsked (s : State) (d : XReg) (v : Word) : (s.writeX d v).ckAsked = s.ckAsked := rfl
@[simp] theorem State.writeX_held (s : State) (d : XReg) (v : Word) : (s.writeX d v).held = s.held := rfl
@[simp] theorem State.writeX_heldFrom (s : State) (d : XReg) (v : Word) : (s.writeX d v).heldFrom = s.heldFrom := rfl
@[simp] theorem State.writeX_trigger (s : State) (d : XReg) (v : Word) : (s.writeX d v).trigger = s.trigger := rfl
@[simp] theorem State.writeX_ckRun (s : State) (d : XReg) (v : Word) : (s.writeX d v).ckRun = s.ckRun := rfl
@[simp] theorem State.writeX_ckSeq (s : State) (d : XReg) (v : Word) : (s.writeX d v).ckSeq = s.ckSeq := rfl
@[simp] theorem State.writeX_ckEnd (s : State) (d : XReg) (v : Word) : (s.writeX d v).ckEnd = s.ckEnd := rfl
@[simp] theorem State.writeX_holds (s : State) (d : XReg) (v : Word) : (s.writeX d v).holds = s.holds := rfl
@[simp] theorem State.writeX_dirtyArmed (s : State) (d : XReg) (v : Word) : (s.writeX d v).dirtyArmed = s.dirtyArmed := rfl
@[simp] theorem State.writeX_image (s : State) (d : XReg) (v : Word) : (s.writeX d v).image = s.image := rfl
@[simp] theorem State.writeX_logArea (s : State) (d : XReg) (v : Word) : (s.writeX d v).logArea = s.logArea := rfl
@[simp] theorem State.writeX_logPos (s : State) (d : XReg) (v : Word) : (s.writeX d v).logPos = s.logPos := rfl
@[simp] theorem State.writeX_lseq (s : State) (d : XReg) (v : Word) : (s.writeX d v).lseq = s.lseq := rfl
@[simp] theorem State.writeX_logOn (s : State) (d : XReg) (v : Word) : (s.writeX d v).logOn = s.logOn := rfl
@[simp] theorem State.writeX_logMarker (s : State) (d : XReg) (v : Word) : (s.writeX d v).logMarker = s.logMarker := rfl
@[simp] theorem State.writeX_logDec (s : State) (d : XReg) (v : Word) : (s.writeX d v).logDec = s.logDec := rfl
@[simp] theorem State.writeX_coh (s : State) (d : XReg) (v : Word) : (s.writeX d v).coh = s.coh := rfl
@[simp] theorem State.writeX_places (s : State) (d : XReg) (v : Word) : (s.writeX d v).places = s.places := rfl
@[simp] theorem State.writeX_loads (s : State) (d : XReg) (v : Word) : (s.writeX d v).loads = s.loads := rfl
@[simp] theorem State.writeX_replay (s : State) (d : XReg) (v : Word) : (s.writeX d v).replay = s.replay := rfl
@[simp] theorem State.writeX_frozen (s : State) (d : XReg) (v : Word) : (s.writeX d v).frozen = s.frozen := rfl
@[simp] theorem State.writeX_out (s : State) (d : XReg) (v : Word) : (s.writeX d v).out = s.out := rfl
@[simp] theorem State.writeX_agenda (s : State) (d : XReg) (v : Word) : (s.writeX d v).agenda = s.agenda := rfl
@[simp] theorem State.writeX_fresh (s : State) (d : XReg) (v : Word) : (s.writeX d v).fresh = s.fresh := rfl

/-! ### What is written -/

@[simp] theorem Strand.retire_pc (st : Strand) (w : Nat) : (st.retire w).pc = st.pc + BitVec.ofNat 64 (8 * w) := rfl
@[simp] theorem Strand.retire_prev (st : Strand) (w : Nat) :
    (st.retire w).prev = st.pc + BitVec.ofNat 64 (8 * (w - 1)) := rfl
@[simp] theorem Strand.retire_seq (st : Strand) (w : Nat) : (st.retire w).seq = st.seq + 1 := rfl
@[simp] theorem Strand.retire_hold (st : Strand) (w : Nat) : (st.retire w).hold = none := rfl
@[simp] theorem Strand.retire_blocked (st : Strand) (w : Nat) : (st.retire w).blocked = none := rfl
@[simp] theorem Strand.retire_blockedFor (st : Strand) (w : Nat) : (st.retire w).blockedFor = 0 := rfl
@[simp] theorem Strand.jump_pc (st : Strand) (t : Word) : (st.jump t).pc = t := rfl
@[simp] theorem Strand.jump_prev (st : Strand) (t : Word) : (st.jump t).prev = st.pc := rfl
@[simp] theorem Strand.jump_seq (st : Strand) (t : Word) : (st.jump t).seq = st.seq + 1 := rfl
@[simp] theorem Strand.jump_hold (st : Strand) (t : Word) : (st.jump t).hold = none := rfl
@[simp] theorem Strand.jump_blocked (st : Strand) (t : Word) : (st.jump t).blocked = none := rfl
@[simp] theorem Strand.jump_blockedFor (st : Strand) (t : Word) : (st.jump t).blockedFor = 0 := rfl
@[simp] theorem Strand.setF_f (st : Strand) (r : FReg) (v : Word) : (st.setF r v).f = st.f.set r v := rfl
@[simp] theorem Strand.setB_b (st : Strand) (r : BRegNo) (v : Bound) : (st.setB r v).b = st.b.set r v := rfl
@[simp] theorem Strand.setV_v (st : Strand) (r : VRegNo) (v : VReg) : (st.setV r v).v = st.v.set r v := rfl
@[simp] theorem Strand.raise_fstat (st : Strand) (evs : Evs) :
    (st.raise evs).fstat = st.fstat ||| (evUnion evs).setWidth 32 := rfl
@[simp] theorem Strand.setVtype_vtype (st : Strand) (w : Word) : (st.setVtype w).vtype = w := rfl
@[simp] theorem Strand.setVtype_vl (st : Strand) (w : Word) : (st.setVtype w).vl = 0 := rfl
@[simp] theorem State.setMe_me (s : State) (st : Strand) : (s.setMe st).me = st := rfl
@[simp] theorem State.setMe_setMe (s : State) (a b : Strand) : (s.setMe a).setMe b = s.setMe b := rfl
@[simp] theorem State.retire_me (s : State) (w : Nat) : (s.retire w).me = s.me.retire w := rfl
@[simp] theorem State.jump_me (s : State) (t : Word) : (s.jump t).me = s.me.jump t := rfl
@[simp] theorem State.writeX_me (s : State) (d : XReg) (v : Word) : (s.writeX d v).me = (s.me.setX d v).retire 1 := rfl
@[simp] theorem State.mapStrands_me (s : State) (g : Strand → Strand) : (s.mapStrands g).me = g s.me := rfl
@[simp] theorem State.mapStrands_strands (s : State) (g : Strand → Strand) :
    (s.mapStrands g).strands = s.strands.map g := rfl
@[simp] theorem State.poke_me (s : State) (locs : List Nat) (bs : List Byte) :
    (s.poke locs bs).me = Strand.seeWrite locs s.me := rfl

/-! ### The register files -/

/-- x0 reads as zero in every strand. -/
@[simp] theorem Strand.getX_zero (st : Strand) : st.getX 0 = 0#64 := rfl

@[simp] theorem Strand.setX_zero (st : Strand) (v : Word) : st.setX 0 v = st := rfl

theorem Strand.getX_setX (st : Strand) (d r : XReg) (v : Word) :
    (st.setX d v).getX r = if r = d ∧ d ≠ 0 then v else st.getX r := by
  unfold Strand.setX Strand.getX
  by_cases hr : r = 0
  · subst hr
    by_cases hd : (0 : XReg) = d
    · subst hd; simp
    · simp [hd]
  · by_cases hd : d = 0
    · subst hd; simp [hr]
    · by_cases h : r = d
      · subst h; simp [hr]
      · have h' : ¬ (d.val = r.val) := fun e => h (Fin.ext e.symm)
        simp [hr, hd, h, h']

@[simp] theorem Strand.getX_setX_same (st : Strand) (d : XReg) (v : Word) (h : d ≠ 0) : (st.setX d v).getX d = v := by
  simp [Strand.getX_setX, h]

theorem Strand.getX_setX_other (st : Strand) (d r : XReg) (v : Word) (h : r ≠ d) :
    (st.setX d v).getX r = st.getX r := by
  simp [Strand.getX_setX, h]

@[simp] theorem Strand.getF_setF_same (st : Strand) (d : FReg) (v : Word) : (st.setF d v).getF d = v := by
  simp [Strand.getF]

theorem Strand.getF_setF_other (st : Strand) (d r : FReg) (v : Word) (h : r ≠ d) :
    (st.setF d v).getF r = st.getF r := by
  have h' : ¬ (d.val = r.val) := fun e => h (Fin.ext e.symm)
  simp [Strand.getF, h']

@[simp] theorem Strand.getB_setB_same (st : Strand) (d : BRegNo) (v : Bound) : (st.setB d v).getB d = v := by
  simp [Strand.getB]

theorem Strand.getB_setB_other (st : Strand) (d r : BRegNo) (v : Bound) (h : r ≠ d) :
    (st.setB d v).getB r = st.getB r := by
  have h' : ¬ (d.val = r.val) := fun e => h (Fin.ext e.symm)
  simp [Strand.getB, h']

@[simp] theorem Strand.getV_setV_same (st : Strand) (d : VRegNo) (v : VReg) : (st.setV d v).getV d = v := by
  simp [Strand.getV]

theorem Strand.getV_setV_other (st : Strand) (d r : VRegNo) (v : VReg) (h : r ≠ d) :
    (st.setV d v).getV r = st.getV r := by
  have h' : ¬ (d.val = r.val) := fun e => h (Fin.ext e.symm)
  simp [Strand.getV, h']

/-- A read of a register file sees only that file. -/
theorem Strand.getX_congr {a b : Strand} (h : a.x = b.x) (r : XReg) : a.getX r = b.getX r := by
  simp [Strand.getX, h]

@[simp] theorem Strand.getX_retire (st : Strand) (w : Nat) (r : XReg) : (st.retire w).getX r = st.getX r := rfl
@[simp] theorem Strand.getX_jump (st : Strand) (t : Word) (r : XReg) : (st.jump t).getX r = st.getX r := rfl
@[simp] theorem Strand.getX_raise (st : Strand) (evs : Evs) (r : XReg) :
    (st.raise evs).getX r = st.getX r := rfl
@[simp] theorem Strand.getF_retire (st : Strand) (w : Nat) (r : FReg) : (st.retire w).getF r = st.getF r := rfl
@[simp] theorem Strand.getB_retire (st : Strand) (w : Nat) (r : BRegNo) : (st.retire w).getB r = st.getB r := rfl
@[simp] theorem Strand.getV_retire (st : Strand) (w : Nat) (r : VRegNo) : (st.retire w).getV r = st.getV r := rfl

end Sys2Proof.Machine
end

