-- ==== Sys2Proof/Laws/Memory.lean ====
section
/-! SUPPORT. The laws of memory: every operation keeps the canonical form, a read after a write gives the value written,
and a write leaves every other location alone. Equal contents are equal lists. -/

namespace Sys2Proof.Machine

/-! ### Byte lists -/

@[simp] theorem toLE_length (n v : Nat) : (toLE n v).length = n := by
  induction n generalizing v with
  | zero => rfl
  | succ n ih => simp [toLE, ih]

/-! ### One location -/

theorem Memory.wf_nil : Memory.wf [] := ⟨List.Pairwise.nil, by simp⟩

theorem Memory.wf_filter {m : List Host.Cell} (h : Memory.wf m) (p : Host.Cell → Bool) : Memory.wf (m.filter p) :=
  ⟨h.1.filter p, fun c hc => h.2 c (List.mem_filter.mp hc).1⟩

theorem Memory.wf_keep {m : List Host.Cell} (h : Memory.wf m) (p : Nat → Bool) : Memory.wf (Memory.keep m p) :=
  Memory.wf_filter h _

/-- Two parts in canonical form make one when every address of the first lies below every address of the second. -/
theorem Memory.wf_append {m n : List Host.Cell} (hm : Memory.wf m) (hn : Memory.wf n)
    (h : ∀ a ∈ m, ∀ b ∈ n, a.1 < b.1) : Memory.wf (m ++ n) := by
  refine ⟨List.pairwise_append.mpr ⟨hm.1, hn.1, h⟩, fun c hc => ?_⟩
  rcases List.mem_append.mp hc with h1 | h1
  · exact hm.2 c h1
  · exact hn.2 c h1

theorem Memory.wf_put {m : List Host.Cell} (h : Memory.wf m) (a : Nat) (v : Byte) : Memory.wf (Memory.put m a v) := by
  unfold Memory.put
  have hlo := Memory.wf_filter h (fun c => decide (c.1 < a))
  have hhi := Memory.wf_filter h (fun c => decide (a < c.1))
  have hmid : Memory.wf (if v = blankByte then [] else [(a, v)]) := by
    split
    · exact Memory.wf_nil
    · exact ⟨List.pairwise_singleton _ _, by simpa using ‹¬ v = blankByte›⟩
  have hmem : ∀ c ∈ (if v = blankByte then [] else [(a, v)] : List Host.Cell), c.1 = a := by
    intro c hc
    split at hc
    · cases hc
    · simp only [List.mem_singleton] at hc; rw [hc]
  refine Memory.wf_append (Memory.wf_append hlo hmid ?_) hhi ?_
  · intro x hx y hy
    have := (List.mem_filter.mp hx).2
    rw [hmem y hy]; simpa using this
  · intro x hx y hy
    have hy' : a < y.1 := by simpa using (List.mem_filter.mp hy).2
    rcases List.mem_append.mp hx with h1 | h1
    · have : x.1 < a := by simpa using (List.mem_filter.mp h1).2
      omega
    · rw [hmem x h1]; exact hy'

theorem Memory.wf_puts {m : List Host.Cell} (h : Memory.wf m) (as : List Nat) (vs : List Byte) :
    Memory.wf (Memory.puts m as vs) := by
  induction as generalizing m vs with
  | nil => simpa [Memory.puts] using h
  | cons a as ih =>
    cases vs with
    | nil => simpa [Memory.puts] using h
    | cons v vs => exact ih (Memory.wf_put h a v) vs

/-! ### Reads -/

theorem Memory.get_nil (a : Nat) : Memory.get [] a = blankByte := rfl

theorem Memory.get_append (m n : List Host.Cell) (a : Nat) :
    Memory.get (m ++ n) a = if ∃ c ∈ m, c.1 = a then Memory.get m a else Memory.get n a := by
  unfold Memory.get
  rw [List.find?_append]
  cases hf : List.find? (fun c : Host.Cell => c.1 == a) m with
  | some d =>
    have hd := List.find?_some hf
    simp only [beq_iff_eq] at hd
    rw [if_pos ⟨d, List.mem_of_find?_eq_some hf, hd⟩]
    rfl
  | none =>
    have : ¬ ∃ c ∈ m, c.1 = a := by
      rintro ⟨c, hc, e⟩
      have := List.find?_eq_none.mp hf c hc
      simp [e] at this
    rw [if_neg this]
    rfl

theorem Memory.get_filter {m : List Host.Cell} {p : Host.Cell → Bool} {a : Nat} (h : ∀ c ∈ m, c.1 = a → p c = true) :
    Memory.get (m.filter p) a = Memory.get m a := by
  unfold Memory.get
  have : (m.filter p).find? (fun c => c.1 == a) = m.find? (fun c => c.1 == a) := by
    induction m with
    | nil => rfl
    | cons c m ih =>
      have ih' := ih (fun d hd => h d (List.mem_cons_of_mem _ hd))
      by_cases hc : c.1 = a
      · simp [h c (by simp) hc, hc]
      · have hb : (c.1 == a) = false := by simpa using hc
        cases hp : p c <;> simp [hp, hb, ih']
  rw [this]

/-- A read of the location just written gives the value written. -/
@[simp] theorem Memory.get_put_same (m : List Host.Cell) (a : Nat) (v : Byte) :
    Memory.get (Memory.put m a v) a = v := by
  unfold Memory.put
  have hlo : ¬ ∃ c ∈ m.filter (fun c => decide (c.1 < a)), c.1 = a := by
    rintro ⟨c, hc, e⟩
    have := (List.mem_filter.mp hc).2
    simp [e] at this
  have hhi : Memory.get (m.filter (fun c => decide (a < c.1))) a = blankByte := by
    unfold Memory.get
    have : (m.filter (fun c => decide (a < c.1))).find? (fun c => c.1 == a) = none := by
      rw [List.find?_eq_none]
      intro c hc
      have := (List.mem_filter.mp hc).2
      simp only [decide_eq_true_eq] at this
      simp; omega
    rw [this]
  rw [List.append_assoc, Memory.get_append, if_neg hlo]
  by_cases hv : v = blankByte
  · rw [if_pos hv, List.nil_append, hhi, hv]
  · rw [if_neg hv, Memory.get_append, if_pos ⟨(a, v), by simp, rfl⟩]
    simp [Memory.get]

/-- A write leaves every other location alone. -/
theorem Memory.get_put_other (m : List Host.Cell) (a b : Nat) (v : Byte) (h : b ≠ a) :
    Memory.get (Memory.put m a v) b = Memory.get m b := by
  unfold Memory.put
  have hmid : ¬ ∃ c ∈ (if v = blankByte then [] else [(a, v)] : List Host.Cell), c.1 = b := by
    rintro ⟨c, hc, e⟩
    split at hc
    · cases hc
    · simp only [List.mem_singleton] at hc; rw [hc] at e; exact h e.symm
  rw [List.append_assoc, Memory.get_append]
  split
  · next h1 =>
    obtain ⟨c, hc, e⟩ := h1
    have hc' := (List.mem_filter.mp hc).2
    simp only [decide_eq_true_eq] at hc'
    exact Memory.get_filter (fun d _ hd => by simp; omega)
  · next h1 =>
    rw [Memory.get_append, if_neg hmid]
    by_cases hb : a < b
    · exact Memory.get_filter (fun d _ hd => by simp; omega)
    · have hne : ∀ c ∈ m, ¬ c.1 = b := by
        intro c hc e
        exact h1 ⟨c, List.mem_filter.mpr ⟨hc, by simp; omega⟩, e⟩
      have h2 : Memory.get m b = blankByte := by
        unfold Memory.get
        have : m.find? (fun c => c.1 == b) = none := by
          rw [List.find?_eq_none]; intro c hc; simpa using hne c hc
        rw [this]
      rw [h2]
      unfold Memory.get
      have : (m.filter (fun c => decide (a < c.1))).find? (fun c => c.1 == b) = none := by
        rw [List.find?_eq_none]
        intro c hc; simpa using hne c (List.mem_filter.mp hc).1
      rw [this]

/-- Bytes written at locations leave every location outside them alone. -/
theorem Memory.get_puts_other (m : List Host.Cell) (as : List Nat) (vs : List Byte) (b : Nat) (h : b ∉ as) :
    Memory.get (Memory.puts m as vs) b = Memory.get m b := by
  induction as generalizing m vs with
  | nil => simp [Memory.puts]
  | cons a as ih =>
    cases vs with
    | nil => simp [Memory.puts]
    | cons v vs =>
      simp only [List.mem_cons, not_or] at h
      rw [Memory.puts, ih _ _ h.2, Memory.get_put_other _ _ _ _ h.1]

/-- Bytes written at distinct locations read back, in order. -/
theorem Memory.get_puts (m : List Host.Cell) (as : List Nat) (vs : List Byte) (hl : as.length = vs.length)
    (hn : as.Nodup) : as.map (Memory.get (Memory.puts m as vs)) = vs := by
  induction as generalizing m vs with
  | nil => cases vs <;> simp_all
  | cons a as ih =>
    cases vs with
    | nil => simp at hl
    | cons v vs =>
      have hn' := List.nodup_cons.mp hn
      simp only [List.map_cons, Memory.puts, List.cons.injEq]
      exact ⟨by rw [Memory.get_puts_other _ _ _ _ hn'.1, Memory.get_put_same],
        ih _ _ (by simpa using hl) hn'.2⟩

/-- In canonical form, memories that read alike are equal. -/
theorem Memory.ext {m n : List Host.Cell} (hm : Memory.wf m) (hn : Memory.wf n)
    (h : ∀ a, Memory.get m a = Memory.get n a) : m = n := by
  have listed : ∀ {l : List Host.Cell}, Memory.wf l → ∀ c ∈ l, Memory.get l c.1 = c.2 := by
    intro l hl c hc
    induction l with
    | nil => cases hc
    | cons d l ih =>
      have hp := List.pairwise_cons.mp hl.1
      rcases List.mem_cons.mp hc with e | e
      · subst e; simp [Memory.get]
      · have hlt := hp.1 c e
        have hd : ¬ d.1 = c.1 := by omega
        have := ih ⟨hp.2, fun x hx => hl.2 x (List.mem_cons_of_mem _ hx)⟩ e
        have hb : (d.1 == c.1) = false := by simpa using hd
        simpa only [Memory.get, List.find?_cons, hb] using this
  have sub : ∀ {l k : List Host.Cell}, Memory.wf l → Memory.wf k → (∀ a, Memory.get l a = Memory.get k a) →
      ∀ c ∈ l, c ∈ k := by
    intro l k hl hk e c hc
    have h1 := listed hl c hc
    rw [e] at h1
    unfold Memory.get at h1
    cases hf : k.find? (fun x => x.1 == c.1) with
    | none => rw [hf] at h1; exact absurd h1.symm (hl.2 c hc)
    | some d =>
      rw [hf] at h1
      have hd := List.find?_some hf
      have hm := List.mem_of_find?_eq_some hf
      simp only [beq_iff_eq] at hd
      have : d = c := Prod.ext hd h1
      exact this ▸ hm
  have anti : ∀ {l : List Host.Cell}, l.Pairwise (fun a b => a.1 < b.1) → l.Nodup :=
    fun hl => hl.imp (fun {a b} hab e => by rw [e] at hab; omega)
  have hperm : m.Perm n := (List.perm_ext_iff_of_nodup (anti hm.1) (anti hn.1)).mpr
    (fun c => ⟨sub hm hn h c, sub hn hm (fun a => (h a).symm) c⟩)
  exact hperm.eq_of_pairwise (fun a b _ _ h1 h2 => by omega) hm.1 hn.1

/-! ### The module's writes -/

theorem State.poke_mem (s : State) (locs : List Nat) (bs : List Byte) :
    (s.poke locs bs).mem = Memory.puts s.mem locs bs ∨
    ∃ b n, s.ckArea = some (b, n) ∧ s.dirtyArmed = true ∧ dirties s locs = true ∧
      (s.poke locs bs).mem =
        Memory.put (Memory.puts s.mem locs bs) (b + 5) (Memory.get (Memory.puts s.mem locs bs) (b + 5) ||| 1#8) := by
  unfold State.poke
  cases hc : s.ckArea with
  | none => exact .inl (by simp)
  | some r =>
    cases hd : s.dirtyArmed with
    | false => exact .inl (by simp)
    | true =>
      cases hk : dirties s locs with
      | false => exact .inl (by simp)
      | true => exact .inr ⟨r.1, r.2, rfl, rfl, rfl, by simp⟩

/-- A module that does not watch for the first write after a checkpoint changes the bytes written and no other. -/
theorem State.poke_mem_plain (s : State) (locs : List Nat) (bs : List Byte) (h : s.dirtyArmed = false) :
    (s.poke locs bs).mem = Memory.puts s.mem locs bs := by
  rcases s.poke_mem locs bs with e | ⟨_, _, _, hd, _⟩
  · exact e
  · simp [h] at hd

theorem State.wf_poke (s : State) (locs : List Nat) (bs : List Byte) (h : Memory.wf s.mem) :
    Memory.wf (s.poke locs bs).mem := by
  rcases s.poke_mem locs bs with e | ⟨b, n, _, _, _, e⟩ <;> rw [e]
  · exact Memory.wf_puts h _ _
  · exact Memory.wf_put (Memory.wf_puts h _ _) _ _

theorem State.wf_writeP (s : State) (a : Nat) (bs : List Byte) (h : Memory.wf s.mem) :
    Memory.wf (s.writeP a bs).mem := s.wf_poke _ _ h

theorem State.wf_pokeByts (s : State) (bs : List Byt) (vs : List Byte) (h : Memory.wf s.mem) :
    Memory.wf (s.pokeByts bs vs).mem := s.wf_poke _ _ h

/-- A write leaves every location outside its own alone, but for LDIRTY of the state area. -/
theorem State.get_poke_other (s : State) (locs : List Nat) (bs : List Byte) (a : Nat) (h : a ∉ locs)
    (hd : ∀ b n, s.ckArea = some (b, n) → a ≠ b + 5) :
    Memory.get (s.poke locs bs).mem a = Memory.get s.mem a := by
  rcases s.poke_mem locs bs with e | ⟨b, n, hc, _, _, e⟩ <;> rw [e]
  · exact Memory.get_puts_other _ _ _ _ h
  · rw [Memory.get_put_other _ _ _ _ (hd b n hc), Memory.get_puts_other _ _ _ _ h]

/-! ### Reading a context's tables changes no program byte but A and D -/

theorem State.setCtx_mem' (s : State) (c : Ctx) : (s.setCtx c).mem = s.mem := rfl

theorem wf_markUsed (s : State) (c : Ctx) (p : Page) (n : Need) (h : Memory.wf s.mem) :
    Memory.wf (markUsed s c p n).mem := by
  unfold markUsed
  extract_lets
  split
  · exact h
  · exact State.wf_poke _ _ _ h

theorem wf_translate {s : State} {cx va : Nat} {n : Need} {p : Page} {t : State} (h : Memory.wf s.mem)
    (e : translate s cx va n = .ok (p, t)) : Memory.wf t.mem := by
  unfold translate at e
  split at e
  · cases e
  · split at e
    · cases e
    · split at e
      · cases e
      · cases e
        exact wf_markUsed _ _ _ _ h

theorem wf_resolve {w : Who} {n : Need} {half : Bool} (as : List Nat) {s : State} {pg : Option Page} {acc : List Byt}
    {bs : List Byt} {t : State} (h : Memory.wf s.mem) (e : resolve w n half as s pg acc = .ok (bs, t)) :
    Memory.wf t.mem := by
  induction as generalizing s pg acc with
  | nil => cases e; exact h
  | cons a as ih =>
    unfold resolve at e
    split at e
    · exact ih h e
    · split at e
      · cases e
      · dsimp only at e
        split at e
        · cases e
        · next he =>
          split at e
          · cases e
          · refine ih ?_ e
            split at he
            · cases he; exact h
            · exact wf_translate h he

/-- An access changes memory only by what it marks used, and keeps the canonical form. -/
theorem wf_access {s : State} {w : Who} {b : Bound} {bno use n elem : Nat} {x : Int} {bs : List Byt} {t : State}
    (h : Memory.wf s.mem) (e : access s w b bno use x n elem = .ok (bs, t)) : Memory.wf t.mem := by
  unfold access at e
  split at e
  · cases e
  · split at e
    · next he => cases e; exact wf_resolve _ h he
    · cases e

end Sys2Proof.Machine
end

