-- ==== Sys2Proof/Laws/Ops.lean ====
section
/-! SUPPORT. What the shared operations can do, said once: outcomes of `finish`, the checks, accesses, completion with
events, the stacks, and taking an exception. -/

namespace Sys2Proof.Machine

/-! ### Outcomes -/

@[simp] theorem finish_ok (i : Instr) (t : State) : finish i (.ok t) = .next t := rfl

@[simp] theorem finish_flt (i : Instr) (f : Flt) (pc : Word) (s : State) :
    finish i (.error (.flt f pc s)) = .next (s.takeFault f pc 0) := rfl

@[simp] theorem finish_hold (i : Instr) (s : State) :
    finish i (.error (.hold s)) = .next (s.setMe { s.me with hold := some i }) := rfl

@[simp] theorem finish_block (i : Instr) (s : State) :
    finish i (.error (.block s)) = .next (s.setMe { s.me with blocked := some i }) := rfl

/-- An instruction always answers a next state. -/
theorem finish_next (i : Instr) (r : Run State) : ∃ t, finish i r = .next t := by
  cases r with
  | ok t => exact ⟨t, rfl⟩
  | error e => cases e <;> exact ⟨_, rfl⟩

@[simp] theorem run_ok_bind {α β : Type} (a : α) (f : α → Run β) : ((.ok a : Run α) >>= f) = f a := rfl

@[simp] theorem run_error_bind {α β : Type} (e : Stop) (f : α → Run β) : ((.error e : Run α) >>= f) = .error e := rfl

@[simp] theorem State.orFail_ok {α : Type} (s : State) (a : α) : s.orFail (.ok a) = .ok a := rfl

@[simp] theorem State.orFail_error {α : Type} (s : State) (f : Flt) :
    s.orFail (.error f : Except Flt α) = .error (.flt f s.me.pc s) := rfl

@[simp] theorem State.guard_false (s : State) (c d i j : Nat) : s.guard false c d i j = .ok () := rfl

@[simp] theorem State.guard_true (s : State) (c d i j : Nat) :
    s.guard true c d i j = .error (.flt (s.me.flt c d i j) s.me.pc s) := rfl

@[simp] theorem firstFlt_nil : firstFlt [] = none := rfl

@[simp] theorem firstFlt_true (f : Flt) (cs : List (Bool × Flt)) : firstFlt ((true, f) :: cs) = some f := rfl

@[simp] theorem firstFlt_false (f : Flt) (cs : List (Bool × Flt)) : firstFlt ((false, f) :: cs) = firstFlt cs := rfl

/-- The checks pass exactly when no condition holds. -/
theorem firstFlt_none (cs : List (Bool × Flt)) : firstFlt cs = none ↔ ∀ c ∈ cs, c.1 = false := by
  induction cs with
  | nil => simp
  | cons c cs ih =>
    obtain ⟨b, f⟩ := c
    cases b <;> simp [firstFlt, ih]

theorem State.check_ok {s : State} {cs : List (Bool × Flt)} (h : firstFlt cs = none) : s.check cs = .ok () := by
  simp [State.check, h]

theorem State.check_flt {s : State} {cs : List (Bool × Flt)} {f : Flt} (h : firstFlt cs = some f) :
    s.check cs = .error (.flt f s.me.pc s) := by
  simp [State.check, h, State.fail]

/-- An instruction with plain ordering waits for nothing. -/
@[simp] theorem State.release_plain (s : State) : s.release .plain = .ok () := rfl

theorem State.release_ok {s : State} (o : MOrd) (h : s.transfersOut = false) : s.release o = .ok () := by
  simp [State.release, h]

/-- An access with plain ordering stays plain. -/
@[simp] theorem State.order_plain (s : State) (b : BRegNo) (use : Nat) (us : List (Int × Nat)) :
    s.order b use us .plain = .ok .plain := rfl

@[simp] theorem State.acquire_plain (s : State) : s.acquire .plain = s := rfl

/-! ### Events -/

@[simp] theorem evUnion_nil : evUnion [] = 0#7 := rfl

@[simp] theorem trapOf_zero (ten : Ev) (a : Word) (n : Nat) : trapOf ten a n 0#7 = none := by simp [trapOf]

@[simp] theorem trapOf_off (a : Word) (n : Nat) (e : Ev) : trapOf 0#7 a n e = none := by simp [trapOf]

/-- With no enabled event raised, an instruction completes: its events are in FSTAT and FIDX, the strand goes on. -/
theorem State.complete_ok (s : State) (evs : Evs) (h : evUnion evs &&& s.me.ten = 0#7) :
    s.complete evs = .ok (s.setMe ((s.me.raise evs).retire 1)) := by
  simp [State.complete, trapOf, h]

/-- With an enabled event raised, it completes and its trap is taken at the next word (R444). -/
theorem State.complete_trap (s : State) (evs : Evs) (h : evUnion evs &&& s.me.ten ≠ 0#7) :
    s.complete evs = .error (.flt
      ⟨0x90, (evUnion evs &&& s.me.ten).toNat, s.me.pc, BitVec.ofNat 64 ((firstEnabled s.me.ten evs).getD 0),
        (evUnion evs).setWidth 64⟩
      (s.me.pc + 8#64) (s.setMe ((s.me.raise evs).retire 1))) := by
  have hp : ((s.setMe ((s.me.raise evs).retire 1)).me.pc) = s.me.pc + 8#64 := rfl
  simp only [State.complete, trapOf, h, if_false, hp]

/-- Raising no event changes nothing. -/
@[simp] theorem Strand.raise_nil (st : Strand) : st.raise [] = st := by
  have h : st.fstat ||| (evUnion []).setWidth 32 = st.fstat := by simp
  unfold Strand.raise Strand.raiseAt
  rw [h]
  rfl

/-! ### What an access leaves as it was -/

/-- A strand but for its reservation, which a write can end. -/
def Strand.unreserved (st : Strand) : Strand := { st with resv := none }

/-- `t` is `s` but for memory, the error marks, the cached table entries, the reservations, the counts of writes and an image
whose bytes are overwritten: all that an access by address can change. -/
structure Marks (s t : State) : Prop where
  same : t = { s with
    mem := t.mem, bad := t.bad, ctxs := t.ctxs, dirtyArmed := t.dirtyArmed, coh := t.coh, image := t.image,
    me := { s.me with resv := t.me.resv }, strands := t.strands }
  others : t.strands.map Strand.unreserved = s.strands.map Strand.unreserved

theorem Marks.refl (s : State) : Marks s s := ⟨rfl, rfl⟩

theorem Marks.trans {s t u : State} (h : Marks s t) (k : Marks t u) : Marks s u := by
  refine ⟨?_, k.others.trans h.others⟩
  refine k.same.trans ?_
  rw [h.same]

theorem Marks.poke (s : State) (locs : List Nat) (bs : List Byte) : Marks s (s.poke locs bs) := by
  refine ⟨rfl, ?_⟩
  show (s.strands.map (Strand.seeWrite locs)).map Strand.unreserved = _
  rw [List.map_map]
  rfl

theorem Marks.setCtx (s : State) (c : Ctx) : Marks s (s.setCtx c) := ⟨rfl, rfl⟩

theorem Marks.markUsed (s : State) (c : Ctx) (p : Page) (n : Need) : Marks s (markUsed s c p n) := by
  unfold Machine.markUsed
  extract_lets
  split
  · exact Marks.setCtx _ _
  · exact (Marks.setCtx _ _).trans (Marks.poke _ _ _)

theorem Marks.translate {s : State} {cx va : Nat} {n : Need} {p : Page} {t : State}
    (e : translate s cx va n = .ok (p, t)) : Marks s t := by
  unfold Machine.translate at e
  split at e
  · cases e
  · split at e
    · cases e
    · split at e
      · cases e
      · cases e
        exact Marks.markUsed _ _ _ _

theorem Marks.resolve {w : Who} {n : Need} {half : Bool} (as : List Nat) {s : State} {pg : Option Page}
    {acc bs : List Byt} {t : State} (e : resolve w n half as s pg acc = .ok (bs, t)) : Marks s t := by
  induction as generalizing s pg acc with
  | nil => cases e; exact Marks.refl _
  | cons a as ih =>
    unfold Machine.resolve at e
    split at e
    · exact ih e
    · split at e
      · cases e
      · dsimp only at e
        split at e
        · cases e
        · next he =>
          split at e
          · cases e
          · refine Marks.trans ?_ (ih e)
            split at he
            · cases he; exact Marks.refl _
            · exact Marks.translate he

/-- The bytes an access resolves to are those of its addresses, in order. -/
theorem resolve_addrs {w : Who} {n : Need} {half : Bool} (as : List Nat) {s : State} {pg : Option Page}
    {acc bs : List Byt} {t : State} (e : resolve w n half as s pg acc = .ok (bs, t)) :
    bs.map (·.addr) = (acc.reverse).map (·.addr) ++ as := by
  induction as generalizing s pg acc with
  | nil => cases e; simp
  | cons a as ih =>
    unfold Machine.resolve at e
    split at e
    · rw [ih e]; simp [padByt]
    · split at e
      · cases e
      · dsimp only at e
        split at e
        · cases e
        · split at e
          · cases e
          · rw [ih e]; simp

/-- An access that is admitted: its bound allows it, its bytes are those of its addresses, and it leaves the module as
it was but for marks. -/
theorem access_ok {s : State} {w : Who} {b : Bound} {bno use n elem : Nat} {x : Int} {bs : List Byt} {t : State}
    (e : access s w b bno use x n elem = .ok (bs, t)) :
    b.refuses use x n = none ∧ bs.map (·.addr) = b.addrs x n ∧ Marks s t := by
  unfold access at e
  split at e
  · cases e
  · next hb =>
    split at e
    · next he =>
      cases e
      exact ⟨hb, by simpa using resolve_addrs _ he, Marks.resolve _ he⟩
    · cases e

theorem access_length {s : State} {w : Who} {b : Bound} {bno use n elem : Nat} {x : Int} {bs : List Byt} {t : State}
    (e : access s w b bno use x n elem = .ok (bs, t)) : bs.length = n := by
  have := congrArg List.length (access_ok e).2.1
  simpa [Bound.addrs] using this

/-- A refused access is class 0x40 or 0x41 at the instruction's address. -/
theorem access_error {s : State} {w : Who} {b : Bound} {bno use n elem : Nat} {x : Int} {f : Flt}
    (e : access s w b bno use x n elem = .error f) : (f.cls = 0x40 ∨ f.cls = 0x41) ∧ f.info2 = w.iaddr := by
  unfold access at e
  split at e
  · cases e; exact ⟨.inl rfl, rfl⟩
  · split at e
    · cases e
    · cases e; exact ⟨.inr rfl, rfl⟩

/-! ### Loads and stores of a strand -/

/-- A load that is admitted, waits for no transfer and meets no uncorrectable byte gives the bytes at its locations. -/
theorem State.loadE_ok {s t : State} {b : BRegNo} {use n i : Nat} {e : Int} {bs : List Byt}
    (ha : access s s.who (s.me.getB b) b.val use e n i = .ok (bs, t)) (hc : s.conflicts bs false = false)
    (hb : s.bad = []) : s.loadE b use e n i = .ok (bs.map (fun x => Memory.get s.mem x.loc), t) := by
  simp [State.loadE, ha, hc, readByts, hb]

/-- A store that is admitted and waits for no transfer writes its bytes, and marks buffered groups stale. -/
theorem State.storeE_ok {s t : State} {b : BRegNo} {use i : Nat} {e : Int} {vs : List Byte} {bs : List Byt}
    (ha : access s s.who (s.me.getB b) b.val use e vs.length i = .ok (bs, t)) (hc : s.conflicts bs true = false) :
    s.storeE b use e vs i = .ok ((t.pokeByts bs vs).setMe ((t.pokeByts bs vs).me.staleBytes bs)) := by
  simp [State.storeE, ha, hc]

theorem State.wf_loadE {s t : State} {b : BRegNo} {use n i : Nat} {e : Int} {vs : List Byte}
    (h : Memory.wf s.mem) (he : s.loadE b use e n i = .ok (vs, t)) : Memory.wf t.mem := by
  unfold State.loadE at he
  split at he
  · cases he
  · next ha =>
    split at he
    · cases he
    · split at he
      · cases he
      · cases he
        unfold State.orFail at ha
        split at ha
        · next hx => cases ha; exact wf_access h hx
        · cases ha

theorem State.wf_storeE {s t : State} {b : BRegNo} {use i : Nat} {e : Int} {vs : List Byte}
    (h : Memory.wf s.mem) (he : s.storeE b use e vs i = .ok t) : Memory.wf t.mem := by
  unfold State.storeE at he
  split at he
  · cases he
  · next ha =>
    split at he
    · cases he
    · cases he
      unfold State.orFail at ha
      split at ha
      · next hx => cases ha; exact State.wf_pokeByts _ _ _ (wf_access h hx)
      · cases ha

/-! ### The stacks -/

/-- A push with room on the return stack (R210). -/
theorem State.pushRs_ok {s : State} (v : Word) (h : s.me.rbase + s.me.rdepth < s.me.pushLimit 4096) (hl : s.me.rstack.length < 16) :
    s.pushRs v = .ok (s.setMe { s.me with rstack := v :: s.me.rstack, rdepth := s.me.rdepth + 1 }) := by
  simp [State.pushRs, hl, Nat.not_le.mpr h]

/-- A push on a full return stack is class 0x07 (R210, R396). -/
theorem State.pushRs_full {s : State} (v : Word) (h : s.me.pushLimit 4096 ≤ s.me.rbase + s.me.rdepth) :
    s.pushRs v = .error (.flt (s.me.flt 0x07 0 (s.me.rbase + s.me.rdepth) 0) s.me.pc s) := by
  simp [State.pushRs, h, State.fail]

/-- A pop of an empty return stack is class 0x07. -/
theorem State.popRs_empty {s : State} (h : s.me.rdepth = 0) :
    s.popRs = .error (.flt (s.me.flt 0x07 1 0 0) s.me.pc s) := by
  simp [State.popRs, h, State.fail]

/-- A pop with more than one entry held, or with the only one. -/
theorem State.popRs_ok {s : State} (h : s.me.rdepth ≠ 0) (hn : s.me.rstack ≠ [])
    (hl : s.me.rstack.length ≠ 1 ∨ s.me.rdepth = 1) :
    s.popRs = .ok (s.me.rstack.headD 0#64,
      s.setMe { s.me with rstack := s.me.rstack.tail, rdepth := s.me.rdepth - 1 }) := by
  have h1 : ¬ (s.me.rstack.length = 1 ∧ 1 < s.me.rdepth) := by omega
  have h2 : s.me.rstack.isEmpty = false := by simpa using hn
  simp [State.popRs, h, h1, h2]

/-! ### Taking an exception -/

/-- In handler mode, or with no handler, a fault is unhandled (R402). -/
theorem State.takeFault_unhandled (s : State) (f : Flt) (pc : Word) (r : XReg)
    (h : s.me.handler.isSome = true ∨ s.handlerOf = none) :
    s.takeFault f pc r = s.unhandled (s.me.record s.time f) := by
  unfold State.takeFault State.takeAt
  split
  · next h1 h2 => simp [h1, h2] at h
  · rfl

/-- With a handler, outside handler mode and with the matrix queue empty after draining, a fault enters the handler
(R400). -/
theorem State.takeFault_handled (s : State) (f : Flt) (pc : Word) (r : XReg) (entry : Word) (k : Nat) (o : Obj)
    (h : s.me.handler = none) (hh : s.handlerOf = some (entry, k, o)) (hq : s.drain.me.mqueue = []) :
    s.takeFault f pc r = s.drain.enterHandler (s.me.record s.time f) pc r entry k o := by
  unfold State.takeFault State.takeAt
  simp [h, hh, hq]

/-- What a handler starts with (R400): the entry point, the record in x1 to x5, every other register as at a start, and
the saved state behind it. -/
theorem State.enterHandler_me (s : State) (rc : Rec) (pc : Word) (r : XReg) (entry : Word) (k : Nat) (o : Obj) :
    (s.enterHandler rc pc r entry k o).me.pc = entry ∧
    (s.enterHandler rc pc r entry k o).me.x = handlerX rc (s.saveMe pc).me.esr ∧
    (s.enterHandler rc pc r entry k o).me.handler.isSome = true ∧
    (s.enterHandler rc pc r entry k o).me.obj = k ∧
    (s.enterHandler rc pc r entry k o).me.rbase = (s.saveMe pc).me.rdepth ∧
    (s.enterHandler rc pc r entry k o).me.mbase = (s.saveMe pc).me.mdepth ∧
    (s.enterHandler rc pc r entry k o).mem = (s.saveMe pc).mem := by
  unfold State.enterHandler
  generalize s.saveMe pc = t
  exact ⟨rfl, rfl, rfl, rfl, rfl, rfl, rfl⟩

theorem State.wf_spillAll (s : State) (h : Memory.wf s.mem) : Memory.wf s.spillAll.mem := by
  unfold State.spillAll
  exact State.wf_writeP _ _ _ (State.wf_writeP _ _ _ h)

theorem State.wf_saveMe (s : State) (pc : Word) (h : Memory.wf s.mem) : Memory.wf (s.saveMe pc).mem := by
  have h1 := State.wf_spillAll s h
  unfold State.saveMe
  generalize s.spillAll = t at h1
  exact State.wf_writeP _ _ _ h1

theorem State.wf_enterHandler (s : State) (rc : Rec) (pc : Word) (r : XReg) (entry : Word) (k : Nat) (o : Obj)
    (h : Memory.wf s.mem) : Memory.wf (s.enterHandler rc pc r entry k o).mem := by
  have h1 := State.wf_saveMe s pc h
  unfold State.enterHandler
  generalize s.saveMe pc = t at h1
  exact h1

end Sys2Proof.Machine
end

