-- ==== Sys2Proof/Machine/Container.lean ====
section
/-! DEFINITION. Containers (R330 to R332): their well-formedness and the level a translator starts from. The device
itself is given the bodies of KIND 3 sections, which are code objects. -/

namespace Sys2Proof.Machine

/-- A section entry (R330). -/
structure Sect where
  kind : Nat
  gen : Nat
  items : Nat
  off : Nat
  len : Nat
  deriving DecidableEq, Repr

def stcSects (b : List Byte) : List Sect :=
  (List.range (field b 4 2)).map (fun i =>
    let o := 16 + 32 * i
    ⟨field b o 1, field b (o + 1) 1, field b (o + 4) 4, field b (o + 8) 8, field b (o + 16) 8⟩)

/-- Do the entry of a code object and its header agree: GEN, and ITEMS with the words of its text (R330, R333). -/
def Sect.agrees (b : List Byte) (x : Sect) : Bool :=
  let body := (b.drop x.off).take x.len
  64 ≤ x.len && x.gen == field body 4 1 && 8 * x.items == coTextLen body

/-- Is a section entry well formed and its section within the container. -/
def sectOk (b : List Byte) (i : Nat) (x : Sect) : Bool :=
  let o := 16 + 32 * i
  1 ≤ x.kind && x.kind ≤ 4 && (x.kind == 3 || x.gen == 0) && zeroIn b (o + 2) 2 && zeroIn b (o + 24) 8
    && x.off % 64 == 0 && x.off + x.len ≤ b.length && (x.kind != 3 || x.agrees b)

/-- Is a container well formed: one section at most of each of KIND 1, 2 and 4, and of each GEN of KIND 3 (R330). -/
def stcOk (b : List Byte) : Bool :=
  let xs := stcSects b
  let keys := xs.map (fun x => (x.kind, x.gen))
  field b 0 4 == 0x0004000B && 1 ≤ field b 4 2 && field b 4 2 ≤ 256 && zeroIn b 6 10
    && ((List.range xs.length).zip xs).all (fun p => sectOk b p.1 p.2) && keys.eraseDups.length == keys.length

/-- The level a translation starts from (R332). -/
inductive StartLevel where
  | scalar (gen : Nat) | loop | tile
  deriving DecidableEq, Repr

def startLevel (b : List Byte) (target : Nat) : StartLevel :=
  let xs := stcSects b
  let gens := (xs.filter (fun x => x.kind == 3 && x.gen ≤ target)).map (·.gen)
  match gens.max? with
  | some g => .scalar g
  | none => if xs.any (fun x => x.kind == 2) then .loop else .tile

/-- The code object that a target of a generation is given. -/
def codeObject (b : List Byte) (target : Nat) : Option (List Byte) :=
  match startLevel b target with
  | .scalar g => ((stcSects b).find? (fun x => x.kind == 3 && x.gen == g)).map (fun x => (b.drop x.off).take x.len)
  | _ => none

end Sys2Proof.Machine
end

