-- ==== Sys2Proof/Tests/Slice0.lean ====
section
/-! SUPPORT. Tests of the model's author: words written out from the spec's encodings, an ill-formed term for each check of
`Instr.wf`, and states that meet the hypotheses of the statements. Expected values come from the spec's words. -/

namespace Sys2Proof.Tests

open Sys2Proof Sys2Proof.Machine Sys2Proof.Claims

set_option Elab.async false

/-! ### Helpers -/

/-- A result that is an answer and passes a test. -/
def okP {ε α : Type} (p : α → Bool) : Except ε α → Bool
  | .ok a => p a
  | .error _ => false

def errP {ε α : Type} (p : ε → Bool) : Except ε α → Bool
  | .ok _ => false
  | .error e => p e

def someP {α : Type} (p : α → Bool) : Option α → Bool
  | some a => p a
  | none => false

/-- An outcome that is a next state and passes a test. -/
def nextP (p : State → Bool) : Res → Bool
  | .next t => p t
  | _ => false

theorem okAnd {ε α : Type} {r : Except ε α} (p : α → Bool) (h : okP p r = true) : ∃ a, r = .ok a ∧ p a = true := by
  cases r with
  | ok a => exact ⟨a, rfl, h⟩
  | error e => exact absurd h Bool.false_ne_true

theorem errAnd {ε α : Type} {r : Except ε α} (p : ε → Bool) (h : errP p r = true) : ∃ e, r = .error e ∧ p e = true := by
  cases r with
  | ok a => exact absurd h Bool.false_ne_true
  | error e => exact ⟨e, rfl, h⟩

theorem someAnd {α : Type} {r : Option α} (p : α → Bool) (h : someP p r = true) : ∃ a, r = some a ∧ p a = true := by
  cases r with
  | some a => exact ⟨a, rfl, h⟩
  | none => exact absurd h Bool.false_ne_true

theorem nextAnd {r : Res} (p : State → Bool) (h : nextP p r = true) : ∃ a, r = .next a ∧ p a = true := by
  cases r with
  | next a => exact ⟨a, rfl, h⟩
  | fault e => exact absurd h Bool.false_ne_true
  | refused e => exact absurd h Bool.false_ne_true

/-- The gang of the strand in front. -/
def g0 : GangId := ⟨1, 0, 0⟩

/-- A code object with a data binding, and a handler's entry point 0x100 bytes into its text. -/
def obj0 : Obj :=
  ⟨[], 0x10000, 4096, 0x20000, 4096, 32, 0, 0,
    [⟨none, 0x1FF#16, 0x20000#64, 4096#64⟩, ⟨some 0, 4#16, 0x10000#64, 4096#64⟩], [0x10000]⟩

/-- A context whose first GiB of addresses is one page of HBM with every right, its table entries cached. -/
def ctx0 : Ctx :=
  { fetchCtx with
    host := 7
    poolBase := 0x40000000
    poolLen := 0x100000
    objs := [obj0]
    tlb := [⟨0, 0, 0x2000, 0x4004, 0⟩, ⟨1, 0, 0x4000, 0x6004, 0⟩, ⟨2, 0, 0x6000, 2 ^ 59 + 2 ^ 57 + 2 ^ 56 + 0x38, 0⟩] }

def node0 : Node :=
  ⟨⟨0, 1, 1, false, 0, 256, 0#64, 0#64, 0#64, [(1, 1, 0)], []⟩, .running, 1, false, [0], 0, none, 0, false⟩

def launch0 : Launch := ⟨1, 1, 0, 1, 0, 0, 0x30000, 0, 0x77#64, 1, 0, false, false, false, [node0]⟩

def queue0 : Queue := ⟨1, 1, 7, true, 0x38000, 0, 0, 7, 0, none, false, 0, [], []⟩

/-- Bound 1 lies over data, bound 2 over local scratch, bound 3 over the cluster's scratchpad, each with every right. -/
def strand0 : Strand :=
  { fetchStrand with
    gang := g0
    b := ((fetchStrand.b.set 1 ⟨0x20000#64, 0x20000#64, 0x1000#64, 0x1FF#16⟩).set 2
      ⟨0xF000000000000000#64, 0xF000000000000000#64, 0x1000#64, 0x1FF#16⟩).set 3
      ⟨0xF100000000000000#64, 0xF100000000000000#64, 0x1000#64, 0x1FF#16⟩
    areas := ⟨0x40000000, 0x40010000, 0x40020000, 0x40030000⟩
    spillRs := 0x40020000
    spillMs := 0x40030000 }

/-- A small module with that strand in front, its node running. -/
def base : State :=
  { State.reset with
    boot := .up
    me := strand0
    ctxs := [ctx0]
    queues := [queue0]
    launches := [launch0]
    nextLaunch := 2
    nextSid := 2
    hosts := [(7, true)]
    clusters := [(0, { Cluster.reset with allocs := [⟨0, 0x1000, 0, g0⟩] })]
    agenda := [.core 0 none]
    decTable := 1#32 }

/-- The module with the strand changed. -/
def withMe (f : Strand → Strand) : State := base.setMe (f base.me)

/-- The module with a fault handler. -/
def baseH : State := { base with ctxs := [{ ctx0 with handler := some 0x10100 }] }

def withMeH (f : Strand → Strand) : State := baseH.setMe (f baseH.me)

/-- Strand 0 with a value in x1 and one in x2. -/
def xs (a b : Word) (st : Strand) : Strand := (st.setX 1 a).setX 2 b

/-! ### Words of the spec's encodings -/

theorem test_decode_add : decodeWords [0x00400C1080000000] = .ok (.add 3 1 2) := by rfl
theorem test_decode_lid : decodeWords [0x80C0140000000000, 0xC123456789ABCDEF] = .ok (.lid 5 0x0123456789ABCDEF) := by
  rfl
theorem test_decode_bstrip : decodeWords [0x0149106FFFFFFFFB] = .ok (.bstrip 4 6 (-5)) := by rfl
theorem test_decode_ld : decodeWords [0x0180164B654C0000] = .ok (.ld ⟨5, 9, 11, 3, .acq, .cl, .i64, 0⟩) := by
  rfl
theorem test_decode_eret : decodeWords [0x0004000000000000] = .ok .eret := by rfl
theorem test_decode_wldix : decodeWalker 0x56058000 = some (.wldix 6 0 5 2 0) := by rfl
theorem test_decode_wbr : decodeWalker 0x8000FFF8 = some (.wbr (-8)) := by rfl
theorem test_decode_pair_refused : decodeWords [0x4E110C0010108008] = .error (.encoding 11 4) := by rfl
theorem test_decode_vfma : decodeWords [0x024E0400C1000000] = .ok (.vfma 1 0 3 1 ⟨.f32, .rne, false, 0, false⟩) := by rfl
theorem test_decode_vld : decodeWords [0x02C0004640000000] = .ok (.vld ⟨0, 1, 6, 2, .plain, .st, .f32, 0⟩) := by rfl
theorem test_decode_pcmp : decodeWords [0x0380040040000002] = .ok (.pcmp 1 .lt 0 1 0 .f32 0 false) := by rfl
theorem test_decode_amul : decodeWords [0x03C20C1080100000] = .ok (.amul 3 1 2 0 ⟨.f16, .rne, false, 0, false⟩ false false) := by
  rfl
theorem test_decode_mopa :
    decodeWords [0x0401040040080000] = .ok (.mopa 1 0 1 ⟨.bf16, .rne, false, false, false, false, none⟩) := by rfl
theorem test_decode_mldw : decodeWords [0x0403005000080080] = .ok (.mldw 5 0x80 .bf16 false) := by rfl
theorem test_decode_bwait : decodeWords [0x0487014580000000] = .ok (.bwait 20 22) := by rfl
theorem test_decode_cpgo : decodeWords [0x0440005500000000] = .ok (.cpgo 0 5 20) := by rfl
theorem test_decode_vamo :
    decodeWords [0x03000C4085890092] = .ok (.vamo 3 4 2 5 1 ⟨.i32, .rne, false, 0, 2, .rel, .cl⟩) := by rfl
theorem test_decode_trbatch : decodeWords [0x0582143187000000] = .ok (.trbatch 5 3 6 7) := by rfl
theorem test_decode_trinit : decodeWords [0x0580141000000000] = .ok (.trinit 5 1) := by rfl
theorem test_decode_trback : decodeWords [0x05840013D1000001] = .ok (.trback 1 15 17 1) := by rfl
theorem test_decode_immediate : decodeWords [0x00800C1FFFFFFFFF] = .ok (.addi 3 1 (-1)) := by rfl
theorem test_decode_move : decodeWords [0x010B0C1000000000] = .ok (.fmvxf 3 1 .f32) := by rfl
theorem test_decode_bound : decodeWords [0x01C40C1000000003] = .ok (.bperm 3 1 3) := by rfl
theorem test_decode_config : decodeWords [0x0200000000000002] = .ok (.cfgreg .c32 0 0) := by rfl
theorem test_decode_convert : decodeWords [0x0280040000100000] = .ok (.vcvt 1 0 .f32 ⟨.f16, .rne, false, 0, false⟩) := by rfl
theorem test_decode_mask : decodeWords [0x03400420C0000000] = .ok (.mand 1 2 3) := by rfl
theorem test_decode_pad : decodeWords [0x04C3042000000002] = .ok (.spalloc 1 2 2) := by rfl
theorem test_decode_fabric : decodeWords [0x0505142000500000] = .ok (.rput 5 2 .n8) := by rfl
theorem test_decode_run : decodeWords [0x05400420C4000000] = .ok (.wkrun 1 2 3 4) := by rfl
theorem test_decode_cache : decodeWords [0x05C0003085000000] = .ok (.kvacc 3 2 5 .f32 .rne 0) := by rfl
theorem test_decode_graph : decodeWords [0x06010420C0000000] = .ok (.gdone 1 2 3) := by rfl
theorem test_decode_pair : decodeWords [0x4831800812838002] = .ok (.pairAddi 6 6 16 (.shli 8 7 2)) := by rfl
theorem test_decode_walker : decodeWalker 0x90670009 = some (.wbeq 6 7 9) ∧
    decodeWalker 0xA021FFF2 = some (.wblt 2 1 (-14)) := by exact ⟨rfl, rfl⟩

/-! ### Ill-formed terms, one for each check -/

def ill (is : List Instr) : Bool := is.all (fun i => !i.wf)

theorem test_wf_scalar_float : ill [.fadd 0 0 0 ⟨.i32, .rne, false⟩, .fsub 0 0 0 ⟨.i8, .rne, false⟩,
    .fmul 0 0 0 ⟨.b4, .rne, false⟩, .fdiv 0 0 0 ⟨.n8, .rne, false⟩, .fsqrt 0 0 ⟨.fr16, .rne, false⟩,
    .fma 0 0 0 0 ⟨.i64, .rne, false⟩, .fmin 0 0 0 .i32, .fmax 0 0 0 .i32, .fclass 0 0 .i32, .fcmp 0 .eq 0 0 .i32,
    .fmvxf 0 0 .i32, .fmvfx 0 0 .i32, .fcvt 0 0 .i32 0 ⟨.f32, .rne, false⟩, .fcvt 0 0 .i8 1 ⟨.f32, .rne, false⟩,
    .fcvt 0 0 .f32 2 ⟨.f64, .rne, false⟩] = true := by decide +kernel

theorem test_wf_scalar_memory : ill [.ld ⟨0, 0, 0, 0, .plain, .st, .i4, 0⟩, .st ⟨0, 0, 0, 0, .plain, .st, .b4, 0⟩,
    .fld ⟨0, 0, 0, 0, .plain, .st, .i32, 0⟩, .fst ⟨0, 0, 0, 0, .plain, .st, .i32, 0⟩,
    .lr ⟨0, 0, 0, 0, .plain, .st, .i8, 0⟩, .sc ⟨0, 0, 0, 0, .plain, .st, .i8, 0⟩, .amo 0 0 0 0 .plain .st .i8 0,
    .acvt 0 0 1 false, .atest 0 0 0xF3] = true := by decide +kernel

theorem test_wf_vector_arithmetic : ill [.vadd 0 0 0 ⟨.b4, .rne, false, 0, false⟩, .vsub 0 0 0 ⟨.i32, .rtz, false, 0, false⟩,
    .vmul 0 0 0 ⟨.b8, .rne, false, 0, false⟩, .vdiv 0 0 0 ⟨.i32, .rup, false, 0, false⟩,
    .vmin 0 0 0 ⟨.i32, .rne, true, 0, false⟩, .vmax 0 0 0 ⟨.i32, .rne, true, 0, false⟩,
    .vmulh 0 0 0 ⟨.f32, .rne, false, 0, false⟩, .vrem 0 0 0 ⟨.f32, .rne, false, 0, false⟩,
    .vand 0 0 0 ⟨.f32, .rne, false, 0, false⟩, .vor 0 0 0 ⟨.i32, .rtz, false, 0, false⟩,
    .vxor 0 0 0 ⟨.i32, .rne, true, 0, false⟩, .vshl 0 0 0 ⟨.f32, .rne, false, 0, false⟩,
    .vshr 0 0 0 ⟨.f32, .rne, false, 0, false⟩, .vsra 0 0 0 ⟨.f32, .rne, false, 0, false⟩] = true := by decide +kernel

theorem test_wf_vector_functions : ill [.vfma 0 0 0 0 ⟨.i32, .rne, false, 0, false⟩,
    .vfms 0 0 0 0 ⟨.i32, .rne, false, 0, false⟩, .vfnma 0 0 0 0 ⟨.i32, .rne, false, 0, false⟩,
    .vsqrt 0 0 ⟨.i32, .rne, false, 0, false⟩, .vexp2 0 0 ⟨.i32, .rne, false, 0, false⟩,
    .vlog2 0 0 ⟨.i32, .rne, false, 0, false⟩, .vrsq 0 0 ⟨.i32, .rne, false, 0, false⟩,
    .vabs 0 0 ⟨.f32, .rtz, false, 0, false⟩, .vneg 0 0 ⟨.f32, .rne, true, 0, false⟩] = true := by decide +kernel

theorem test_wf_vector_data : ill [.vcvt 0 0 .f32 ⟨.b8, .rne, false, 0, false⟩, .vquant 0 0 .f32 .rne false .f32 0,
    .vquant 0 0 .b8 .rne false .f32 1, .vdeq 0 0 .f32 ⟨.f32, .rne, false, 0, false⟩, .vclass 0 0 .i32 0 false,
    .vcmp 0 .eq 0 0 .b4 0 false, .vperm 0 0 0 .b4 0 false, .vcomp 0 0 .b8 0, .vreds 0 0 0 .f32 .rst false 0,
    .vredm 0 0 0 .b4 false 0, .vscan 0 0 0 ⟨.f32, .rst, false, 0, false⟩] = true := by decide +kernel

theorem test_wf_vector_memory : ill [.vlds ⟨0, 0, 0, 0, .plain, .st, .b4, 0⟩, .vsts ⟨0, 0, 0, 0, .plain, .st, .i4, 0⟩,
    .vldx ⟨0, 0, 0, 0, .plain, .st, .b4, 0⟩, .vstx ⟨0, 0, 0, 0, .plain, .st, .b4, 0⟩,
    .vldt ⟨0, 0, 0, 0, .plain, .st, .b4, 0⟩, .vstt ⟨0, 0, 0, 0, .plain, .st, .b4, 0⟩,
    .slq ⟨0, 0, 0, 0, .plain, .st, .b4, 0⟩, .vamo 0 0 0 0 7 ⟨.i32, .rne, false, 0, 0, .plain, .st⟩,
    .vamo 0 0 0 0 1 ⟨.f32, .rne, false, 0, 0, .plain, .st⟩, .vcas 0 0 0 0 ⟨.i32, .rne, true, 0, 0, .plain, .st⟩,
    .gcsleep 0 0 0 .i8 0 0, .awin 0 0 0 ⟨.i8, .rne, false⟩, .awin 0 0 0 ⟨.f32, .rst, false⟩, .awin 0 0 0 ⟨.f32, .rne, true⟩, .aacc 0 0 0 ⟨.f32, .rst, false, 0, 0, .plain, .st⟩,
    .amerge 0 0 .f32 .rst false .plain .st] = true := by decide +kernel

theorem test_wf_predicates_algebra : ill [.pcmp 0 .eq 0 0 0 .b4 0 false, .pblend 0 0 0 0 ⟨.i32, .rne, false, 0, false⟩,
    .pgrad 0 0 1 0 0 ⟨.f32, .rne, false, 0, false⟩, .pgrad 0 0 0 8 0 ⟨.f32, .rne, false, 0, false⟩,
    .pseed 0 0 0 .i32 .rne 0 false, .amul 0 0 0 0 ⟨.i32, .rne, false, 0, false⟩ false false,
    .amac 0 0 0 0 ⟨.i32, .rne, false, 0, false⟩ false false, .aconj 0 0 0 .i32 0 false] = true := by decide +kernel

theorem test_wf_matrix : ill [.mopa 0 0 0 ⟨.f64, .rne, false, false, false, false, none⟩,
    .mopa 0 0 0 ⟨.bf16, .rne, false, false, false, true, none⟩, .mops 0 0 0 ⟨.bf16, .rst, false, false, false, false, none⟩,
    .mops 0 0 0 ⟨.bf16, .rne, false, true, false, false, none⟩, .mldw 0 0 .f64 false, .mldw 0 0 .b8 true,
    .mstrm 0 0 0 ⟨.b8, .rne, false, false, false, true, none⟩, .mrdrow 0 0 0 ⟨.b4, .rne, false⟩,
    .mwrrow 0 0 0 ⟨.b4, .rne, false⟩, .mldacc 0 0 0 .bf16, .mstacc 0 0 0 0 0 ⟨.b4, .rne, false⟩,
    .stpair 0 0 0 0 0 ⟨.b4, .rne, false⟩] = true := by decide +kernel

theorem test_wf_engines : ill [.cpinv 1 true, .fgath 0 0 .b4, .fscat 0 0 .b8, .fscata 0 0 ⟨.b4, .rne, false⟩,
    .coll 0 0 ⟨.f32, .dyn, false⟩, .kvacc 0 0 0 .i32 .rne 0, .kvacc 0 0 0 .f32 .rst 0] = true := by
  decide +kernel

theorem test_wf_pairs : ill [.pairAdd 1 0 0 (.add 1 0 0), .pairSub 1 0 0 (.sub 1 0 0), .pairAnd 1 0 0 (.and 1 0 0),
    .pairOr 1 0 0 (.or 1 0 0), .pairXor 1 0 0 (.xor 1 0 0), .pairShl 1 0 0 (.shl 1 0 0), .pairShr 1 0 0 (.shr 1 0 0),
    .pairSlt 1 0 0 (.slt 1 0 0), .pairAddi 1 0 0 (.addi 1 0 0), .pairShli 1 0 0 (.shli 1 0 0),
    .pairShri 1 0 0 (.shri 1 0 0), .pairLi 1 0 (.li 1 0), .pairLd 1 0 0 0 (.li 1 0), .pairVadd 0 2 4 (.li 0 0),
    .pairVsub 0 2 4 (.li 0 0), .pairVmul 0 2 4 (.li 0 0), .pairVmin 0 2 4 (.li 0 0), .pairVmax 0 2 4 (.li 0 0),
    .pairSlqtake 0 1 2 (.li 1 0), .pairSlqtake 0 1 2 (.li 2 0)] = true := by decide +kernel

/-- A well-formed neighbour of some of them is accepted. -/
theorem test_wf_accepts : [Instr.fadd 0 0 0 ⟨.f32, .rup, true⟩, .ld ⟨0, 0, 0, 0, .plain, .st, .i8, 0⟩, .atest 0 0 0xFF,
    .vadd 0 0 0 ⟨.i32, .rne, true, 0, false⟩, .vquant 0 0 .b4 .rne false .f32 1, .pairAdd 1 0 0 (.add 2 0 0),
    .pairAdd 0 0 0 (.add 0 0 0), .pairVadd 0 2 5 (.li 0 0)].all Instr.wf = true := by decide +kernel

/-! ### Reset and a step -/

theorem test_reset : Memory.wf State.reset.mem ∧ State.reset.boot = .waiting ∧ State.reset.time = 0#64 := by decide +kernel

/-- A step of the module with one word placed: ADDI x1, x0, 5. -/
theorem test_step_addi : nextP (fun t => t.me.getX 1 == 5#64 && t.me.pc == 0x10008#64)
    (step (State.reset.withFetchWord 64 0x0080040000000005)) = true := by decide +kernel

/-- A step of the walker with one word placed: WLI w1, 7. -/
theorem test_step_walker : nextP (fun t => someP (fun w => w.w[1] == 7#64) (t.cluster 0).wst)
    (step (State.reset.withFetchWord 32 0x01000007)) = true := by decide +kernel

/-! ### Witnesses: encoding, steps, fetch -/

theorem wit_DecodeEncode : (Instr.add 3 1 2).wf = true ∧ encode (.add 3 1 2) ≠ [] := by decide +kernel

theorem wit_WalkerWordsHaveOneMeaning : 0x01000007 < 2 ^ 32 ∧ decodeWalker 0x01000007 = some (.wli 1 7) := by
  exact ⟨by decide, rfl⟩

theorem wit_ReservedWordsRefused :
    (bitsOf (25 * 2 ^ 54) 63 62 = 0 ∧ 25 ≤ bitsOf (25 * 2 ^ 54) 61 54) ∧
    (bitsOf (255 * 2 ^ 54) 63 62 = 0 ∧ 25 ≤ bitsOf (255 * 2 ^ 54) 61 54) ∧
    (bitsOf (2 ^ 63 + 25 * 2 ^ 54) 63 62 = 2 ∧ 25 ≤ bitsOf (2 ^ 63 + 25 * 2 ^ 54) 61 54 ∧ bitsOf (3 * 2 ^ 62) 63 62 = 3) := by
  decide +kernel

/-- The module with ADD x3, x1, x2 placed. -/
def placed : State := State.reset.withFetchWord 64 0x00400C1080000000

/-- A strand's state whose next words are the placed ones. -/
def fetchesPlaced (u : State) : Bool :=
  !u.me.mustTake && okP (fun r => r.1 == [0x00400C1080000000]) (u.setMe { u.me with stopAt := none }).fetch

/-- The module without what stands in the agenda. -/
def noTurns (s : State) : State := { s with agenda := [] }

theorem wit_StepRunsDecoded : ∃ t u ws v, placed.agenda = [.core 0 none] ∧ placed.running = true ∧
    ({ placed with agenda := [] } : State).issues 0 = some t ∧
    ({ placed with agenda := [] } : State).select t.id = some u ∧ u.me.mustTake = false ∧
    (u.setMe { u.me with stopAt := none }).fetch = .ok (ws, v) ∧ decodeWords ws = .ok (.add 3 1 2) := by
  obtain ⟨t, ht, h⟩ := someAnd (r := (noTurns placed).issues 0)
    (fun t => someP fetchesPlaced ((noTurns placed).select t.id)) (by decide +kernel)
  obtain ⟨u, hu, h⟩ := someAnd fetchesPlaced h
  obtain ⟨hm, h⟩ := Bool.and_eq_true_iff.mp h
  obtain ⟨⟨ws, v⟩, hv, hw⟩ := okAnd (r := (u.setMe { u.me with stopAt := none }).fetch)
    (fun r => r.1 == [0x00400C1080000000]) h
  have hw : ws = [0x00400C1080000000] := by simpa using hw
  exact ⟨t, u, ws, v, rfl, by decide, ht, hu, by simpa using hm, hv, by rw [hw]; rfl⟩

theorem wit_StepRunsWalkerWord : ∃ (s : State) (w : WState) (b : BitVec 32), s = State.reset.withFetchWord 32 0x01000007 ∧
    s.agenda = [.walker 0] ∧ s.running = true ∧ ({ s with agenda := [], wfront := 0 } : State).walking = some w ∧
    w.run.prog[w.pc.toNat]? = some b ∧ decodeWalker b.toNat = some (.wli 1 7) :=
  ⟨_, fetchRun 0x01000007, 0x01000007#32, rfl, rfl, by decide, rfl, rfl, rfl⟩

theorem wit_StepRunsEvent :
    (∃ s : State, s.agenda = [.event (.waiteWake 1)] ∧ Late.occurs (.waiteWake 1) { s with agenda := [] } = true) ∧
    (∃ s : State, s.agenda = [.event (.waiteWake 1)] ∧ Late.occurs (.waiteWake 1) { s with agenda := [] } = false) :=
  ⟨⟨{ withMe (fun st => { st with blocked := some .waite }) with agenda := [.event (.waiteWake 1)] }, rfl, by decide +kernel⟩,
    ⟨{ State.reset with agenda := [.event (.waiteWake 1)] }, rfl, by decide +kernel⟩⟩

theorem wit_StepRunsReservedCommand : ∃ (s : State) (c : Cmd), s.agenda = [.command 0x1C c] ∧ s.boot = .up ∧
    (0x1C#16 = 0x00#16 ∨ 0x1C#16 = 0x0E#16 ∨ 0x1C#16 = 0x0F#16 ∨ 0x1C ≤ (0x1C#16).toNat) :=
  ⟨{ base with agenda := [.command 0x1C ⟨7, false, 0, 0, 0x0004000C#32, 0#16, 9#64, 0#32, 0#32, 0#64, 0#64, 0#64, 0#64, 0#64, []⟩] }, _,
    rfl, rfl, by decide⟩

theorem wit_FetchReadsCode : ∃ (s t : State) (bs : List Byt), s = placed ∧ s.me.pc.toNat % 8 = 0 ∧
    (s.me.getB s.me.codeb).refuses useEX s.me.pc.toNat 8 = none ∧
    resolve s.who .fetch false ((s.me.getB s.me.codeb).addrs s.me.pc.toNat 8) s none [] = .ok (bs, t) ∧
    t.bad = [] ∧ t.me.icache = [] ∧ bitsOf (ofLE (bs.map (fun b => Memory.get t.mem b.loc))) 63 62 < 2 := by
  obtain ⟨⟨bs, t⟩, h, g⟩ := okAnd
    (r := resolve placed.who .fetch false ((placed.me.getB placed.me.codeb).addrs placed.me.pc.toNat 8) placed none [])
    (fun r => decide (r.2.bad = [] ∧ r.2.me.icache = [] ∧ bitsOf (ofLE (r.1.map (fun b => Memory.get r.2.mem b.loc))) 63 62 < 2))
    (by decide +kernel)
  exact ⟨placed, t, bs, rfl, by decide +kernel, by decide +kernel, h, of_decide_eq_true g⟩

theorem wit_StepKeepsInv : ∃ t, Inv State.reset ∧ step State.reset = .next t :=
  ⟨State.reset, ⟨⟨by decide, by decide⟩, by intro i h; cases h⟩, rfl⟩

/-! ### Witnesses: scalar instructions -/

theorem wit_XRegisters : (3 : XReg) ≠ 0 ∧ (4 : XReg) ≠ 3 := by decide

theorem wit_IntegerResults : intValue (xs (-7) 0 strand0) (.div 3 1 2) = some (3, BitVec.allOnes 64) ∧
    intValue (xs (-7) 2 strand0) (.rem 3 1 2) = some (3, -1#64) ∧
    intValue (xs 1 64 strand0) (.shl 3 1 2) = some (3, 1#64) := by
  exact ⟨by simp [intValue]; decide +kernel, by simp [intValue]; decide +kernel, by simp [intValue]; decide +kernel⟩

theorem wit_ImmediateResults : immValue (xs 1 0 strand0) (.addi 3 1 (-1)) = some (3, 0#64) := by decide +kernel

theorem wit_BranchResults : branchOf strand0 (.beq 0 0 (-1)) = some (true, -1) ∧
    branchOf strand0 (.bne 0 0 (-1)) = some (false, -1) := by decide +kernel

/-- A return stack of n entries, the depth counting `more` below them. -/
def deep (n more : Nat) (st : Strand) : Strand := { st with rstack := List.replicate n 8#64, rdepth := n + more }

theorem wit_CallsAndReturns :
    (let s := withMe (deep 15 4080); s.me.rbase + s.me.rdepth < 4096 ∧ s.me.rstack.length < 16) ∧
    (let s := withMe (deep 1 0); s.me.rstack = [8#64] ∧ s.me.rdepth ≠ 0 ∧ s.me.rdepth = 1) ∧
    (let s := withMe (deep 2 0); s.me.rstack = [8#64, 8#64] ∧ s.me.rdepth ≠ 0) := by decide +kernel

theorem wit_CallSpills :
    (let s := withMe (deep 16 4079); s.me.rbase + s.me.rdepth < 4096 ∧ s.me.rstack.length = 16 ∧
      s.me.rstack.getLast? = some 8#64 ∧ s.writable s.me.spillRs 8 = true ∧ s.ckArea = none) ∧
    (let s := withMe (deep 16 4080); 4096 ≤ s.me.rbase + s.me.rdepth) ∧
    (let s := withMe (fun st => { deep 1 1 st with spillRs := 0x40020008 });
      s.me.rstack = [8#64] ∧ 1 < s.me.rdepth ∧ s.readable (s.me.spillRs - 8) 8 = true) ∧
    (withMe (deep 0 0)).me.rdepth = 0 := by decide +kernel

theorem wit_StripLoop : (1 : XReg) ≠ 2 ∧ (2 : XReg) ≠ 0 ∧
    (let s := withMe (fun st => { xs 4 0 st with vl := 4 }); s.me.getX 1 ≠ 0#64 ∧ s.me.vl ≠ 0 ∧ (s.me.getX 1).toNat ≤ s.me.vl) ∧
    (let s := withMe (fun st => { xs 5 0 st with vl := 4 }); s.me.getX 1 ≠ 0#64 ∧ s.me.vl ≠ 0 ∧ s.me.vl < (s.me.getX 1).toNat) := by
  decide +kernel

theorem wit_StripLoopFaults : (withMe (xs 0 0)).me.getX 1 = 0#64 ∧ (withMe (xs 4 0)).me.vl = 0 ∧ (1 : XReg) ≠ 2 := by
  decide +kernel

/-- 1.0 and a signalling NaN in f32. -/
def fs (a b : Word) (st : Strand) : Strand := { st with f := (st.f.set 1 a).set 2 b }

theorem wit_FloatResults : ∃ x e, floatExact (withMe (fs 0x3F800000 0x3F800000)).me (.fadd 3 1 2 ⟨.f32, .rne, false⟩)
      = some (3, ⟨.f32, .rne, false⟩, x, e) ∧
    (e ||| (floatCode (withMe (fs 0x3F800000 0x3F800000)).me ⟨.f32, .rne, false⟩ x).2)
      &&& (withMe (fs 0x3F800000 0x3F800000)).me.ten = 0#7 ∧
    (floatCode (withMe (fs 0x3F800000 0x3F800000)).me ⟨.f32, .rne, false⟩ x).1 = 0x40000000 :=
  ⟨_, _, rfl, by decide +kernel, by decide +kernel⟩

/-- With the trap of event V enabled, a signalling NaN operand traps. -/
def trapV (st : Strand) : Strand := { fs 0x3F800000 0x7F800001 st with fstat := 0xFFFFFFFF#32 }

theorem wit_FloatTraps : ∃ x e, floatExact (withMe trapV).me (.fadd 3 1 2 ⟨.f32, .rne, false⟩)
      = some (3, ⟨.f32, .rne, false⟩, x, e) ∧
    (e ||| (floatCode (withMe trapV).me ⟨.f32, .rne, false⟩ x).2) &&& (withMe trapV).me.ten ≠ 0#7 :=
  ⟨_, _, rfl, by decide +kernel⟩

theorem wit_FloatMinMax : isF .f32 = true ∧
    (let st := (withMe (fs 0x3F800000 0x40000000)).me; (isSnan (st.fval .f32 1) || isSnan (st.fval .f32 2)) = false ∧
      isNan (st.fval .f32 1) = false ∧ isNan (st.fval .f32 2) = false) ∧
    (let st := (withMe (fs 0x3F800000 0x7F800001)).me; isSnan (st.fval .f32 2) = true ∧ st.ten &&& evV = 0#7) ∧
    (let st := (withMe (fs 0x7FC00000 0x40000000)).me; (isSnan (st.fval .f32 1) || isSnan (st.fval .f32 2)) = false ∧
      isNan (st.fval .f32 1) = true ∧ isNan (st.fval .f32 2) = false) ∧
    (let st := (withMe (fs 0x7FC00000 0x7FC00000)).me; (isSnan (st.fval .f32 1) || isSnan (st.fval .f32 2)) = false ∧
      isNan (st.fval .f32 1) = true ∧ isNan (st.fval .f32 2) = true) := by
  decide +kernel

theorem wit_FloatToInteger :
    (let st := (withMe (fs 0x3FC00000 0)).me;
      (floatCode st ⟨.i32, .rne, false⟩ (.val (st.fval .f32 1))).2 &&& st.ten = 0#7) ∧
    (let st := (withMe (fs 0x3FC00000 0)).me; relEv .lt (st.fval .f32 1) (st.fval .f32 2) &&& st.ten = 0#7) ∧
    (3 : XReg) ≠ 0 := by decide +kernel

theorem wit_FloatMoves : isF .bf16 = true ∧ isF .f64 = true := by decide

theorem wit_RoundingKeepsValues : ∃ f q, fmtOf .f32 = some f ∧ 0x3F800000 < 2 * fmtSign f ∧
    decodeVal .f32 0x3F800000 = .fin q := ⟨_, _, rfl, by decide +kernel, rfl⟩

/-! ### Witnesses: scalar memory -/

/-- An access of the strand at its bound 1, of the type and at the address that a word names. -/
def wm (ty : ETy) (off : BitVec 18) : WM := ⟨3, 1, 0, 0, .ar, .st, ty, off⟩

theorem admitted0 (use : Nat) (w : Bool) (ty : ETy) (off : BitVec 18)
    (h : okP (fun r => !base.conflicts r.1 w)
      (access base base.who (base.me.getB 1) 1 use (base.me.eaM (wm ty off)) (sbytes ty) 0) = true) :
    ∃ bs t, Admitted base 1 use (base.me.eaM (wm ty off)) (sbytes ty) .ar w bs t := by
  obtain ⟨⟨bs, t⟩, h, g⟩ := okAnd
    (r := access base base.who (base.me.getB 1) 1 use (base.me.eaM (wm ty off)) (sbytes ty) 0)
    (fun r => !base.conflicts r.1 w) h
  exact ⟨bs, t, h, by simpa using g, rfl, fun _ => by decide +kernel⟩

/-- The first and the last eight bytes of the bound. -/
theorem wit_ScalarLoads : (∃ bs t, Admitted base 1 useLD (base.me.eaM (wm .i64 0)) (sbytes .i64) .ar false bs t) ∧
    (∃ bs t, Admitted base 1 useLD (base.me.eaM (wm .i64 0xFF8)) (sbytes .i64) .ar false bs t) ∧
    base.me.eaM (wm .i64 0xFF8) % (sbytes .i64 : Int) = 0 ∧ (wm .i64 0).data ≠ 0 :=
  ⟨admitted0 useLD false .i64 0 (by decide +kernel), admitted0 useLD false .i64 0xFF8 (by decide +kernel),
    by decide +kernel, by decide⟩

theorem wit_ScalarStores : (∃ bs t, Admitted base 1 useST (base.me.eaM (wm .i64 0)) (sbytes .i64) .ar true bs t) ∧
    (∃ bs t, Admitted base 1 useST (base.me.eaM (wm .i8 0xFFF)) (sbytes .i8) .ar true bs t) :=
  ⟨admitted0 useST true .i64 0 (by decide +kernel), admitted0 useST true .i8 0xFFF (by decide +kernel)⟩

theorem wit_EffectiveAddress : ∃ bs t, access base base.who (base.me.getB 1) 1 useLD (base.me.eaM (wm .i32 4)) (sbytes .i32) 0
      = .ok (bs, t) ∧ (base.me.getB 1).view = 0 := by
  obtain ⟨bs, t, h⟩ := admitted0 useLD false .i32 4 (by decide +kernel)
  exact ⟨bs, t, h.ok, by decide +kernel⟩

/-- Below, at and above the range of bound 1, and without the permission. -/
theorem wit_BoundChecks : (0x1FFFF : Int) < (base.me.getB 1).base.toNat ∧
    ((base.me.getB 1).base.toNat : Int) ≤ 0x20FF9 ∧
      ((base.me.getB 1).base.toNat + (base.me.getB 1).len.toNat : Int) < 0x20FF9 + 8 ∧
    ((base.me.getB 1).base.toNat : Int) ≤ 0x20FF8 ∧
      (0x20FF8 + 8 : Int) ≤ (base.me.getB 1).base.toNat + (base.me.getB 1).len.toNat ∧
    (base.me.getB 0).perm.getLsbD useLD = false ∧ (base.me.getB 1).refuses useLD 0x20FF8 8 = none := by decide +kernel

theorem wit_AccessSetsOnlyMarks : ∃ bs t, access base base.who (base.me.getB 1) 1 useST 0x20000 8 0 = .ok (bs, t) := by
  obtain ⟨⟨bs, t⟩, h, _⟩ := okAnd (r := access base base.who (base.me.getB 1) 1 useST 0x20000 8 0) (fun _ => true)
    (by decide +kernel)
  exact ⟨bs, t, h⟩

theorem wit_WritesReadBack : [0x20000, 0x20001].length = [1#8, 2#8].length ∧ [0x20000, 0x20001].Nodup ∧ base.ckArea = none := by
  decide +kernel

theorem wit_StoreConditional : base.me.eaM (wm .i64 0) % (sbytes .i64 : Int) = 0 ∧
    (∃ bs t, Admitted base 1 useST (base.me.eaM (wm .i64 0)) (sbytes .i64) .ar true bs t) ∧
    base.me.holds 0x20000 8 = false ∧
    (withMe (fun st => { st with resv := some ⟨0x800, 8, []⟩ })).me.holds 0x20000 8 = true :=
  ⟨by decide +kernel, admitted0 useST true .i64 0 (by decide +kernel), by decide +kernel, by decide +kernel⟩

theorem wit_AtomicsAndPrefetch : isAtomTy .n64 = true ∧
    (((base.me.getB 1).addr.toNat : Int) + (0#18).toInt) % (sbytes .n64 : Int) = 0 ∧
    (∃ bs t, Admitted base 1 useAT (((base.me.getB 1).addr.toNat : Int) + (0#18).toInt) (sbytes .n64) .ar true bs t) ∧
    (∃ bs t, access base base.who (base.me.getB 1) 1 useLD (base.me.ea 1 0 0 0) 1 0 = .ok (bs, t)) := by
  refine ⟨by decide, by decide +kernel, ?_, ?_⟩
  · obtain ⟨⟨bs, t⟩, h, g⟩ := okAnd
      (r := access base base.who (base.me.getB 1) 1 useAT (((base.me.getB 1).addr.toNat : Int) + (0#18).toInt) (sbytes .n64) 0)
      (fun r => !base.conflicts r.1 true) (by decide +kernel)
    exact ⟨bs, t, h, by simpa using g, rfl, fun _ => by decide +kernel⟩
  · obtain ⟨⟨bs, t⟩, h, _⟩ := okAnd (r := access base base.who (base.me.getB 1) 1 useLD (base.me.ea 1 0 0 0) 1 0) (fun _ => true)
      (by decide +kernel)
    exact ⟨bs, t, h⟩

theorem wit_MisalignedAtomics : base.me.eaM (wm .i64 7) % (sbytes .i64 : Int) ≠ 0 ∧
    (((base.me.getB 1).addr.toNat : Int) + (7#18).toInt) % (sbytes .n64 : Int) ≠ 0 := by decide +kernel

theorem wit_RefusedAccessFaults :
    (∃ f, access base base.who (base.me.getB 1) 1 useLD (base.me.eaM (wm .i64 0xFF9)) (sbytes .i64) 0 = .error f) ∧
    (∃ f, access base base.who (base.me.getB 1) 1 useST (base.me.eaM (wm .i64 0xFF9)) (sbytes .i64) 0 = .error f) ∧
    base.transfersOut = false := by
  obtain ⟨f, hf, _⟩ := errAnd
    (r := access base base.who (base.me.getB 1) 1 useLD (base.me.eaM (wm .i64 0xFF9)) (sbytes .i64) 0) (fun _ => true)
    (by decide +kernel)
  obtain ⟨g, hg, _⟩ := errAnd
    (r := access base base.who (base.me.getB 1) 1 useST (base.me.eaM (wm .i64 0xFF9)) (sbytes .i64) 0) (fun _ => true)
    (by decide +kernel)
  exact ⟨⟨f, hf⟩, ⟨g, hg⟩, by decide +kernel⟩

/-- A store, and a load-reserved with its store-conditional, on the small state. -/
theorem test_store : nextP (fun t => t.readP 0x20000 4 == [0x44#8, 0x33#8, 0x22#8, 0x11#8])
    (exec (.st (wm .i32 0)) (withMe (fun st => st.setX 3 0x11223344#64))) = true := by decide +kernel

/-! ### Witnesses: bounds and system registers -/

theorem wit_BoundRegisters : (((base.objOf.map (·.binds)).getD [])[(0#16).toNat]? = some ⟨none, 0x1FF#16, 0x20000#64, 4096#64⟩) ∧
    (let s := withMe (xs 0x1000 0); (s.me.getX 1).toNat ≤ (s.me.getB 1).len.toNat ∧
      (s.me.getX 2).toNat ≤ (s.me.getB 1).len.toNat - (s.me.getX 1).toNat) ∧
    (let s := withMe (xs 0 0x1000); (s.me.getX 1).toNat ≤ (s.me.getB 1).len.toNat ∧
      (s.me.getX 2).toNat ≤ (s.me.getB 1).len.toNat - (s.me.getX 1).toNat) := by decide +kernel

theorem wit_BoundFaults : (let s := withMe (xs 0x1001 0); (s.me.getB 1).len.toNat < (s.me.getX 1).toNat) ∧
    (let s := withMe (xs 0x1000 1); (s.me.getX 1).toNat ≤ (s.me.getB 1).len.toNat ∧
      (s.me.getB 1).len.toNat - (s.me.getX 1).toNat < (s.me.getX 2).toNat) ∧
    ((base.objOf.map (·.binds)).getD []).length ≤ (2#16).toNat := by decide +kernel

/-- The last address of each aperture, and values beside them. -/
theorem wit_ApertureConversions :
    (apCode 0xF0 = true ∧ 0xF00000000003FFFF / 2 ^ 56 = 0xF0 ∧ ApZero 0xF0 0xF00000000003FFFF) ∧
    (apCode 0xF2 = true ∧ 0xF2140000007FFFFF / 2 ^ 56 = 0xF2 ∧ ApZero 0xF2 0xF2140000007FFFFF) ∧
    ¬ (0xF100000000800000 / 2 ^ 56 = 0xF1 ∧ ApZero 0xF1 0xF100000000800000) ∧
    (0xF0000007FFFFF < 2 ^ 56 ∧ ApZero 0xF2 0xF0000007FFFFF ∧ 0xF0000007FFFFF / 2 ^ 48 < 16) ∧
    ¬ (0x10000000000000 / 2 ^ 48 < 16) ∧ apCode 0 = true ∧ apertureOf (2 ^ 56 - 1) ≠ none ∧
    apertureOf 0xF20F0000007FFFFF ≠ none := by
  unfold ApZero
  decide +kernel

theorem wit_SystemRegisters : sysFree base.me .fstat ∧ SysReg.fstat ≠ .time ∧ badSys .fstat (base.me.getX 1) = false ∧
    badSys .vtype (base.me.getX 1) = false ∧ badSys .tau (withMe (xs (-1) 0) |>.me.getX 1) = false := by
  exact ⟨fun _ => rfl, by decide, by decide +kernel, by decide +kernel, by decide +kernel⟩

theorem wit_SystemRegisterFaults : badSys .fstat ((withMe (xs 0x80000000 0)).me.getX 1) = true ∧
    badSys .vtype ((withMe (xs 23 0)).me.getX 1) = true := by decide +kernel

theorem wit_Time : base.replay = none ∧ base.logArea = none ∧ ((withMe (xs 0 0)).me.getX 1).toNat ≤ base.time.toNat ∧
    base.time.toNat < ((withMe (xs 1 0)).me.getX 1).toNat := by decide +kernel

/-- A copy of the strand in front that is still out. -/
def copy0 : Copy :=
  ⟨7, 0, base.issuer, 0x20000, 0x20800, 64, [], 64, base.me.getB 1, base.me.getB 1, 0, [], 0, false, none, 0, false, none, none⟩

def busy : State := { base with cores := [(0, { Core.reset with copies := [copy0] })] }

theorem wit_HintsAndFences : base.transfersOut = false ∧ busy.transfersOut = true := by decide +kernel

theorem wit_EventLatch : base.me.latch = true ∧ (withMe (fun st => { st with latch := false })).me.latch = false ∧
    base.transfersOut = false ∧ base.me.exists? = true := by decide +kernel

theorem wit_ExitEndsStrand : base.me.handler = none ∧ base.me.inMatrix = false ∧ base.replay = none ∧
    base.node? base.me.gang.launch base.me.gang.node = some node0 := by decide +kernel

/-! ### Witnesses: exceptions -/

theorem wit_HandlerEntry : baseH.me.handler = none ∧ baseH.handlerOf = some (0x10100#64, 0, obj0) ∧ baseH.me.mqueue = [] ∧
    baseH.ckArea = none := by decide +kernel

theorem wit_FaultRecord : (0x91 : Nat) < 2 ^ 16 ∧ (255 : Nat) < 2 ^ 8 := by decide

/-- A matrix instruction whose tile a walker run has not delivered. -/
def undelivered : MEntry := ⟨.mldw 1 0x80 .bf16 false, 0x10000#64, 0, 0, 0, 0, 0, 0, 0, 0, Bound.zero, 0#32, none, [], 7, false, none, true, 1, false⟩

theorem wit_ServiceRequests : (baseH.me.handler = none ∧ baseH.handlerOf ≠ none ∧ baseH.drained = true) ∧
    (let s := withMeH (fun st => { st with mqueue := [undelivered] });
      s.me.handler = none ∧ s.handlerOf ≠ none ∧ s.drained = false) ∧ base.handlerOf = none := by decide +kernel

/-- In handler mode, for the record given. -/
def inHandler (cls : Nat) (st : Strand) : Strand :=
  { st with handler := some ⟨st.record 0#64 ⟨cls, 0, 0#64, 0#64, 0#64⟩, 4, 0#7, 0, 0, 0, 0, none, none, Vector.replicate 6 0, 0⟩ }

theorem wit_UnhandledFault : base.handlerOf = none ∧ (withMeH (inHandler 6)).me.handler.isSome = true ∧
    base.replay = none ∧ base.launch? base.me.gang.launch = some launch0 ∧
    launch0.nodes[base.me.gang.node]? = some node0 := by decide +kernel

/-- A strand in handler mode after a service request, with x1, and with a save area in which a return entry lies spilled. -/
def returning (x1 : Word) : State :=
  let s := withMeH (fun st => xs x1 9 (inHandler 1 st))
  s.writeP (s.me.areas.save + 4) (toLE 4 0x800 ++ toLE 8 0x10008 ++ toLE 8 0x40020008 ++ toLE 8 0x40030000 ++ toLE 4 0
    ++ toLE 4 8 ++ toLE 2 1)

/-- What that save area holds. -/
def savedStrand (s : State) : Strand := loadBytes { s.me with stream := none } (s.savedBytes s.me.areas.save)

theorem wit_HandlerReturn :
    (∃ h, (returning 0).me.handler = some h ∧ h.stream = none) ∧ (returning 0).me.mqueue = [] ∧ (returning 0).bad = [] ∧
    (returning 0).me.getX 1 = 0#64 ∧ (savedStrand (returning 0)).rdepth = 1 ∧ (returning 1).me.getX 1 = 1#64 ∧
    (let s := { returning 0 with bad := [0x40020003] };
      s.me.getX 1 = 0#64 ∧ (savedStrand s).rdepth ≠ 0 ∧ s.readable ((savedStrand s).spillRs - 8) 8 = false) ∧
    ((returning 2).me.getX 1 ≠ 0#64 ∧ (returning 2).me.getX 1 ≠ 1#64) := by
  refine ⟨⟨_, rfl, rfl⟩, ?_⟩
  decide +kernel

theorem wit_ReturnOutsideHandler : base.me.handler = none := by decide +kernel

theorem savable0 (m : Bool) (b : Option (Nat × Nat)) (h : ∀ p k, b = some (p, k) → p < 8 ∧ k < 2 ^ 64) :
    Savable { strand0 with inMatrix := m, bind := b } where
  counts :=
    show strand0.esr < 2 ^ 32 ∧ strand0.vl < 2 ^ 64 ∧ strand0.mvl < 2 ^ 64 ∧ strand0.rdepth < 2 ^ 16 ∧
      strand0.mdepth < 2 ^ 16 ∧ strand0.spillRs < 2 ^ 64 ∧ strand0.spillMs < 2 ^ 64 ∧ strand0.vcount ≤ 32 ∧
      strand0.bufGroups < 2 ^ 8 by decide +kernel
  v := show ∀ r : VRegNo, (strand0.getV r).hw < 2 ^ 16 ∧ (strand0.getV r).nat < 2 ^ (512 * (strand0.getV r).hw) by
    decide +kernel
  m := show ∀ r : MRegNo, strand0.m[r].hw < 2 ^ 16 ∧ strand0.m[r].bits.toNat < 2 ^ (512 * strand0.m[r].hw) by decide +kernel
  p := show ∀ r : PRegNo, strand0.p[r].hw < 2 ^ 16 ∧ strand0.p[r].bits.toNat < 2 ^ (512 * strand0.p[r].hw) by decide +kernel
  alg := fun k _ h =>
    have n : ∀ k : Fin 4, strand0.alg[k] = none := by decide +kernel
    nomatch (n k).symm.trans h
  planes := show strand0.active.blk < 4 ∧ strand0.shadow.blk < 4 by decide +kernel
  bind := h

theorem wit_SaveAreaRoundTrip : Savable { strand0 with inMatrix := false, bind := none } ∧
    Savable { strand0 with inMatrix := true, bind := some (3, 2 ^ 64 - 1) } :=
  ⟨savable0 _ _ (fun _ _ h => nomatch h), savable0 _ _ (fun _ _ h => by cases h; decide)⟩

/-- BRK is taken at the handler's entry point, and ERET with action 0 goes on at the saved PC. -/
theorem test_break : nextP (fun t => t.me.pc == 0x10100#64 && t.me.getX 3 == 5#64) (exec (.brk 5) baseH) = true := by
  decide +kernel

theorem test_return : nextP (fun u => u.me.pc == 0x10008#64 && u.me.handler == none)
    (exec .eret ((withMeH (inHandler 2)).writeP (strand0.areas.save + 4) (toLE 4 0x800 ++ toLE 8 0x10008))) = true := by decide +kernel

/-! ### Witnesses: vectors -/

/-- A vector length, with registers of 1 KiB. -/
def vec (n : Nat) (st : Strand) : Strand := { st with vl := n, mvl := 1024 }

/-- A vector register that holds given bits. -/
def vput (r : VRegNo) (bits : Nat) (st : Strand) : Strand := { st with v := st.v.set r ⟨BitVec.ofNat 65536 bits, 16⟩ }

theorem ready (st : Strand) (rs : List VRegNo) (ts : List ETy)
    (h : (∀ r ∈ rs, r.val < st.vcount) ∧ (∀ t ∈ ts, bytesOf t st.blk st.vl ≤ st.mvl) ∧
      (∀ t ∈ ts, isBlock t = true → st.blk ≠ 0 ∧ st.vl % st.blk = 0) ∧ rowFree st = true ∧ st.mvl ≤ 8192) :
    VecReady st rs ts := ⟨h.1, h.2.1, h.2.2.1, h.2.2.2.1, h.2.2.2.2⟩

theorem whole (st : Strand) (h : st.esr = 0 ∧ st.stopAt = none ∧ st.evSoFar = 0#7) : Whole st := ⟨h.1, h.2.1, h.2.2⟩

def fmod : VMod := ⟨.f32, .rne, false, 0, false⟩
def imod : VMod := ⟨.i32, .rne, false, 0, true⟩

/-- Two vectors of four f32 elements. -/
def st4 : Strand := vput 2 0x40000000_40000000_40000000_40000000 (vput 1 0x3F800000_3F800000_3F800000_3F800000 (vec 4 strand0))

theorem wit_VectorElements : (∃ f, (Instr.vadd 3 1 2 fmod).wf = true ∧
      vecElem st4 (.vadd 3 1 2 fmod) = some (3, [3, 1, 2], [.f32], .f32, 0, false, .rne, f) ∧
      vecEvents st4 0 f &&& st4.ten = 0#7) ∧
    VecReady st4 [3, 1, 2] [.f32] ∧ Whole st4 ∧ st4.vl ≠ 0 ∧
    VecReady (vec 0 strand0) [3, 1, 2] [.f32] ∧ Whole (vec 0 strand0) ∧ (vec 0 strand0).vl = 0 :=
  ⟨⟨_, by decide, rfl, by decide +kernel⟩, ready _ _ _ (by decide +kernel), whole _ (by decide +kernel), by decide +kernel,
    ready _ _ _ (by decide +kernel), whole _ (by decide +kernel), by decide +kernel⟩

theorem test_vadd : nextP (fun u => u.me.code .f32 3 0 == 0x40400000 && u.me.code .f32 3 3 == 0x40400000)
    (exec (.vadd 3 1 2 fmod) (base.setMe st4)) = true := by decide +kernel

theorem wit_InterruptionIsInvisible : ∃ f t, (Instr.vadd 3 1 2 fmod).wf = true ∧
      vecElem (vec 40 strand0) (.vadd 3 1 2 fmod) = some (3, [3, 1, 2], [.f32], .f32, 0, false, .rne, f) ∧
      VecReady (vec 40 strand0) [3, 1, 2] [.f32] ∧ Whole (vec 40 strand0) ∧
      vecEvents (vec 40 strand0) 0 f &&& (vec 40 strand0).ten = 0#7 ∧
      exec (.vadd 3 1 2 fmod) (base.setMe { vec 40 strand0 with stopAt := some 32 }) = .next t ∧ 0 < t.me.esr := by
  obtain ⟨t, ht, h⟩ := nextAnd (r := exec (.vadd 3 1 2 fmod) (base.setMe { vec 40 strand0 with stopAt := some 32 }))
    (fun t => decide (0 < t.me.esr)) (by decide +kernel)
  exact ⟨_, t, by decide, rfl, ready _ _ _ (by decide +kernel), whole _ (by decide +kernel), by decide +kernel, ht,
    of_decide_eq_true h⟩

theorem wit_VectorOperandFaults :
    (∃ f, vecElem { st4 with vcount := 8 } (.vadd 3 8 2 fmod) = some (3, [3] ++ 8 :: [2], [.f32], .f32, 0, false, .rne, f)) ∧
    (∀ q ∈ [(3 : VRegNo)], q.val < 8) ∧ 8 ≤ (8 : VRegNo).val ∧
    (∃ f, vecElem (vec 257 strand0) (.vadd 3 1 2 fmod) = some (3, [3, 1, 2], [.f32], .f32, 0, false, .rne, f)) ∧
    (∀ q ∈ [(3 : VRegNo), 1, 2], q.val < (vec 257 strand0).vcount) ∧ isBlock .f32 = false ∧
    [ETy.f32].head? = some .f32 ∧ (vec 257 strand0).mvl < bytesOf .f32 (vec 257 strand0).blk (vec 257 strand0).vl :=
  ⟨⟨_, rfl⟩, by decide, by decide, ⟨_, rfl⟩, by decide +kernel, by decide, by decide, by decide +kernel⟩

theorem wit_VectorConfiguration : 0 ≤ (16#36).toInt ∧ (isBlock .b8 = true ∧ (1#2) ≠ 0#2) ∧ isBlock .f32 = false ∧
    ((8#4).toNat ≤ 8 ∧ (24 : VRegNo).val + (8#4).toNat ≤ countOf .c32) ∧ base.me.inMatrix = false ∧
    ((0#4).toNat ≤ 8 ∧ (0 : VRegNo).val + (0#4).toNat ≤ countOf .c8) := by decide +kernel

/-- The module with the strand's node marked as a matrix node. -/
def baseM : State :=
  { base with launches := [{ launch0 with nodes := [{ node0 with r := { node0.r with matrix := true } }] }] }

def inM (st : Strand) : Strand := { st with inMatrix := true, mvl := 256 }

theorem wit_MatrixState : (baseM.me.inMatrix = false ∧ baseM.matrixNode = true) ∧
    ((baseM.setMe (inM strand0)).me.inMatrix = true ∧ (inM strand0).bind = none ∧ (inM strand0).mqueue = []) ∧
    (base.me.inMatrix = false ∧ base.matrixNode = false) := by decide +kernel

theorem wit_VectorMoves : (∃ f, (Instr.vperm 3 1 2 .i32 0 false).wf = true ∧
      moveOf st4 (.vperm 3 1 2 .i32 0 false) = some (3, [3, 1, 2], .i32, f)) ∧
    VecReady st4 [3, 1, 2] [.i32] ∧ Whole st4 ∧ st4.vl ≠ 0 ∧ VecReady st4 [1] [.i32] :=
  ⟨⟨_, by decide, rfl⟩, ready _ _ _ (by decide +kernel), whole _ (by decide +kernel), by decide +kernel,
    ready _ _ _ (by decide +kernel)⟩

theorem wit_VectorCompress : isBlock .i32 = false ∧ VecReady st4 [3, 1] [.i32] ∧ Whole st4 ∧ st4.vl ≠ 0 :=
  ⟨by decide, ready _ _ _ (by decide +kernel), whole _ (by decide +kernel), by decide +kernel⟩

/-- VTYPE with blocks of 16 elements. -/
def blk16 (st : Strand) : Strand := { st with vtype := BitVec.ofNat 64 (0x20 + etyCode .b8) }

theorem wit_VectorQuantise : isBlock .b8 = true ∧ isF .f32 = true ∧ (blk16 (vec 32 strand0)).blk ≠ 0 ∧
    VecReady (blk16 (vec 32 strand0)) [3, 1] [.b8, .f32] ∧ Whole (blk16 (vec 32 strand0)) ∧
    (∃ q : Nat → Nat × List Nat × Evs, (∀ j, q j = quantBlock .b8 0 .rne false (fun i => (vec 32 strand0).draw i 0)
        (j * (blk16 (vec 32 strand0)).blk) ((List.range (blk16 (vec 32 strand0)).blk).map
          (fun k => ((vec 32 strand0).val .f32 1 (j * (blk16 (vec 32 strand0)).blk + k)).1))) ∧
      evUnion ((List.range (32 / (blk16 (vec 32 strand0)).blk)).flatMap (fun j => (q j).2.2)) &&& strand0.ten = 0#7) :=
  ⟨by decide, by decide, by decide +kernel, ready _ _ _ (by decide +kernel), whole _ (by decide +kernel),
    ⟨_, fun _ => rfl, by decide +kernel⟩⟩

theorem wit_VectorReductions : isFI .f32 = true ∧ st4.dynRst .rne = false ∧ VecReady st4 [1] [.f32] ∧ Whole st4 ∧
    (∃ v evs, treeReduce (addIn (redTy .f32) (st4.rnd .rne) false) (st4.leaves .f32 1 0) (st4.redIn .f32 0) ((st4.vl + 15) / 16)
      = (v, evs) ∧ evUnion evs &&& st4.ten = 0#7) ∧
    (∃ v evs, (treeReduce (minVal true (redTy .f32)) (st4.leaves .f32 1 0) (st4.redIn .f32 0) ((st4.vl + 15) / 16)).1 = v ∧
      st4.nanEvs .f32 1 0 (st4.redIn .f32 0) 0 st4.vl = evs ∧ evUnion evs &&& st4.ten = 0#7) ∧ isF .i32 = false :=
  ⟨by decide, by decide +kernel, ready _ _ _ (by decide +kernel), whole _ (by decide +kernel),
    ⟨_, _, rfl, by decide +kernel⟩, ⟨_, _, rfl, rfl, by decide +kernel⟩, by decide⟩

theorem wit_VectorScan : isFI fmod.ty = true ∧ st4.dynRst fmod.rnd = false ∧ st4.ten = 0#7 ∧ VecReady st4 [3, 1] [fmod.ty] ∧
    Whole st4 ∧ st4.vl ≠ 0 ∧ isI imod.ty = true ∧ imod.sat = false ∧ imod.rnd = .rne ∧ VecReady st4 [3, 1] [imod.ty] :=
  ⟨by decide, by decide +kernel, by decide +kernel, ready _ _ _ (by decide +kernel), whole _ (by decide +kernel),
    by decide +kernel, by decide, by decide, by decide, ready _ _ _ (by decide +kernel)⟩

/-- VREDS of 1 + 1 + 1 + 1 is 4. -/
theorem test_vreds : nextP (fun u => u.me.getF 3 == 0x40800000#64) (exec (.vreds 3 1 0 .f32 .rne false 0) (base.setMe st4)) = true := by
  decide +kernel

/-! ### Witnesses: masks and predicates -/

/-- Mask register 1 holds bit 2 alone. -/
def m1 (st : Strand) : Strand := { st with m := st.m.set 1 ⟨4#32768, 1⟩ }

theorem wit_MaskResults : (∃ f, maskOf st4 (.mand 3 1 2) = some (3, f)) ∧ st4.vl ≤ 32768 ∧ st4.vl ≠ 0 ∧
    (2 < (m1 st4).vl ∧ (m1 st4).mbit 1 2 = true ∧ ∀ j, j < 2 → (m1 st4).mbit 1 j = false) ∧
    (∀ j, j < st4.vl → st4.mbit 1 j = false) := by
  refine ⟨⟨_, rfl⟩, ?_, ?_, ⟨?_, ?_, ?_⟩, ?_⟩ <;> decide +kernel

theorem wit_MaskStack : st4.mbase + st4.mdepth < 1024 ∧ st4.mstack.length < 8 ∧ st4.vl ≤ 32768 ∧ st4.mstack = [] ∧
    st4.mdepth = 0 ∧ (3 : MRegNo) ≠ 0 := by decide +kernel

theorem wit_StackLimits : 1024 ≤ { st4 with mdepth := 1023, mbase := 1 }.mbase + { st4 with mdepth := 1023, mbase := 1 }.mdepth ∧
    st4.mdepth = 0 ∧ 4096 ≤ (deep 0 4096 st4).rbase + (deep 0 4096 st4).rdepth ∧ st4.rdepth = 0 := by decide +kernel

theorem wit_MaskElements : (∃ f, (Instr.vcmp 3 .lt 1 2 .f32 0 false).wf = true ∧
      maskElem st4 (.vcmp 3 .lt 1 2 .f32 0 false) = some (3, [1, 2], [.f32], 0, false, f, 0) ∧
      vecEvents st4 0 (fun k => (0, (f k).2)) &&& st4.ten = 0#7) ∧
    VecReady st4 [1, 2] [.f32] ∧ Whole st4 ∧ st4.vl ≠ 0 ∧ st4.vl ≤ 32768 ∧
    (∃ f, maskElem st4 (.pcoll 3 1 0 false) = some (3, [], [], 0, false, f, 4)) ∧ VecReady st4 [] [] :=
  ⟨⟨_, by decide, rfl, by decide +kernel⟩, ready _ _ _ (by decide +kernel), whole _ (by decide +kernel), by decide +kernel,
    by decide +kernel, ⟨_, rfl⟩, ready _ _ _ (by decide +kernel)⟩

theorem wit_PredicateElements : (∃ f, (Instr.pcmp 1 .lt 1 2 5 .f32 0 false).wf = true ∧
      predElem st4 (.pcmp 1 .lt 1 2 5 .f32 0 false) = some (1, [1, 2], [.f32], 0, false, .rne, BitVec.ofNat 16 32, f) ∧
      clashOf st4 (.pcmp 1 .lt 1 2 5 .f32 0 false) = false ∧ vecEvents st4 0 f &&& st4.ten = 0#7) ∧
    VecReady st4 [1, 2] [.f32] ∧ Whole st4 ∧ st4.vl ≠ 0 ∧ st4.vl ≤ 32768 ∧ st4.tauOk = true ∧
    (let st := { st4 with p := st4.p.set 1 ⟨0#524288, 0, 1#16⟩ };
      clashOf st (.pand 2 1 1 0 .rne 0 false) = true ∧ st.pstrict = false) :=
  ⟨⟨_, by decide, rfl, by decide +kernel, by decide +kernel⟩, ready _ _ _ (by decide +kernel), whole _ (by decide +kernel),
    by decide +kernel, by decide +kernel, by decide +kernel, by decide +kernel⟩

/-! ### Witnesses: provenance, algebras -/

theorem wit_PredicateGradients : isF fmod.ty = true ∧ VecReady st4 [3, 1] [fmod.ty] ∧ Whole st4 ∧ st4.vl ≠ 0 ∧
    (∃ f : Nat → Nat × Ev, (∀ k, f k = deliver fmod.ty (gradOf 0 st4.tauVal (decodeVal fmod.ty (st4.code fmod.ty 1 k))
        (decodeVal fmod.ty (st4.code fmod.ty 0 k)) (decodeVal fmod.ty (st4.code fmod.ty 0 k)) (st4.pcode (Fin.ofNat 8 0) k))
        (st4.rnd fmod.rnd) fmod.sat (st4.draw k 0)) ∧ vecEvents st4 fmod.mask f &&& st4.ten = 0#7) ∧
    st4.tauOk = true ∧ { st4 with tau := 0x7FC00000#32 }.tauOk = false ∧ VecReady st4 [3, 1, 2, 2] [fmod.ty] :=
  ⟨by decide, ready _ _ _ (by decide +kernel), whole _ (by decide +kernel), by decide +kernel,
    ⟨_, fun _ => rfl, by decide +kernel⟩, by decide +kernel, by decide +kernel, ready _ _ _ (by decide +kernel)⟩

/-- The complex numbers as a table: 1·1, 1·i, i·1, i·i = −1. -/
def complexT : AlgTable := ⟨2, 2#16, 5#32, [⟨0, 0, 0, 0x3F800000#32⟩, ⟨1, 0, 1, 0x3F800000#32⟩, ⟨1, 1, 0, 0x3F800000#32⟩,
  ⟨0, 1, 1, 0xBF800000#32⟩]⟩

def alg4 : Strand := { st4 with alg := st4.alg.set 1 (some complexT) }

theorem wit_AlgebraProducts : isF fmod.ty = true ∧ VecReady alg4 [3, 1, 2] [fmod.ty] ∧ alg4.alg[(1 : AlgNo)] = some complexT ∧
    0 < complexT.dim ∧ Whole alg4 ∧ alg4.vl ≠ 0 ∧ alg4.ten = 0#7 ∧ alg4.alg[(2 : AlgNo)] = none :=
  ⟨by decide, ready _ _ _ (by decide +kernel), by decide +kernel, by decide, whole _ (by decide +kernel), by decide +kernel,
    by decide +kernel, by decide +kernel⟩

theorem wit_AlgebraConjugate : alg4.alg[(1 : AlgNo)] = some complexT ∧ alg4.alg[(0 : AlgNo)] = none ∧ isF .f32 = true ∧
    0 < complexT.dim ∧ VecReady alg4 [3, 1] [.f32] ∧ Whole alg4 ∧ alg4.vl ≠ 0 :=
  ⟨by decide +kernel, by decide +kernel, by decide, by decide, ready _ _ _ (by decide +kernel), whole _ (by decide +kernel),
    by decide +kernel⟩

/-- (1 + i)·(2 + 2i) = 4i over the complex table. -/
theorem test_amul : nextP (fun u => u.me.code .f32 3 0 == 0 && u.me.code .f32 3 1 == 0x40800000)
    (exec (.amul 3 1 2 1 fmod false false) (base.setMe alg4)) = true := by decide +kernel

/-- A table of one zero entry and one entry 1·1, in the strand's local scratch. -/
def tableMem : State := base.writeP (scratchLoc 0 0)
  (toLE 4 0x00040005 ++ toLE 1 2 ++ zeros 1 ++ toLE 2 2 ++ toLE 2 2 ++ zeros 2 ++ toLE 4 5 ++ zeros 48
    ++ toLE 8 0 ++ toLE 4 0 ++ toLE 4 0x3F800000)

/-- A load through bound 2, whose range is local scratch. -/
theorem wit_AlgebraLoad : ∃ (s1 s2 : State) (h es : List Byte) (ents : List AlgEntry),
    tableMem.me.eb 2 (64 * (0#9).toInt) % 64 = 0 ∧
    tableMem.loadE 2 useLD (tableMem.me.eb 2 (64 * (0#9).toInt)) 64 0 = .ok (h, s1) ∧
    firstFlt (tableMem.me.headChk h (addr64 (tableMem.me.eb 2 (64 * (0#9).toInt)))) = none ∧
    s1.loadE 2 useLD (tableMem.me.eb 2 (64 * (0#9).toInt) + 64) (8 * field h 6 2) 0 = .ok (es, s2) ∧
    tableMem.me.entries (field h 4 1) (addr64 (tableMem.me.eb 2 (64 * (0#9).toInt))) es (field h 6 2) 0 0 = .ok ents ∧
    tableMem.me.mqueue = [] := by
  obtain ⟨⟨h, s1⟩, h1, g⟩ := okAnd (r := tableMem.loadE 2 useLD (tableMem.me.eb 2 (64 * (0#9).toInt)) 64 0)
    (fun r => decide (firstFlt (tableMem.me.headChk r.1 (addr64 (tableMem.me.eb 2 (64 * (0#9).toInt)))) = none) &&
      okP (fun q => okP (fun _ => true)
          (tableMem.me.entries (field r.1 4 1) (addr64 (tableMem.me.eb 2 (64 * (0#9).toInt))) q.1 (field r.1 6 2) 0 0))
        (r.2.loadE 2 useLD (tableMem.me.eb 2 (64 * (0#9).toInt) + 64) (8 * field r.1 6 2) 0)) (by decide +kernel)
  obtain ⟨g1, g2⟩ := Bool.and_eq_true_iff.mp g
  obtain ⟨⟨es, s2⟩, h2, g3⟩ := okAnd (r := s1.loadE 2 useLD (tableMem.me.eb 2 (64 * (0#9).toInt) + 64) (8 * field h 6 2) 0)
    (fun q => okP (fun _ => true)
      (tableMem.me.entries (field h 4 1) (addr64 (tableMem.me.eb 2 (64 * (0#9).toInt))) q.1 (field h 6 2) 0 0)) g2
  obtain ⟨ents, h3, _⟩ := okAnd
    (r := tableMem.me.entries (field h 4 1) (addr64 (tableMem.me.eb 2 (64 * (0#9).toInt))) es (field h 6 2) 0 0) (fun _ => true) g3
  exact ⟨s1, s2, h, es, ents, by decide +kernel, h1, of_decide_eq_true g1, h2, h3, by decide +kernel⟩

/-! ### Witnesses: vector memory -/

/-- The bytes of an access in a scratchpad. -/
def padByts (core : Nat) (b : Bound) (e : Int) (n : Nat) : List Byt :=
  (b.addrs e n).map (fun a => padByt a ((padOf core a).getD 0))

theorem resolve_pad (w : Who) (need : Need) (as : List Nat) (h : ∀ a ∈ as, (padOf w.core a).isSome = true) :
    ∀ (s : State) (pg : Option Page) (acc : List Byt), resolve w need false as s pg acc =
      .ok (acc.reverse ++ as.map (fun a => padByt a ((padOf w.core a).getD 0)), s) := by
  induction as with
  | nil => intro s pg acc; simp [resolve]
  | cons a as ih =>
    intro s pg acc
    obtain ⟨l, hl⟩ := Option.isSome_iff_exists.mp (h a List.mem_cons_self)
    unfold resolve
    simp only [hl]
    rw [ih (fun x hx => h x (List.mem_cons_of_mem _ hx))]
    simp [hl]

/-- Accesses in a scratchpad are steady. -/
theorem steady_pad (s : State) (b : BRegNo) (use : Nat) (as : Accs) (bs : Nat → List Byt)
    (h : (s.me.getB b).view = 0 ∧ ∀ a ∈ as, (s.me.getB b).refuses use a.2.1 a.2.2 = none ∧
      (∀ x ∈ (s.me.getB b).addrs a.2.1 a.2.2, (padOf s.me.core x).isSome = true) ∧
      padByts s.me.core (s.me.getB b) a.2.1 a.2.2 = bs a.1) : Steady s b use as bs := by
  intro u _ a ha
  obtain ⟨h1, h2, h3⟩ := h.2 a ha
  have h4 := resolve_pad s.who (needOf use) _ h2 u none []
  simp only [access, h1, h.1, ne_eq, not_true_eq_false, decide_false]
  rw [h4, ← h3]
  rfl

theorem calm (s : State) (h : (∀ e ∈ (s.core s.me.core).entries, e.sid = s.me.id → e.free = true) ∧ s.transfersOut = false ∧ s.bad = []) :
    Calm s := ⟨h.1, h.2.1, h.2.2⟩

/-- The byte lists of accesses of `n` bytes, one after the other from the start of bound 2. -/
def inRow (n : Nat) (i : Nat) : List Byt := padByts 0 (strand0.getB 2) (0xF000000000000000 + (i * n : Nat)) n

def vm : WM := ⟨1, 2, 0, 0, .plain, .st, .i32, 0⟩
def base4 : State := base.setMe st4

theorem wit_VectorLoads : (∃ ad, (Instr.vld vm).wf = true ∧ vmemOf st4 (.vld vm) = some (vm, false, [1], [.i32], ad) ∧
      Steady base4 2 useLD (vmemAccs st4 .i32 ad) (inRow 4)) ∧
    VecReady st4 [1] [.i32] ∧ Whole st4 ∧ Calm base4 ∧ st4.vl ≠ 0 :=
  ⟨⟨_, by decide, rfl, steady_pad _ _ _ _ _ (by decide +kernel)⟩, ready _ _ _ (by decide +kernel), whole _ (by decide +kernel),
    calm _ (by decide +kernel), by decide +kernel⟩

theorem wit_VectorStores : (∃ ad, (Instr.vst vm).wf = true ∧ vmemOf st4 (.vst vm) = some (vm, true, [1], [.i32], ad) ∧
      Steady base4 2 useST (vmemAccs st4 .i32 ad) (inRow 4) ∧
      (∀ k, k < 4 → ((inRow 4 k).map (·.loc)).Nodup) ∧
      (∀ a ∈ vmemAccs st4 .i32 ad, a.1 ≠ 0 → ∀ x ∈ (inRow 4 a.1).map (·.loc), x ∉ (inRow 4 0).map (·.loc))) ∧
    base4.ckArea = none ∧ VecReady st4 [1] [.i32] ∧ Whole st4 ∧ Calm base4 ∧ st4.vl ≠ 0 :=
  ⟨⟨_, by decide, rfl, steady_pad _ _ _ _ _ (by decide +kernel), by decide +kernel, by decide +kernel⟩, by decide +kernel,
    ready _ _ _ (by decide +kernel), whole _ (by decide +kernel), calm _ (by decide +kernel), by decide +kernel⟩

/-- A load of four elements from data, an element's bytes read lowest first. -/
theorem test_vld : nextP (fun u => u.me.code .i32 1 1 == 0x01020304)
    (exec (.vld vm) (base4.writeP (scratchLoc 0 4) (toLE 4 0x01020304))) = true := by decide +kernel

/-- Eight elements of i32 in two buffer groups. -/
def sq : WM := ⟨3, 2, 0, 0, .plain, .st, .i32, 0⟩
def st4b : Strand := { st4.setX 3 8#64 with bufFirst := 30, bufGroups := 2 }
def baseQ : State := base.setMe st4b

theorem wit_StripQueue :
    (∃ t, VecReady st4b [] [.i32] ∧ st4b.vl ≠ 0 ∧ st4b.bufGroups ≠ 0 ∧ st4b.inMatrix = false ∧ releases sq.ord = false ∧
      admission baseQ.who (st4b.getB 2) 2 useLD [(st4b.eaM sq, (st4b.getX 3).toNat * sbytes .i32)] = none ∧
      streamPages baseQ (st4b.getB 2) 2 (pieces2k (st4b.eaM sq) ((st4b.getX 3).toNat * sbytes .i32)) = .ok (none, t) ∧
      (st4b.getX 3).toNat ≠ 0) ∧
    ((0 : VRegNo).val < st4b.vcount ∧ rowFree st4b = true ∧ st4b.stream = none ∧ noneOut baseQ) := by
  obtain ⟨⟨o, t⟩, h, g⟩ := okAnd
    (r := streamPages baseQ (st4b.getB 2) 2 (pieces2k (st4b.eaM sq) ((st4b.getX 3).toNat * sbytes .i32)))
    (fun r => r.1.isNone) (by decide +kernel)
  have ho : o = none := by simpa using g
  exact ⟨⟨t, ready _ _ _ (by decide +kernel), by decide +kernel, by decide +kernel, by decide +kernel, by decide, by decide +kernel,
    ho ▸ h, by decide +kernel⟩, by decide +kernel, by decide +kernel, by decide +kernel, by unfold noneOut; decide +kernel⟩

/-- The stream that SLQ starts there, and the bytes of its first strip. -/
theorem wit_StripQueue_take : ∃ (q : Stream) (g : Group) (bs : List Byt) (vs : List Byte) (t : State),
    q = ⟨0xF000000000000000, 8, 16, 4, .i32, st4b.getB 2, 2, 0, [⟨0xF000000000000000, 4, true, false, false, []⟩,
      ⟨0xF000000000000010, 4, true, false, false, []⟩]⟩ ∧
    (let s := baseQ.setMe { st4b with stream := some q }; q.groups[q.nextBuf]? = some g ∧ s.stripBytes q g = .ok (bs, vs, t) ∧
      isByteTy q.ty = true ∧ g.len * sbytes q.ty ≤ 8192 ∧ vs.length = g.len * sbytes q.ty) := by
  let q : Stream := ⟨0xF000000000000000, 8, 16, 4, .i32, st4b.getB 2, 2, 0, [⟨0xF000000000000000, 4, true, false, false, []⟩,
      ⟨0xF000000000000010, 4, true, false, false, []⟩]⟩
  obtain ⟨⟨bs, vs, t⟩, h, g⟩ := okAnd
    (r := (baseQ.setMe { st4b with stream := some q }).stripBytes q ⟨0xF000000000000000, 4, true, false, false, []⟩)
    (fun r => r.2.1.length == 16) (by decide +kernel)
  have g : vs.length = 16 := by simpa using g
  exact ⟨q, _, bs, vs, t, rfl, rfl, h, by decide, by decide, g.trans (by decide)⟩

/-! ### Witnesses: vector atomics and windows -/

def am : AMod := ⟨.i32, .rne, false, 0, 2, .plain, .st⟩

/-- Indices 0 to 3 in register 4. -/
def stA : Strand := vput 4 0x00000003_00000002_00000001_00000000 st4
def baseA : State := base.setMe stA

theorem wit_VectorAtomics : (∃ f, (Instr.vamo 3 2 4 1 0 am).wf = true ∧
      atomOf stA (.vamo 3 2 4 1 0 am) = some (3, 2, 4, 1, am, f) ∧
      vecEvents stA 0 (fun j => f j (heldAt baseA (inRow 4 j))) &&& stA.ten = 0#7) ∧
    VecReady stA [3, 4, 1] [.i32, .i32] ∧ Whole stA ∧ Calm baseA ∧ stA.vl ≠ 0 ∧ stA.dynRst .rne = false ∧
    (∀ a ∈ atomAccs stA 2 4 2 0 4, a.2.1 % (4 : Int) = 0) ∧ Steady baseA 2 useAT (atomAccs stA 2 4 2 0 4) (inRow 4) ∧
    ((atomAccs stA 2 4 2 0 4).flatMap (fun a => (inRow 4 a.1).map (·.loc))).Nodup ∧ baseA.ckArea = none :=
  ⟨⟨_, by decide, rfl, by decide +kernel⟩, ready _ _ _ (by decide +kernel), whole _ (by decide +kernel),
    calm _ (by decide +kernel), by decide +kernel, by decide +kernel, by decide +kernel, steady_pad _ _ _ _ _ (by decide +kernel),
    by decide +kernel, by decide +kernel⟩

/-- GCSLEEP: a word that differs from what is expected, none watched, and all as expected. -/
theorem wit_VectorAtomics_wait : isAtomTy .i32 = true ∧ VecReady stA [4, 1] [.i32, .i32] ∧ Calm baseA ∧
    Steady baseA 2 useLD (atomAccs stA 2 4 2 0 4) (inRow 4) ∧
    (0 < stA.vl ∧ stA.mbit 0 0 = true ∧ heldAt baseA (inRow 4 0) ≠ stA.code .i32 1 0) ∧
    (∀ j, j < stA.vl → stA.mbit 1 j = false) ∧
    (∀ j, j < stA.vl → stA.mbit 0 j = true → heldAt baseA (inRow 4 j) = stA.code .i32 5 j) :=
  ⟨by decide, ready _ _ _ (by decide +kernel), calm _ (by decide +kernel), steady_pad _ _ _ _ _ (by decide +kernel),
    by decide +kernel, by decide +kernel, by decide +kernel⟩

/-- Windows of 64 bins over the first 256 bytes of the cluster's scratchpad, in the strand's own scratch. -/
def bw : Bound := ⟨0xF100000000000000#64, 0xF100000000000000#64, 256#64, 0x1FF#16⟩
def stW : Strand := { stA.setX 3 0xF000000000000000#64 with b := stA.b.set 4 bw }
def winQ : Windows := ⟨0xF000000000000000, 0xF100000000000000, 64, 2, .i32⟩

theorem wit_AccumulationWindows_open : isWinTy .i32 = true ∧ stW.dynRst .rne = false ∧ 1 ≤ 64 ∧ (2#6).toNat ∈ [1, 2, 4, 8, 16] ∧
    64 = (min ((stW.getB 4).base.toNat + (stW.getB 4).len.toNat - (stW.getB 4).addr.toNat) 16384) / sbytes .i32 ∧
    storageOk (stW.getX 3).toNat (setBytes 64 (2#6).toNat (sbytes .i32)) = true ∧
    (stW.getB 4).addr.toNat % sbytes .i32 = 0 ∧ stW.windows = none ∧ noneOut (base.setMe stW) ∧
    ((base.setMe stW).core stW.core).entries.length < 32 := by unfold noneOut; decide +kernel

theorem wit_AccumulationWindows_add : isWinTy am.ty = true ∧ winQ.ty = am.ty ∧ 0 < winQ.w ∧
    storageOk winQ.storage (setBytes winQ.n winQ.w (sbytes winQ.ty)) = true ∧ VecReady stW [4, 1] [am.ty, .i32] ∧ Whole stW ∧
    Calm (base.setMe { stW with windows := some winQ }) ∧ stW.ten = 0#7 ∧ stW.dynRst am.rnd = false ∧ stW.vl ≠ 0 ∧
    (∀ i, i < stW.vl → stW.mbit am.mask i = true → (winQ.wbase : Int) ≤ atomAt stW 4 4 am.scale i ∧
      atomAt stW 4 4 am.scale i < (winQ.wbase + winQ.n * sbytes winQ.ty : Nat) ∧
      (atomAt stW 4 4 am.scale i - winQ.wbase) % (sbytes winQ.ty : Int) = 0 ∧
      atomAt stW 4 4 am.scale i % (sbytes winQ.ty : Int) = 0 ∧
      (stW.getB 4).refuses useAT (atomAt stW 4 4 am.scale i) (sbytes winQ.ty) = none) :=
  ⟨by decide, by decide, by decide, by decide +kernel, ready _ _ _ (by decide +kernel), whole _ (by decide +kernel),
    calm _ (by decide +kernel), by decide +kernel, by decide +kernel, by decide +kernel, by decide +kernel⟩

/-- With no bin filled the merge touches no element. -/
theorem wit_AccumulationWindows_merge : (stW.getB 4).addr.toNat = winQ.wbase ∧ (stW.getX 3).toNat = winQ.storage ∧
    storageOk winQ.storage (setBytes winQ.n winQ.w (sbytes winQ.ty)) = true ∧ Whole stW ∧
    Calm (base.setMe { stW with windows := some winQ }) ∧ stW.ten = 0#7 ∧ stW.dynRst .rne = false ∧
    (List.range winQ.n).filter (fun k => (List.range winQ.w).any
      (fun l => (winQ.value (base.setMe { stW with windows := some winQ }) l k).isSome)) = [] ∧
    Steady (base.setMe { stW with windows := some winQ }) 4 useAT [] (inRow 4) :=
  ⟨by decide +kernel, by decide +kernel, by decide +kernel, whole _ (by decide +kernel), calm _ (by decide +kernel),
    by decide +kernel, by decide +kernel, by decide +kernel, fun _ _ a h => absurd h List.not_mem_nil⟩

/-! ### Witnesses: matrices -/

theorem pairAnd {α β : Type} {r : α × β} {b : β} (h : r.2 = b) : ∃ a, r = (a, b) := ⟨r.1, by rw [← h]⟩

def pm : PMod := ⟨.bf16, .rne, false, false, false, false, none⟩

/-- In matrix state, with all of local scratch behind bound 5. -/
def stM : Strand :=
  { inM (vec 4 strand0) with b := strand0.b.set 5 ⟨0xF000000000000000#64, 0xF000000000000000#64, 0x40000#64, 0x1FF#16⟩ }
def baseX : State := base.setMe stM

theorem wit_MatrixCommits : (∃ ok va vb row, (Instr.mopa 1 0 1 pm).wf = true ∧
      queuedOf stM (.mopa 1 0 1 pm) = some (ok, va, vb, row) ∧ ok) ∧ stM.inMatrix = true ∧ stM.bind = none ∧
    (∃ ok va vb row, queuedOf (stM.setX 3 63#64) (.mrdrow 1 0 3 ⟨.f32, .rne, false⟩) = some (ok, va, vb, row) ∧ ok) ∧
    stM.mqueue.length < 64 ∧ base.me.inMatrix = false ∧
    (∃ ok, (Instr.mldw 5 0 .bf16 false).wf = true ∧ matrixOf (strand0.setX 1 1#64) (.mldw 5 0 .bf16 false) = some (ok, 3) ∧ ok) ∧
    (∃ ok, matrixOf strand0 (.msync .st) = some (ok, 11) ∧ ok) :=
  ⟨⟨_, _, _, _, by decide, rfl, by decide +kernel, by decide +kernel, (by intro h; exact absurd h (by decide)),
    (by intro c h; cases h), by decide +kernel, Or.inl (by decide +kernel), by decide +kernel⟩, by decide +kernel, by decide +kernel,
    ⟨_, _, _, _, rfl, by decide +kernel, by decide +kernel, by decide +kernel⟩, by decide +kernel, by decide +kernel,
    ⟨_, by decide, rfl, fun h => absurd h (by decide), by unfold matAligned; decide +kernel⟩, ⟨_, rfl, trivial⟩⟩

/-- A paired descriptor of 2 × 2 elements of f32, in local scratch. -/
def pairDesc : List Byte := toLE 4 0x00040004 ++ toLE 1 (etyCode .f32) ++ toLE 1 2 ++ toLE 1 1 ++ toLE 1 0x81 ++ zeros 8 ++
  toLE 8 0xF000000000000400 ++ toLE 8 0xF000000000000800 ++ (toLE 4 2 ++ toLE 4 2 ++ zeros 8) ++ (toLE 4 2 ++ toLE 4 2 ++ zeros 8)
  ++ (toLE 4 1 ++ toLE 4 1 ++ zeros 8) ++ (toLE 2 1 ++ toLE 2 1 ++ zeros 4) ++ toLE 4 0 ++ toLE 4 1 ++ toLE 8 64 ++ zeros 24

def baseP : State := baseX.writeP (scratchLoc 0 0) pairDesc

theorem wit_MatrixTransfers : (((stM.getB 5).addr.toNat : Int) + 64 * (0#9).toInt) % 64 = 0 ∧ stM.inMatrix = true ∧
    stM.bind = none ∧ stM.mqueue.length < 64 ∧ noneOut baseX ∧ (baseX.core stM.core).entries.length < 31 ∧
    admission baseX.who (stM.getB 5) 5 useER [(0xF000000000000000, 16384)] = none ∧ arrayOk stM .bf16 ∧
    stM.pitch 0 .f32 % 16 = 0 ∧ bytesOf .f32 0 64 ≤ stM.pitch 0 .f32 ∧
    admission baseX.who (stM.getB 5) 5 useST
      ((List.range 64).map (fun r => (0xF000000000000000 + (r * stM.pitch 0 .f32 : Nat), bytesOf .f32 0 64))) = none := by
  refine ⟨by decide +kernel, by decide +kernel, by decide +kernel, by decide +kernel, by unfold noneOut; decide +kernel,
    by decide +kernel, by decide +kernel, fun h => absurd h (by decide), by decide +kernel, by decide +kernel, by decide +kernel⟩

theorem wit_MatrixTransfers_pair : ∃ bs t, baseP.loadE 5 useLD 0xF000000000000000 128 0 = .ok (bs, t) ∧
    (tensorOf bs).valid = true ∧ (tensorOf bs).paired = true ∧ (tensorOf bs).ncomp = 1 ∧ (tensorOf bs).etype = etyCode .f32 ∧
    admission baseP.who (stM.getB 5) 5 usePR (((pairWrites (tensorOf bs) ((stM.getX 0).toNat % 2 ^ 32) ((stM.getX 0).toNat / 2 ^ 32)
        (List.replicate 4096 0)).1 ++ (pairWrites (tensorOf bs) ((stM.getX 0).toNat % 2 ^ 32) ((stM.getX 0).toNat / 2 ^ 32)
        (List.replicate 4096 0)).2).map (fun x => (x.1, x.2.length))) = none := by
  obtain ⟨⟨bs, t⟩, h, g⟩ := okAnd (r := baseP.loadE 5 useLD 0xF000000000000000 128 0) (fun r => r.1 == pairDesc) (by decide +kernel)
  have g : bs = pairDesc := by simpa using g
  subst g
  exact ⟨_, t, h, by decide +kernel, by decide +kernel, by decide +kernel, by decide +kernel, by decide +kernel⟩

/-- The same descriptor, out of matrix state, for its own type and for another. -/
theorem wit_MatrixCommits_pair : ∃ bs t, (baseP.setMe { baseP.me with inMatrix := false }).loadE 5 useLD 0xF000000000000000 128 0 =
      .ok (bs, t) ∧ ((tensorOf bs).valid = true ∧ (tensorOf bs).paired = true ∧ (tensorOf bs).ncomp = 1 ∧
        (tensorOf bs).etype = etyCode .f32) ∧ (tensorOf bs).etype ≠ etyCode .f64 := by
  obtain ⟨⟨bs, t⟩, h, g⟩ := okAnd
    (r := (baseP.setMe { baseP.me with inMatrix := false }).loadE 5 useLD 0xF000000000000000 128 0) (fun r => r.1 == pairDesc)
    (by decide +kernel)
  have g : bs = pairDesc := by simpa using g
  subst g
  exact ⟨_, t, h, by decide +kernel, by decide +kernel⟩

theorem wit_MatrixTransfers_sync : stM.inMatrix = true ∧ stM.bind = none ∧ stM.mqueue = [] := by decide +kernel

/-- A queued instruction, with nothing else to it. -/
def ent (i : Instr) (addr : Int) : MEntry := ⟨i, 0x10000#64, 0, 0, 0, 4, 0, 0, addr, 0, stM.getB 5, 0#32, none, [], 0, true, none, true, 0, false⟩

def queued (e : MEntry) : State := base.setMe { stM with mqueue := [e] }

/-- Peers of a grid that wait on cores 1 to 7, at positions 1 to 7. -/
def peer (p : Nat) : Strand :=
  { (stM.setX 1 (BitVec.ofNat 64 (8 + p))) with id := 1 + p, core := p, blocked := some (.mbind 1) }
def grid (n : Nat) : State := { base.setMe (stM.setX 1 8#64) with strands := (List.range n).map (fun p => peer (p + 1)) }

/-- Is a position taken under a key: the strand in front is bound so, or another waits or is bound so. -/
def takenIn (s : State) (pos key : Nat) : Prop := s.me.bind = some (pos, key) ∨
  ∃ t ∈ s.strands, t.exists? = true ∧ t.gang = s.me.gang ∧ (t.wantsBind = some (pos, key) ∨ t.boundAs = some (pos, key))

/-- Position 0 under key 1 is the strand's own already, and is a peer's; the strand is bound in another grid. -/
def again : State := (grid 7).setMe { (grid 7).me with bind := some (0, 1) }
def doubled : State := { grid 7 with strands := [peer 0] }
def elsewhere : State := (grid 7).setMe { (grid 7).me with bind := some (5, 9) }

theorem wit_MatrixBinding : (stM.inMatrix = true ∧ stM.getX 1 = 0#64 ∧ stM.bind = none ∧ stM.mqueue.length < 64) ∧
    (((grid 7).me.getX 1).toNat % 8 = 0 ∧ ((grid 7).me.getX 1).toNat / 8 = 1 ∧ ¬ takenIn (grid 7) 0 1 ∧
      (grid 7).gridComplete 0 ((grid 7).bindPeers 1) = true ∧ ¬ takenIn elsewhere 0 1 ∧
      elsewhere.gridComplete 0 (elsewhere.bindPeers 1) = true ∧ ¬ takenIn (grid 6) 0 1 ∧
      (grid 6).gridComplete 0 ((grid 6).bindPeers 1) = false) ∧
    (takenIn again 0 1 ∧ takenIn doubled 0 1 ∧ (3#64).toNat / 8 = 0 ∧ 3#64 ≠ 0#64) ∧
    64 ≤ ((grid 7).setMe { (grid 7).me with mqueue := List.replicate 64 (ent (.mzero 1) 0) }).me.mqueue.length := by
  unfold takenIn
  exact ⟨by decide +kernel, by decide +kernel, by decide +kernel, by decide +kernel⟩

/-- A strand that leaves a grid: a leader, a follower whose leader is bound no longer or still is, one with a queue. -/
def leaving (b : Option (Nat × Nat)) (q : List MEntry) (peers : List Strand) : State :=
  { base.setMe { stM with bind := b, mqueue := q } with strands := peers }

theorem wit_MatrixBinding_leave :
    (let s := leaving (some (2, 5)) [] []; s.me.inMatrix = true ∧ s.me.getX 1 = 0#64 ∧ s.me.bind = some (2, 5) ∧ s.me.mqueue = []) ∧
    (let s := leaving (some (3, 5)) [] [{ peer 2 with bind := some (2, 6) }]; s.me.mqueue = [] ∧
      ∀ t ∈ s.strands, t.exists? = true → t.gang = s.me.gang → t.boundAs ≠ some (3 - 1, 5)) ∧
    (let s := leaving (some (3, 5)) [] [{ peer 2 with bind := some (2, 5) }]; 3 % 2 = 1 ∧
      ∃ t ∈ s.strands, t.exists? = true ∧ t.gang = s.me.gang ∧ t.boundAs = some (3 - 1, 5)) ∧
    (leaving (some (2, 5)) [undelivered] []).me.mqueue ≠ [] := by decide +kernel

theorem wit_MatrixExecution : (queued (ent (.mzero 1) 0)).me.exists? = true ∧ governed (ent (.mzero 1) 0) = false ∧
    (∃ f, cellsOf stM (ent (.mzero 1) 0) = some (1, f)) ∧
    (governed (ent (.mopa 1 0 1 pm) 0) = true ∧
      ((queued (ent (.mopa 1 0 1 pm) 0)).gov 0).used < ((queued (ent (.mopa 1 0 1 pm) 0)).gov 0).budget) ∧
    ((ent (.mrdrow 1 0 3 ⟨.f32, .rne, false⟩) 0).vl ≠ 0 ∧ 4 * sbits .f32 ≤ 65536) ∧
    (let s := { queued (ent (.mopa 1 0 1 pm) 0) with cores := [(0, { Core.reset with used := 256 })] };
      (s.gov s.me.core).budget ≤ (s.gov s.me.core).used) ∧ base.gfloor ≤ 64 ∧ base.gfloor ≤ 256 ∧
    (base.gov 0).next = none ∧
    (({ base with cores := [(0, { Core.reset with next := some (1, 9) })] } : State).gov 0).next ≠ none ∧
    (let k := { Core.reset with next := some (2, 9) }; k.window ≠ 1 ∧ k.window ≠ 2 ∧ k.next = some (2, 9) ∧
      Core.reset.window = 0 ∧ Core.reset.next = none) := by
  refine ⟨by decide +kernel, by decide +kernel, ⟨_, rfl⟩, ?_⟩
  decide +kernel

/-- The state whose queue holds that load. -/
def ldw0 : State := queued (ent (.mldw 5 0 .bf16 false) 0xF000000000000000)

theorem in_scratch (i : Nat) (h : i < 16384) : (padOf 0 (0xF000000000000000 + i)).isSome = true := by
  have h1 : (0xF000000000000000 + i) / 2 ^ 56 = 0xF0 := by omega
  have h2 : bitsOf (0xF000000000000000 + i) 55 18 = 0 := by unfold bitsOf; omega
  unfold padOf apertureOf
  rw [h1, h2]
  rfl

theorem engRead_pad (s : State) (w : Who) (b : Bound) (e : Int) (n : Nat) (hv : b.view = 0) (hb : s.bad = [])
    (h : ∀ a ∈ b.addrs e n, (padOf w.core a).isSome = true) : ∃ bs t, engRead s w b e n = .ok (bs, t) := by
  simp only [engRead, hv, ne_eq, not_true_eq_false, decide_false]
  rw [resolve_pad w .read _ h s none []]
  simp only [hb, List.isEmpty_nil, if_true]
  exact ⟨_, _, rfl⟩

theorem addrs_scratch (b : Bound) (hv : b.view = 0) (a : Nat) (h : a ∈ b.addrs 0xF000000000000000 16384) :
    (padOf 0 a).isSome = true := by
  unfold Bound.addrs at h
  obtain ⟨i, hi, rfl⟩ := List.mem_map.mp h
  have : b.addrOf (0xF000000000000000 + (i : Nat)) = 0xF000000000000000 + i := by
    simp only [Bound.addrOf, hv, if_true]; omega
  rw [this]
  exact in_scratch i (List.mem_range.mp hi)

/-- The sixteen KiB that MLDW and MLDACC read. -/
theorem wit_MatrixExecution_load : ∃ bs t,
    engRead ldw0 ⟨stM.ctx, stM.core, 0x10000#64, some ldw0.me.id⟩ (stM.getB 5) 0xF000000000000000 16384 = .ok (bs, t) :=
  engRead_pad ldw0 _ (stM.getB 5) 0xF000000000000000 16384 (by decide +kernel) rfl (addrs_scratch _ (by decide +kernel))

/-- Writes into a scratchpad land. -/
theorem lands_pad (s : State) (e : MEntry) (rows : List (Int × List Byte)) (hv : e.bnd.view = 0) (hw : s.wbad = [])
    (h : ∀ r ∈ rows, ∀ a ∈ e.bnd.addrs r.1 r.2.length, (padOf s.me.core a).isSome = true) :
    Lands s e rows (fun k => ((rows[k]?.map (fun r => e.bnd.addrs r.1 r.2.length)).getD []).map
      (fun a => padByt a ((padOf s.me.core a).getD 0))) := by
  intro u _ k r hr
  refine ⟨?_, fun y _ => by simp [hw]⟩
  simp only [hv, ne_eq, not_true_eq_false, decide_false]
  rw [resolve_pad (entryWho s e) .write _ (h r (List.mem_of_getElem? hr)) u none []]
  simp [hr, entryWho]

/-- Bytes at the start of local scratch, by their offset. -/
theorem addrs_low (b : Bound) (hv : b.view = 0) (off n : Nat) (h : off + n ≤ 16384) :
    ∀ a ∈ b.addrs ((0xF000000000000000 + off : Nat) : Int) n, (padOf 0 a).isSome = true := by
  intro a ha
  unfold Bound.addrs at ha
  obtain ⟨i, hi, rfl⟩ := List.mem_map.mp ha
  have hi : i < n := List.mem_range.mp hi
  have : b.addrOf (((0xF000000000000000 + off : Nat) : Int) + (i : Nat)) = 0xF000000000000000 + (off + i) := by
    simp only [Bound.addrOf, hv, if_true]; omega
  rw [this]
  exact in_scratch _ (by omega)

/-- An MSTACC of a whole f32 tile to the start of local scratch. -/
def staccEnt : MEntry := { ent (.mstacc 0 5 1 0 0 ⟨.f32, .rne, false⟩) 0xF000000000000000 with pitch := 256 }

theorem wit_MatrixStores : ∃ rows bs, staccEnt.ready = true ∧ (queued staccEnt).me.exists? = true ∧
    (queued staccEnt).me.mqueue = staccEnt :: [] ∧
    rows = (List.range 64).map (fun r => (staccEnt.addr + (r * staccEnt.pitch : Nat), toLE (bytesOf .f32 0 64)
      (pack (sbits .f32) ((List.range 64).map (fun k =>
        storedCell (queued staccEnt).me staccEnt 1 ⟨.f32, .rne, false⟩ (64 * r + k)))))) ∧
    Lands (queued staccEnt) staccEnt rows bs := by
  refine ⟨_, _, rfl, by decide +kernel, rfl, rfl, lands_pad _ _ _ (by decide +kernel) rfl ?_⟩
  intro r hr a ha
  obtain ⟨k, hk, rfl⟩ := List.mem_map.mp hr
  have hk : k < 64 := List.mem_range.mp hk
  simp only [toLE_length] at ha
  exact addrs_low (stM.getB 5) (by decide +kernel) (k * 256) 256 (by omega) a ha

/-- A STPAIR of a tile whose tensor has two by two elements. -/
def stpairEnt : MEntry :=
  { ent (.stpair 0 5 1 0 0 ⟨.f32, .rne, false⟩) 0xF000000000000000 with desc := pairDesc }

theorem wit_MatrixStores_pair : ∃ w bs, stpairEnt.ready = true ∧ (queued stpairEnt).me.exists? = true ∧
    (queued stpairEnt).me.mqueue = stpairEnt :: [] ∧ stpairEnt.bnd.view = 0 ∧
    w = pairWrites (tensorOf stpairEnt.desc) (stpairEnt.row % 2 ^ 32) (stpairEnt.row / 2 ^ 32)
      ((List.range 4096).map (storedCell (queued stpairEnt).me stpairEnt 1 ⟨.f32, .rne, false⟩)) ∧
    Lands (queued stpairEnt) stpairEnt (w.1 ++ w.2) bs := by
  refine ⟨_, _, rfl, by decide +kernel, rfl, by decide +kernel, rfl, lands_pad _ _ _ (by decide +kernel) rfl ?_⟩
  have key : ∀ i < 2, ∀ j < 2,
      (0xF000000000000000 ≤ (tensorOf pairDesc).addr + ((tensorOf pairDesc).offset [i, j]).getD 0 ∧
        (tensorOf pairDesc).addr + ((tensorOf pairDesc).offset [i, j]).getD 0 ≤ 0xF000000000002000) ∧
      (0xF000000000000000 ≤ (tensorOf pairDesc).paddr + ((tensorOf pairDesc).flip.offset [j, i]).getD 0 ∧
        (tensorOf pairDesc).paddr + ((tensorOf pairDesc).flip.offset [j, i]).getD 0 ≤ 0xF000000000002000) := by
    decide +kernel
  have shape : (tensorOf pairDesc).gshape.getD 0 0 = 2 ∧ (tensorOf pairDesc).gshape.getD 1 0 = 2 ∧
      sbytes (tensorOf pairDesc).ty = 4 := by decide +kernel
  have low : ∀ x : Nat, 0xF000000000000000 ≤ x → x ≤ 0xF000000000002000 → ∀ a ∈ (stM.getB 5).addrs (x : Int) 4,
      (padOf 0 a).isSome = true := by
    intro x h1 h2 a ha
    obtain ⟨p, rfl⟩ := Nat.exists_eq_add_of_le h1
    exact addrs_low (stM.getB 5) (by decide +kernel) p 4 (by omega) a ha
  intro r hr a ha
  simp only [pairWrites, List.mem_append, List.mem_map, List.mem_filter, decide_eq_true_eq] at hr
  rcases hr with ⟨c, ⟨-, h1, h2⟩, rfl⟩ | ⟨c, ⟨-, h1, h2⟩, rfl⟩
  · obtain ⟨k, -⟩ := key c.1 (lt_of_lt_of_eq h1 shape.1) c.2.1 (lt_of_lt_of_eq h2 shape.2.1)
    simp only [toLE_length] at ha
    exact low _ k.1 k.2 a (shape.2.2 ▸ ha)
  · obtain ⟨-, k⟩ := key c.1 (lt_of_lt_of_eq h1 shape.1) c.2.1 (lt_of_lt_of_eq h2 shape.2.1)
    simp only [toLE_length] at ha
    exact low _ k.1 k.2 a (shape.2.2 ▸ ha)

/-- A tile made zero by the queue's next instruction. -/
theorem test_mzero : nextP (fun u => u.me.mqueue.isEmpty && u.me.acc[1].bits == 0#131072)
    (exec (.matrixQueueExecute 1) (queued (ent (.mzero 1) 0))) = true := by decide +kernel

/-! ### Witnesses: copies -/

/-- A parameter block in local scratch: two runs of 64 bytes from scratch to the cluster's scratchpad. -/
def cpBlk : List Byte := toLE 4 0x00040007 ++ [0#8, 0x32#8, 0#8, 1#8] ++ toLE 8 0xF000000000000100 ++ toLE 8 0xF100000000000100 ++
  toLE 4 64 ++ zeros 36 ++ (toLE 4 2 ++ zeros 4 ++ toLE 4 64 ++ toLE 4 64) ++ zeros 80

def buf0 (st : Nat) : Buf := ⟨255, st, 256, 0x100, g0, []⟩
def withBuf (b : Buf) (s : State) : State :=
  s.setCluster 0 { s.cluster 0 with bufs := [b] }

def baseC : State := withBuf (buf0 0) ((withMe (fun st => st.setX 1 255#64)).writeP (scratchLoc 0 0) cpBlk)

theorem wit_CopyInstructions : (∃ t, (0#6).toNat ≤ 3 ∧ (3#6).toNat ≤ 3 ∧ (baseC.me.getB 2).addr.toNat % 64 = 0 ∧
    baseC.me.cache.all (fun c => c.1 != (baseC.me.getB 2).addr.toNat) = true ∧
    baseC.loadE 2 useLD ((baseC.me.getB 2).addr.toNat : Nat) 160 0 = .ok (cpBlk, t) ∧ firstBad (cpChecks cpBlk) = none ∧
    (2 : BRegNo).val = field cpBlk 5 1 % 16 ∧ (3 : BRegNo).val = field cpBlk 5 1 / 16 ∧
    ((t.core t.me.core).onChan 0).length < 4 ∧ noneOut t ∧ (t.core t.me.core).entries.length < 31 ∧
    (let c := copyOf t.nextOp 0 t.issuer cpBlk (field cpBlk 0x10 8 : Nat) (t.me.getB 2) (t.me.getB 3) none none;
      admission t.who (t.me.getB 2) 2 useER c.reads = none ∧ admission t.who (t.me.getB 3) 3 useEW c.writes = none ∧
      c.srev = none ∧ c.dvis = none ∧ c.total ≤ (buf0 0).len) ∧
    (∃ b, t.ownBuf (t.me.getX 1).toNat = .ok b ∧ b.st = 0)) := by
  obtain ⟨⟨bs, t⟩, h, g⟩ := okAnd (r := baseC.loadE 2 useLD ((baseC.me.getB 2).addr.toNat : Nat) 160 0)
    (fun r => r.1 == cpBlk && decide (((r.2.core r.2.me.core).onChan 0).length < 4 ∧
      (∀ e ∈ (r.2.core r.2.me.core).entries, e.sid = r.2.me.id → e.free = true) ∧ (r.2.core r.2.me.core).entries.length < 31 ∧
      (let c := copyOf r.2.nextOp 0 r.2.issuer cpBlk (field cpBlk 0x10 8 : Nat) (r.2.me.getB 2) (r.2.me.getB 3) none none;
        admission r.2.who (r.2.me.getB 2) 2 useER c.reads = none ∧ admission r.2.who (r.2.me.getB 3) 3 useEW c.writes = none ∧
        c.srev = none ∧ c.dvis = none ∧ c.total ≤ (buf0 0).len)) &&
      okP (fun b => b.st == 0) (r.2.ownBuf (r.2.me.getX 1).toNat)) (by decide +kernel)
  obtain ⟨g1, g2⟩ := Bool.and_eq_true_iff.mp g
  obtain ⟨g1, g3⟩ := Bool.and_eq_true_iff.mp g1
  have hb : bs = cpBlk := by simpa using g1
  subst hb
  obtain ⟨b, hb, gb⟩ := okAnd _ g2
  obtain ⟨k1, k2, k3, k4⟩ := of_decide_eq_true g3
  exact ⟨t, by decide, by decide, by decide +kernel, by decide +kernel, h, by decide +kernel, by decide +kernel,
    by decide +kernel, k1, k2, k3, k4, b, hb, by simpa using gb⟩

theorem wit_CopyInstructions_set : (5#6).toNat ≤ 5 ∧ (∃ bs t, Admitted base 2 useST
      (((base.me.getB 2).addr.toNat + 0x40 + 16 * (5#6).toNat : Nat) : Int) 16 .plain true bs t) ∧
    ((busy.core busy.me.core).copies.map (·.op)).Nodup ∧
    (∀ c ∈ (busy.core busy.me.core).copies, c.ch = (0#6).toNat → c.iss.sid = some busy.me.id → c.pend = []) := by
  obtain ⟨⟨bs, t⟩, h, g⟩ := okAnd
    (r := access base base.who (base.me.getB 2) 2 useST (((base.me.getB 2).addr.toNat + 0x40 + 16 * (5#6).toNat : Nat) : Int) 16 0)
    (fun r => !base.conflicts r.1 true) (by decide +kernel)
  exact ⟨by decide, ⟨bs, t, h, by simpa using g, rfl, fun h => absurd h (by decide)⟩, by decide +kernel, by decide +kernel⟩

/-- A block whose level 0 has no run: a copy of no bytes. -/
def cpBlk0 : List Byte := cpBlk.take 0x40 ++ zeros 4 ++ cpBlk.drop 0x44

theorem wit_CopyInstructions_empty : firstBad (cpChecks cpBlk0) = none ∧ cpBlk0.length = 160 ∧ baseC.bad = [] ∧
    (copyOf 1 0 baseC.issuer cpBlk0 0 (baseC.me.getB 2) (baseC.me.getB 3) none none).total = 0 ∧
    (copyOf 1 0 baseC.issuer cpBlk0 0 (baseC.me.getB 2) (baseC.me.getB 3) none none).srev = none := by decide +kernel

/-- A copy at work between the scratchpads: one run of 64 bytes. -/
def cp1 (pend : List (Int × List Byte)) (next : Nat) : Copy :=
  ⟨7, 0, base.issuer, 0xF000000000000100, 0xF100000000000100, 64, [(1, 0, 0)], 64, base.me.getB 2, base.me.getB 3, next, pend, 0,
    false, none, 0, false, none, none⟩
def atWork (c : Copy) : State := { base with cores := [(0, { Core.reset with copies := [c] })] }

theorem wit_CopyProgress : (atWork (cp1 [] 0)).chanHead 0 0 = some (cp1 [] 0) ∧
    ((atWork (cp1 [] 0)).core 0).copies.map (·.op) = [7] ∧ (cp1 [] 0).bytesMode = false ∧
    ((cp1 [] 0).next < (cp1 [] 0).runs ∧ ∃ bs t, engRead (atWork (cp1 [] 0)) base.issuer.who (base.me.getB 2)
      ((cp1 [] 0).srcAt 0) 64 = .ok (bs, t) ∧ bs ≠ []) ∧
    (∃ u, engWrite (atWork (cp1 [(0xF100000000000100, [1#8])] 1)) base.issuer.who (some 1) (base.me.getB 3) 0xF100000000000100
      ([1#8].take 1) = (u, none)) ∧
    ((cp1 [] 1).allRead = true ∧ (cp1 [] 1).srDone = false ∧ (cp1 [] 1).srev = none) ∧
    ((cp1 [] 1).allWritten = true ∧ (cp1 [] 1).dvis = none ∧ (cp1 [] 1).handle = none) ∧
    (let c := { cp1 [] 1 with srev := some 0xF000000000000100 }
     let s := { atWork c with bad := [scratchLoc 0 0x100] }
     s.readable (locOf c.iss.core 0xF000000000000100) 16 = false ∧ c.allRead = true ∧ c.pend = [] ∧ c.srDone = false ∧
      c.handle = none ∧ (s.core 0).onChan 0 = [c] ∧ s.me.exists? = true ∧ (atWork c).readable (locOf 0 0xF000000000000100) 16 = true) ∧
    (let c := { cp1 [] 1 with dvis := some 0xF000000000000100 }
     let s := { atWork c with bad := [scratchLoc 0 0x100] }
     s.readable (locOf c.iss.core 0xF000000000000100) 16 = false ∧ c.allWritten = true ∧ c.srev = none ∧
      (s.core 0).onChan 0 = [c]) ∧
    (∃ u x, engWrite { atWork (cp1 [(0xF100000000000100, [1#8])] 1) with wbad := [padLoc 0 0x100] } base.issuer.who (some 1)
      (base.me.getB 3) 0xF100000000000100 [1#8] = (u, some (16, x))) ∧ base.issuer.sid = some base.me.id := by
  obtain ⟨⟨bs, t⟩, h, g⟩ := okAnd
    (r := engRead (atWork (cp1 [] 0)) base.issuer.who (base.me.getB 2) ((cp1 [] 0).srcAt 0) 64)
    (fun r => !r.1.isEmpty) (by decide +kernel)
  obtain ⟨u, hu⟩ := pairAnd (r := engWrite (atWork (cp1 [(0xF100000000000100, [1#8])] 1)) base.issuer.who (some 1) (base.me.getB 3)
    0xF100000000000100 ([1#8].take 1)) (b := none) (by decide +kernel)
  obtain ⟨v, hv⟩ := pairAnd (r := engWrite { atWork (cp1 [(0xF100000000000100, [1#8])] 1) with wbad := [padLoc 0 0x100] }
    base.issuer.who (some 1) (base.me.getB 3) 0xF100000000000100 [1#8]) (b := some (16, 0xF100000000000100)) (by decide +kernel)
  refine ⟨by decide +kernel, by decide +kernel, by decide +kernel, ⟨by decide +kernel, bs, t, h, ?_⟩, ⟨u, hu⟩, by decide +kernel,
    by decide +kernel, by decide +kernel, by decide +kernel, ⟨v, _, hv⟩, by decide +kernel⟩
  intro e; simp [e] at g

theorem wit_CopyInstructions_cancel : ∃ w c, c = cp1 [(0xF100000000000100, [1#8])] 1 ∧
    ((atWork c).core (atWork c).me.core).copies.filter (fun d => d.ch == (0#6).toNat && d.iss.sid == some (atWork c).me.id) = [c] ∧
    (((atWork c).core (atWork c).me.core).copies.map (·.op)).Nodup ∧ c.pend = (0xF100000000000100, [1#8]) :: [] ∧
    engWrite (atWork c) c.iss.who c.iss.sid c.dstView 0xF100000000000100 [1#8] = (w, none) := by
  obtain ⟨w, hw⟩ := pairAnd (r := engWrite (atWork (cp1 [(0xF100000000000100, [1#8])] 1)) base.issuer.who (some 1)
    (base.me.getB 3) 0xF100000000000100 [1#8]) (b := none) (by decide +kernel)
  exact ⟨w, _, rfl, by decide +kernel, by decide +kernel, rfl, hw⟩

/-! ### Witnesses: buffers and barriers -/

theorem wit_BufferHandles : (255 : Nat) < 256 ∧
    (let s := withMe (fun st => ((st.setX 1 255#64).setX 2 0xF100000000000F00#64).setX 3 256#64);
      (s.me.getX 1).toNat = 255 ∧ 0 < (s.me.getX 3).toNat ∧ (s.me.getX 3).toNat ≤ 2 ^ 23 ∧
      s.regionOff (s.me.getX 2).toNat (s.me.getX 3).toNat = some 0xF00 ∧ (s.cluster s.me.cluster).buf? 255 = none) ∧
    (∀ st, st < 4 → ((withBuf (buf0 st) base).cluster base.me.cluster).buf? 255 = some (buf0 st)) ∧
    (buf0 0).gang = base.me.gang ∧ (buf0 0).waiters = [] ∧ base.transfersOut = false ∧
    ({ buf0 0 with gang := ⟨2, 0, 0⟩ } : Buf).gang ≠ base.me.gang := by decide +kernel

/-- An object of two arrivals in local scratch. -/
def bar2 (arrv : Nat) : State := base.writeP (scratchLoc 0 0) (toLE 16 (Bar.nat ⟨0, 0, 0, 2, arrv, 0⟩))

theorem wit_Barriers : (∀ n, n < 3 → placeOk (bar2 n) (bar2 n).me.core (bar2 n).me.gang 0xF000000000000000 16 = true) ∧
    Calm (bar2 0) ∧ Calm (bar2 2) ∧ 0xF000000000000000 % 16 = 0 ∧
    ((bar2 2).barAt 0 0xF000000000000000).arrv = 2 ∧ ((bar2 1).barAt 0 0xF000000000000000).arrv = 1 ∧
    ((bar2 0).barAt 0 0xF000000000000000).arrv = 0 ∧ Scope.st ≠ .fa ∧ (65535#64).toNat ≤ 65535 ∧
    ((bar2 2).barAt 0 0xF000000000000000).pend + 0xFFFFFFFF < 2 ^ 32 ∧
    ((bar2 2).barAt 0 0xF000000000000000).phase ≠ (1#64).toNat % 2 ∧
    ((bar2 2).barAt 0 0xF000000000000000).phase = (0#64).toNat % 2 :=
  ⟨by decide +kernel, calm _ (by decide +kernel), calm _ (by decide +kernel), by decide +kernel⟩

/-- The last arrival changes the phase. -/
theorem test_barr : nextP (fun u => (u.barAt 0 0xF000000000000000).phase == 1 && (u.barAt 0 0xF000000000000000).arrv == 2)
    (exec (.barr 1) ((bar2 1).setMe (strand0.setX 1 0xF000000000000000#64))) = true := by decide +kernel

/-! ### Witnesses: tags, scratchpad -/

/-- A tag of set 0 in each of n ways. -/
def tagsOf (n : Nat) : List Tag := (List.range n).map (fun w => ⟨0, w, BitVec.ofNat 64 (513 * (w + 1)), 1#64, 1, 0⟩)
def withTags (n : Nat) (s : State) : State := s.setCluster 0 { s.cluster 0 with tags := tagsOf n }

theorem wit_TagsAndScratchpad_out : noneOut (withMe (xs 1 0)) ∧ noneOut (withMe (xs 0x800000 0)) := by
  unfold noneOut; decide +kernel

theorem wit_TagsAndScratchpad :
    (let s := withTags 7 base; tagReserved (s.me.getX 2) = false ∧ (s.cluster 0).tag? (s.me.getX 1) = none ∧
      (s.cluster 0).freeWay (tagSet (s.me.getX 1).toNat) = some 7) ∧
    (let s := withTags 8 base; (s.cluster 0).tag? (s.me.getX 1) = none ∧
      (s.cluster 0).freeWay (tagSet (s.me.getX 1).toNat) = none) ∧
    (let s := withTags 1 (withMe (xs 513 0)); (s.cluster 0).tag? (s.me.getX 1) ≠ none) ∧
    (let s := withMe (xs 1 0); 0 < (s.me.getX 1).toNat ∧ (s.cluster 0).place (((s.me.getX 1).toNat + 1023) / 1024 * 1024) = some 0x1000) ∧
    (let s := withMe (xs 0x800000 0); (s.me.getX 1).toNat ≤ 2 ^ 23 ∧
      (s.cluster 0).place (((s.me.getX 1).toNat + 1023) / 1024 * 1024) = none) ∧
    (let s := withMe (xs 0xF100000000000000 0); (s.me.getX 1).toNat = 0xF1 * 2 ^ 56 + 0 ∧
      (⟨0, 0x1000, 0, g0⟩ : Alloc) ∈ (s.cluster 0).allocs ∧ g0 = s.me.gang) := by decide +kernel

/-! ### Witnesses: tensor descriptors and the fabric -/

/-- A descriptor of 4 × 2 elements of f32 in one shard. -/
def td4 : List Byte := toLE 4 0x00040004 ++ toLE 1 (etyCode .f32) ++ toLE 1 2 ++ toLE 1 1 ++ toLE 1 0x80 ++ zeros 8 ++
  toLE 8 0xF000000000000400 ++ toLE 8 0 ++ (toLE 4 4 ++ toLE 4 2 ++ zeros 8) ++ (toLE 4 2 ++ toLE 4 2 ++ zeros 8)
  ++ (toLE 4 1 ++ toLE 4 1 ++ zeros 8) ++ (toLE 2 1 ++ toLE 2 1 ++ zeros 4) ++ toLE 4 0 ++ toLE 4 1 ++ toLE 8 128 ++ zeros 24

/-- An exchange descriptor of group 3 with two members: peer 1, everything in local scratch. -/
def xd (op fl kind count trel : Nat) : List Byte := toLE 4 0x00040006 ++ toLE 1 op ++ toLE 1 fl ++ toLE 1 kind ++ toLE 1 0x22 ++
  toLE 2 3 ++ toLE 2 2 ++ toLE 2 5 ++ toLE 2 1 ++ toLE 8 0xF000000000000080 ++ toLE 8 0xF000000000000200 ++
  toLE 8 (if op = 4 then 0xF000000000000300 else 0x100) ++ toLE 8 0xF000000000000180 ++ toLE 8 count ++ toLE 8 0 ++ toLE 8 9 ++
  toLE 8 trel ++ zeros 48

/-- The module in that group, with an exchange descriptor and a tensor descriptor in local scratch. -/
def baseF (x : List Byte) : State :=
  { (base.writeP (scratchLoc 0 0) x).writeP (scratchLoc 0 0x80) td4 with groups := [⟨3, 0, 0#64, [10, 11]⟩] }

theorem wit_TensorDescriptors : (∃ t u, (0xF000000000000080 : Int) % 64 = 0 ∧
      ((strand0.getB 2).addr.toNat : Int) + (0x80#62).toInt = 0xF000000000000080 ∧
      (baseF []).loadE 2 useLD 0xF000000000000080 128 0 = .ok (td4, t) ∧
      t.storeE 2 useST (0xF000000000000080 + 7)
        [BitVec.ofNat 8 (field td4 7 1 % 128 + (if (tensorOf td4).firstFail = 0 then 128 else 0))] 0 = .ok u) ∧
    (tensorOf td4).valid = true ∧ 0 < 1 ∧ 1 ≤ (tensorOf td4).nl ∧ (tensorOf td4).firstFail = 0 := by
  obtain ⟨⟨bs, t⟩, h, g⟩ := okAnd (r := (baseF []).loadE 2 useLD 0xF000000000000080 128 0)
    (fun r => r.1 == td4 && okP (fun _ => true) (r.2.storeE 2 useST (0xF000000000000080 + 7)
      [BitVec.ofNat 8 (field td4 7 1 % 128 + (if (tensorOf td4).firstFail = 0 then 128 else 0))] 0)) (by decide +kernel)
  obtain ⟨g1, g2⟩ := Bool.and_eq_true_iff.mp g
  have hb : bs = td4 := by simpa using g1
  subst hb
  obtain ⟨u, hu, _⟩ := okAnd _ g2
  exact ⟨⟨t, u, by decide, by decide +kernel, h, hu⟩, by decide +kernel, by decide, by decide +kernel, by decide +kernel⟩

/-- A put of 16 bytes, one of none, and a gather of one row. -/
def issueOk (s : State) (minor : Nat) (x : List Byte) : Bool :=
  okP (fun r => r.1 == x && decide (firstBad (s.xdChecks minor x (xdLate x (tensorOf (if minor ≤ 4 then td4 else [])))) = none) &&
    (if minor ≤ 4 then okP (fun q => decide (q.1 = td4 ∧ (tensorOf q.1).etype = etyCode .f32 ∧
        firstBad (tdChecks x (tensorOf q.1)) = none ∧
        fabAdmit s.who x (tensorOf q.1) (s.me.getB (xLowB x)) (s.me.getB (xHighB x)) = none))
        (r.2.loadE (xHighB x) useLD (xTd x : Nat) 128 0)
      else decide (fabAdmit s.who x (tensorOf []) (s.me.getB (xLowB x)) (s.me.getB (xHighB x)) = none)))
    (s.loadE 2 useLD ((s.me.getB 2).addr.toNat : Nat) 128 0)

theorem wit_FabricIssue : issueOk (baseF (xd 5 0 0 16 0)) 5 (xd 5 0 0 16 0) = true ∧
    issueOk (baseF (xd 5 0 0 0 0)) 5 (xd 5 0 0 0 0) = true ∧ issueOk (baseF (xd 1 0 0 1 0)) 1 (xd 1 0 0 1 0) = true ∧
    issueOk (baseF (xd 3 0 0 1 0)) 3 (xd 3 0 0 1 0) = true ∧ issueOk (baseF (xd 4 0 2 1 0)) 4 (xd 4 0 2 1 0) = true ∧
    noneOut (baseF (xd 5 0 0 16 0)) ∧ ((baseF (xd 5 0 0 16 0)).core base.me.core).entries.length < 31 ∧
    (strand0.getB 2).addr.toNat % 64 = 0 ∧ barOfX strand0 0 = none ∧ xCount (xd 5 0 0 16 0) ≠ 0 ∧ xCount (xd 5 0 0 0 0) = 0 ∧
    fabOf (.rput 0 2 .n8) = some (5, 0, 2, .n8, .rne, false) ∧ fabOf (.fgath 0 2 .f32) = some (1, 0, 2, .f32, .rne, false) := by
  refine ⟨?_, ?_, ?_, ?_, ?_, by unfold noneOut; decide +kernel, ?_, ?_, ?_, ?_, ?_, rfl, rfl⟩ <;> decide +kernel

/-- An operation in flight. -/
def fop (x : List Byte) (bar : Option Nat) : FabOp :=
  ⟨7, base.issuer, x, td4, base.me.getB 2, base.me.getB 2, .f32, .rne, false, bar, 0#64, none, false, false, none, 0#7, 1⟩
def flying (f : FabOp) : State := { baseF f.xdesc with fabs := [f], lock := true }
/-- The same where the first index is 9, past the tensor's four rows. -/
def flying9 (f : FabOp) : State := (flying f).writeP (scratchLoc 0 0x180) (toLE 4 9)

/-- One operation of each kind that is not collective. -/
def gath : FabOp := fop (xd 1 0 0 1 0) none
def scat : FabOp := fop (xd 2 0 0 1 0) none
def rget : FabOp := fop (xd 6 0 0 2 0) (some 0xF000000000000100)
def rput : FabOp := fop (xd 5 0 0 16 0) none
def tput : FabOp := fop (xd 5 2 0 16 0) none

theorem wit_FabricProgress : (∀ x bar, (flying (fop x bar)).fab? 7 = some (fop x bar)) ∧ base.replay = none ∧ base.logArea = none ∧
    ([gath, scat, rget, rput, tput].all (fun f => !(flying f).flowBehind f && f.evs == 0#7 && f.sentAt.isNone
      && f.iss.sid == some base.me.id && decide (0 < xCount f.xdesc)) = true) ∧ base.me.exists? = true ∧
    ([gath, scat, rget, rput].all (fun f => !(flying f).timedDue) = true) ∧ gath.td.eb % 8 = 0 ∧
    (∃ t, readIdx (flying gath) gath = .ok ([0], t) ∧ (∀ p ∈ rowPlaces gath 0, p.1 ≠ gath.rank (flying gath)) ∧
      ∃ u, engWrite t gath.iss.who gath.iss.sid gath.locBound (xLocal gath.xdesc + 0 * gath.td.rowBytes : Nat)
        (toLE 8 0x1234) = (u, none)) ∧
    (∃ t, readIdx (flying scat) scat = .ok ([0], t) ∧ (∀ p ∈ rowPlaces scat 0, p.1 ≠ scat.rank (flying scat)) ∧
      ∃ bs u, engRead t scat.iss.who scat.locBound (xLocal scat.xdesc + 0 * scat.td.rowBytes : Nat) scat.td.rowBytes = .ok (bs, u)) ∧
    (peerBytes (flying gath) gath = 8 ∧ (gather gath 0 (flying gath) (gath.served (toLE 8 0x1234)) 0 [0]).2 = none) ∧
    (xOp rput.xdesc = 5 ∧ xTimed rput.xdesc = false ∧ xPeer rput.xdesc ≠ rput.rank (flying rput)) ∧
    (∃ bs t, engRead (flying rput) base.issuer.who (base.me.getB 2) 0xF000000000000200 16 = .ok (bs, t)) ∧
    (xOp rget.xdesc = 6 ∧ xPeer rget.xdesc ≠ rget.rank (flying rget) ∧ xCount rget.xdesc = 2) ∧
    (∃ t, engWrite (flying rget) base.issuer.who (some 1) (base.me.getB 2) 0xF000000000000200 [1#8, 2#8] = (t, none)) ∧
    ((bar2 2).barAt 0 0xF000000000000000).arrive ≠ none ∧
    (xTimed tput.xdesc = true ∧ (BitVec.ofNat 64 (xTrel tput.xdesc)).toNat ≤ base.time.toNat ∧
      putDetail (flying tput) { tput with sentAt := some base.time, resent := false } = none) ∧
    base.time.toNat < (BitVec.ofNat 64 (xTrel (xd 5 2 0 16 1))).toNat ∧
    (∃ bs t, engReads gath.iss.who gath.idxBound (flying9 gath) (idxReads gath.xdesc) = .ok (bs, t) ∧
      field gath.xdesc 5 1 % 2 = 0 ∧ (gath.td.gshape.getD 0 0 : Nat) ≤ sfield bs (4 * 0) 4) := by
  obtain ⟨⟨xs, t⟩, h1, g1⟩ := okAnd (r := readIdx (flying gath) gath) (fun r => decide (r.1 = [0] ∧
    (engWrite r.2 gath.iss.who gath.iss.sid gath.locBound (xLocal gath.xdesc + 0 * gath.td.rowBytes : Nat) (toLE 8 0x1234)).2 = none))
    (by decide +kernel)
  obtain ⟨rfl, g1⟩ := of_decide_eq_true g1
  obtain ⟨⟨ys, u⟩, h2, g2⟩ := okAnd (r := readIdx (flying scat) scat) (fun r => r.1 == [0] && okP (fun _ => true)
    (engRead r.2 scat.iss.who scat.locBound (xLocal scat.xdesc + 0 * scat.td.rowBytes : Nat) scat.td.rowBytes)) (by decide +kernel)
  obtain ⟨g3, g4⟩ := Bool.and_eq_true_iff.mp g2
  have g3 : ys = [0] := by simpa using g3
  subst g3
  obtain ⟨⟨bs, v⟩, h4, _⟩ := okAnd _ g4
  obtain ⟨⟨cs, w⟩, h5, _⟩ := okAnd (r := engRead (flying rput) base.issuer.who (base.me.getB 2) 0xF000000000000200 16)
    (fun _ => true) (by decide +kernel)
  obtain ⟨x, h6⟩ := pairAnd (r := engWrite (flying rget) base.issuer.who (some 1)
    (base.me.getB 2) 0xF000000000000200 [1#8, 2#8]) (b := none) (by decide +kernel)
  obtain ⟨⟨ds, y⟩, h7, g7⟩ := okAnd (r := engReads gath.iss.who gath.idxBound (flying9 gath) (idxReads gath.xdesc))
    (fun r => decide (field gath.xdesc 5 1 % 2 = 0 ∧ (gath.td.gshape.getD 0 0 : Nat) ≤ sfield r.1 (4 * 0) 4)) (by decide +kernel)
  exact ⟨fun _ _ => rfl, rfl, rfl, by decide +kernel, by decide +kernel, by decide +kernel, by decide +kernel,
    ⟨t, h1, by decide +kernel, pairAnd g1⟩, ⟨u, h2, by decide +kernel, bs, v, h4⟩, by decide +kernel, by decide +kernel, ⟨cs, w, h5⟩,
    by decide +kernel, ⟨x, h6⟩, by decide +kernel, by decide +kernel, by decide +kernel, ds, y, h7, of_decide_eq_true g7⟩

/-- What the two members bring to a COLL over one element: this one's own place, and a peer that agrees or does not. -/
def bring (rank op kind : Nat) : Contribution := ⟨rank, op, kind, 1, .f32, .rne, false, [4, 2], [(0, 0, [0x3F800000])], false⟩
def fcoll : FabOp := fop (xd 4 0 0 1 0) none
/-- A scatter-add on the member of rank 1, which holds the shard, with a window over data. -/
def fsum (sent : Option Word) : FabOp :=
  { fop (xd 3 0 0 1 0) none with mine := some [(0, 0, [0x3F800000])], sentAt := sent, evs := if sent.isSome then 1#7 else 0#7 }
def flyingW (f : FabOp) : State :=
  { flying f with groups := [⟨3, 1, 0#64, [10, 11]⟩], wins := [⟨5, base.me.ctx, 7, 0x20000, 0x1000, 0xF, 3, false⟩] }

theorem wit_CollectiveProgress : (xOp fcoll.xdesc = 4 ∧ fcoll.sentAt = none ∧ fcoll.mine = none ∧ 1 < fcoll.mm ∧
    (flying fcoll).flowBehind fcoll = false ∧ (flying fcoll).timedDue = false ∧ fcoll.iss.sid = some base.me.id ∧
    allArrived fcoll [] = false ∧ allArrived fcoll [bring 1 4 0, bring 0 4 0] = true ∧
    (∀ c ∈ [bring 1 4 0, bring 0 4 0], c.rank ≠ fcoll.rank (flying fcoll) → agrees fcoll c = true ∧ c.failed = false)) ∧
    (∃ mine t, ownItems (flying fcoll) fcoll = .ok (mine, t)) ∧
    (∃ u, engWrite (flying fcoll) base.issuer.who (some 1) (base.me.getB 2) 0xF000000000000300
      ((collResult fcoll (allItems 0 [(0, 0, [0x3F800000])] [bring 1 4 0, bring 0 4 0])).1.flatMap (toLE 4)) = (u, none)) ∧
    (∃ c ∈ [bring 1 4 1], c.rank ≠ fcoll.rank (flying fcoll) ∧ (c.failed = true ∨ agrees fcoll c = false)) ∧
    (let f := fsum none; xOp f.xdesc = 3 ∧ allArrived f [bring 1 3 0, bring 0 3 0] = true ∧
      (∀ c ∈ [bring 1 3 0, bring 0 3 0], c.rank ≠ f.rank (flyingW f) → agrees f c = true ∧ c.failed = false) ∧
      ownTargets f 1 (allItems 1 [(0, 0, [0x3F800000])] [bring 1 3 0, bring 0 3 0]) = [(0, 0)] ∧
      ∃ u ev, applyScatter f (sortItems (allItems 1 [(0, 0, [0x3F800000])] [bring 1 3 0, bring 0 3 0])) (flyingW f) 0#7 [(0, 0)] =
        ((u, ev), none)) ∧
    (let f := fsum (some 3#64); f.sentAt ≠ none ∧ [2#8].length = f.mm - 1 ∧ f.evs ≠ 0#7 ∧ f.iss.sid = some base.me.id ∧
      base.me.handler = none ∧ base.me.live ≠ .saved) ∧
    peerItems (flying (fsum none)) (fsum none) [(0, 0, [0x3F800000])] = [(0, 0)] ∧
    (∃ e, ownItems (flying9 { fsum none with mine := none }) { fsum none with mine := none } = .error e) := by
  obtain ⟨⟨mine, t⟩, h, _⟩ := okAnd (r := ownItems (flying fcoll) fcoll) (fun _ => true) (by decide +kernel)
  obtain ⟨u, hu⟩ := pairAnd (r := engWrite (flying fcoll) base.issuer.who (some 1) (base.me.getB 2) 0xF000000000000300
      ((collResult fcoll (allItems 0 [(0, 0, [0x3F800000])] [bring 1 4 0, bring 0 4 0])).1.flatMap (toLE 4))) (b := none)
      (by decide +kernel)
  obtain ⟨⟨w, ev⟩, hw⟩ := pairAnd (r := applyScatter (fsum none) (sortItems (allItems 1 [(0, 0, [0x3F800000])]
    [bring 1 3 0, bring 0 3 0])) (flyingW (fsum none)) 0#7 [(0, 0)]) (b := none) (by decide +kernel)
  obtain ⟨e, he, _⟩ := errAnd (r := ownItems (flying9 { fsum none with mine := none }) { fsum none with mine := none })
    (fun _ => true) (by decide +kernel)
  exact ⟨by decide +kernel, ⟨mine, t, h⟩, ⟨u, hu⟩, by decide +kernel,
    ⟨by decide +kernel, by decide +kernel, by decide +kernel, by decide +kernel, w, ev, hw⟩, by decide +kernel, by decide +kernel, e, he⟩

/-! ### Witnesses: the walker -/

/-- A run of four words, with one input of 256 bytes and an output of two tiles in local scratch. -/
def run0 : WRun :=
  { (fetchRun 0x01000007).run with
    iss := base.issuer, op := 7, nin := 1, inbnds := [base.me.getB 2], inaddrs := [0xF000000000000000], inlens := [256],
    obnd := stM.getB 5, out := 0xF000000000000000, outlen := 32768, prog := [0#32, 0#32, 0#32, 0#32] }
def walk0 (pc : Int) : WState := { fetchRun 0 with run := run0, pc := pc }
def baseW (w : WState) : State := { base with wfront := 0, clusters := [(0, { Cluster.reset with tickets := 1, wst := some w })] }

/-- The places where the clauses meet: a word whose successor is the last of the program, and the last itself. -/
theorem wit_WalkerWords : (baseW (walk0 2)).walking = some (walk0 2) ∧ (baseW (walk0 3)).walking = some (walk0 3) ∧
    (∃ rel d v row col, wordOf (walk0 2) (.wli 1 7) = some (rel, d, v, row, col) ∧ 0 ≤ (walk0 2).pc + rel ∧
      (walk0 2).pc + rel < (walk0 2).run.prog.length ∧ ((walk0 3).run.prog.length : Int) ≤ (walk0 3).pc + rel) ∧
    0 ≤ (walk0 2).pc + 1 ∧ (walk0 2).pc + 1 < ((walk0 2).run.prog.length : Int) ∧
    ((walk0 2).row < 64 ∧ ((walk0 2).col + 1) * sbits (walk0 2).run.otype ≤ 2048) ∧
    2048 < (({ walk0 2 with col := 64 } : WState).col + 1) * sbits (walk0 2).run.otype ∧
    ((0 : WReg).val < run0.nin ∧ ((walk0 2).get 0 + (248#14).setWidth 64).toNat + 2 ^ (3#2).toNat ≤ run0.inlens.getD 0 0) ∧
    (∃ bs t, engRead (baseW (walk0 2)) base.issuer.who (base.me.getB 2) 0xF0000000000000F8 8 = .ok (bs, t)) ∧
    run0.nin ≤ (1 : WReg).val ∧
    (((walk0 2).get 0 + (192#14).setWidth 64).toNat + 64 ≤ run0.inlens.getD 0 0 ∧ (walk0 2).col * sbits run0.otype % 8 = 0 ∧
      (walk0 2).col * sbits run0.otype + 512 ≤ 2048 ∧
      ∃ bs t, engRead (baseW (walk0 2)) base.issuer.who (base.me.getB 2) 0xF0000000000000C0 64 = .ok (bs, t)) ∧
    run0.outk = 0 ∧ 16384 * ((walk0 2).flushes + 1) ≤ run0.outlen := by
  obtain ⟨⟨bs, t⟩, h, _⟩ := okAnd (r := engRead (baseW (walk0 2)) base.issuer.who (base.me.getB 2) 0xF0000000000000F8 8)
    (fun _ => true) (by decide +kernel)
  obtain ⟨⟨cs, u⟩, h2, _⟩ := okAnd (r := engRead (baseW (walk0 2)) base.issuer.who (base.me.getB 2) 0xF0000000000000C0 64)
    (fun _ => true) (by decide +kernel)
  exact ⟨rfl, rfl, ⟨_, _, _, _, _, rfl, by decide +kernel, by decide +kernel, by decide +kernel⟩, by decide +kernel, by decide +kernel,
    by decide +kernel, by decide +kernel, by decide +kernel, ⟨bs, t, h⟩, by decide +kernel,
    ⟨by decide +kernel, by decide +kernel, by decide +kernel, cs, u, h2⟩, by decide +kernel, by decide +kernel⟩

/-- The end of a run: with a barrier, with a buffer as its output, and with a place in the matrix queue. -/
theorem wit_WalkerWords_wend :
    (let w := { walk0 3 with run := { run0 with barrier := some 0xF000000000000000 } };
      let s := { baseW w with mem := (bar2 2).mem }; s.walking = some w ∧
        s.readable (locOf w.run.iss.core 0xF000000000000000) 16 = true ∧
        (s.barAt w.run.iss.core 0xF000000000000000).arrive ≠ none) ∧
    (let w := { walk0 3 with run := { run0 with outk := 1, out := 3 } };
      let s := (baseW w).setCluster 0 { (baseW w).cluster 0 with bufs := [⟨3, 1, 64, 0, g0, []⟩] }; s.walking = some w ∧
        w.run.barrier = none ∧ (s.cluster s.wfront).buf? w.run.out = some ⟨3, 1, 64, 0, g0, []⟩) ∧
    (let w := { walk0 3 with run := { run0 with outk := 2 } };
      let s := (baseW w).setMe { strand0 with mqueue := [{ undelivered with op := 7 }] }; s.walking = some w ∧
        w.run.iss.sid = some s.me.id ∧ s.me.exists? = true ∧ { undelivered with op := 7 } ∈ s.me.mqueue) := by
  decide +kernel

/-- A run block: one input, memory output of no bytes, one word. -/
def wkBlk : List Byte := toLE 4 0x00040009 ++ [1#8, 0#8, 0#8, 2#8] ++ toLE 2 1 ++ toLE 2 2 ++ zeros 4 ++
  toLE 8 0xF000000000000400 ++ toLE 8 0 ++ (toLE 8 0xF000000000000800 ++ zeros 24) ++ (toLE 8 64 ++ zeros 24) ++ zeros 32
def baseR : State := base.writeP (scratchLoc 0 0) (wkBlk ++ toLE 4 0xF0000000)

theorem wit_WalkerControl : (∃ t words u, (strand0.getB 2).addr.toNat % 64 = 0 ∧
      baseR.loadE 2 useER ((baseR.me.getB 2).addr.toNat : Nat) 128 0 = .ok (wkBlk, t) ∧ firstBad (wkChecks wkBlk) = none ∧
      field wkBlk 5 1 = 0 ∧
      t.loadE 2 useER ((baseR.me.getB 2).addr.toNat + 0x80 : Nat) (4 * field wkBlk 8 2) 0 = .ok (words, u)) ∧
    wkAdmit baseR.who wkBlk baseR.me.getB = none ∧ barOfX baseR.me 0 = none ∧
    (baseR.cluster 0).runsHeld < 8 ∧ noneOut baseR ∧ (baseR.core 0).entries.length < 31 ∧
    ((baseW (walk0 0)).cluster 0).runState 1 = some 1 ∧ (base.cluster 0).runState 1 = none ∧
    ({ Cluster.reset with tickets := 1 } : Cluster).runState 1 = some 2 ∧
    (let k : Cluster := { Cluster.reset with tickets := 1, runs := [run0] }; k.wst = none ∧ k.runs = run0 :: []) ∧
    (let w := { walk0 0 with fail := some (22, 0#64) }; ((baseW w).cluster 0).wst = some w ∧ w.run.outk = 0 ∧
      w.run.iss.sid = some base.me.id ∧ base.me.exists? = true) := by
  obtain ⟨⟨bs, t⟩, h, g⟩ := okAnd (r := baseR.loadE 2 useER ((baseR.me.getB 2).addr.toNat : Nat) 128 0)
    (fun r => r.1 == wkBlk && okP (fun _ => true)
      (r.2.loadE 2 useER ((baseR.me.getB 2).addr.toNat + 0x80 : Nat) (4 * field wkBlk 8 2) 0)) (by decide +kernel)
  obtain ⟨g1, g2⟩ := Bool.and_eq_true_iff.mp g
  have hb : bs = wkBlk := by simpa using g1
  subst hb
  obtain ⟨⟨words, u⟩, hu, _⟩ := okAnd _ g2
  exact ⟨⟨t, words, u, by decide +kernel, h, by decide +kernel, by decide +kernel, hu⟩, by decide +kernel, by decide +kernel,
    by decide +kernel, by unfold noneOut; decide +kernel, by decide +kernel, by decide +kernel, by decide +kernel,
    by decide +kernel, ⟨rfl, rfl⟩, by decide +kernel⟩

/-! ### Witnesses: trees -/

theorem scratch_ap (i : Nat) (h : i < 0x1000) : apertureOf (0xF000000000000000 + i) = some .scratch := by
  have h1 : (0xF000000000000000 + i) / 2 ^ 56 = 0xF0 := by omega
  have h2 : bitsOf (0xF000000000000000 + i) 55 18 = 0 := by unfold bitsOf; omega
  unfold apertureOf
  rw [h1, h2]
  rfl

theorem scratch_pad (i : Nat) (h : i < 0x1000) : padOf 0 (0xF000000000000000 + i) = some (scratchLoc 0 i) := by
  have h3 : bitsOf (0xF000000000000000 + i) 17 0 = i := by unfold bitsOf; omega
  unfold padOf
  rw [scratch_ap i h]
  simp only [h3]

/-- Bound 2: 4 KiB of local scratch with every right. -/
def b2 : Bound := ⟨0xF000000000000000#64, 0xF000000000000000#64, 0x1000#64, 0x1FF#16⟩

theorem b2_addrOf (k : Nat) : b2.addrOf ((0xF000000000000000 + k : Nat) : Int) = 0xF000000000000000 + k := by
  have hv : b2.view = 0 := by decide +kernel
  simp only [Bound.addrOf, hv, if_true]; omega

/-- An access in its range is admitted. -/
theorem b2_admits (use : Nat) (hp : b2.perm.getLsbD use = true) (i n : Nat) (h : i + n ≤ 0x1000) :
    b2.refuses use ((0xF000000000000000 + i : Nat) : Int) n = none := by
  have hb : b2.base.toNat = 0xF000000000000000 := by decide
  have hl : b2.len.toNat = 0x1000 := by decide
  have hv : b2.view = 0 := by decide +kernel
  by_cases hn : n = 0
  · simp [Bound.refuses, hn]
  · have e1 : ((0xF000000000000000 + i : Nat) : Int) + n - 1 = ((0xF000000000000000 + (i + n - 1) : Nat) : Int) := by omega
    have hs : firstStray b2 ((0xF000000000000000 + i : Nat) : Int) n = none := by
      have he : apertureEnd (0xF000000000000000 + i) = 0xF000000000040000 := by
        have h1 : (0xF000000000000000 + i) / 2 ^ 56 = 0xF0 := by omega
        have h2 : (0xF000000000000000 + i) / 2 ^ 18 = 0xF000000000000000 / 2 ^ 18 := by omega
        unfold apertureEnd
        rw [h1, h2]
        rfl
      simp only [firstStray]
      rw [e1, b2_addrOf, b2_addrOf, scratch_ap i (by omega), he]
      simp only []
      rw [if_pos (by omega)]
    have c1 : ¬ (((0xF000000000000000 + i : Nat) : Int) < (b2.base.toNat : Int)) := by rw [hb]; omega
    have c2 : ¬ ((b2.base.toNat + b2.len.toNat : Int) < ((0xF000000000000000 + i : Nat) : Int) + n) := by rw [hb, hl]; omega
    unfold Bound.refuses
    simp only [if_neg hn, if_neg c1, if_neg c2, hp, hv, hs, ne_eq, not_true_eq_false, decide_false, Bool.false_and,
      Bool.true_eq_false, if_false, Bool.false_eq_true, Option.map_none]

def treeByt (a : Nat) : Byt := padByt a ((padOf 0 a).getD 0)

theorem tree_inside {d : TDesc} {a n c len : Nat} (hp : d.pool = 0xF000000000000100) (hn : d.pooln ≤ 8)
    (hl : len = 0 ∨ 0xF000000000000800 ≤ c ∧ c + len ≤ 0xF000000000001000)
    (h : treeRange 0xF000000000000000 d a n ∨ c ≤ a ∧ a + n ≤ c + len) :
    n = 0 ∨ ∃ i, a = 0xF000000000000000 + i ∧ i + n ≤ 0x1000 := by
  simp only [treeRange, hp] at h
  rcases Nat.eq_zero_or_pos n with h0 | h0
  · exact .inl h0
  · exact .inr ⟨a - 0xF000000000000000, by omega, by omega⟩

/-- A tree with its descriptor, pool and buffer in local scratch is steady. -/
theorem tree_steady (s : State) (w : Who) (d : TDesc) (bn : Need) (c len : Nat) (hc : w.core = 0) (hb : s.bad = [])
    (ha : s.ckArea = none) (hp : d.pool = 0xF000000000000100) (hn : d.pooln ≤ 8)
    (hl : len = 0 ∨ 0xF000000000000800 ≤ c ∧ c + len ≤ 0xF000000000001000) :
    TreeSteady s w false b2 0xF000000000000000 d treeByt bn c len where
  ok := by
    intro u _ _ _ _ need a n hr
    rcases tree_inside hp hn hl (hr.imp_right And.right) with rfl | ⟨i, rfl, hi⟩
    · rfl
    have had : b2.addrs ((0xF000000000000000 + i : Nat) : Int) n = (List.range n).map (fun k => 0xF000000000000000 + (i + k)) := by
      unfold Bound.addrs
      refine List.map_congr_left (fun k _ => ?_)
      have : ((0xF000000000000000 + i : Nat) : Int) + (k : Nat) = ((0xF000000000000000 + (i + k) : Nat) : Int) := by omega
      rw [this, b2_addrOf]
    rw [resolve_pad w need (b2.addrs ((0xF000000000000000 + i : Nat) : Int) n) (by
      rw [had, hc]
      intro x hx
      obtain ⟨k, hk, rfl⟩ := List.mem_map.mp hx
      rw [scratch_pad _ (by have := List.mem_range.mp hk; omega)]
      rfl) u none [], had, hc]
    simp [treeByt, List.map_map, Function.comp_def, Nat.add_assoc]
  inj := by
    intro a b h1 h2 he
    have i1 := tree_inside (n := 1) hp hn hl (h1.imp_right (fun h => ⟨h.1, h.2⟩))
    have i2 := tree_inside (n := 1) hp hn hl (h2.imp_right (fun h => ⟨h.1, h.2⟩))
    obtain ⟨i, rfl, hi⟩ := i1.resolve_left (by omega)
    obtain ⟨j, rfl, hj⟩ := i2.resolve_left (by omega)
    simp only [treeByt, padByt, scratch_pad i (by omega), scratch_pad j (by omega), Option.getD_some, scratchLoc] at he
    omega
  bad := hb
  area := ha
  apart := .inl (by rw [hp]; decide)
  buffer := by
    intro a h1 h2 h3
    simp only [treeRange, hp] at h3
    omega

/-- The requests' rights over the tree. -/
theorem tree_admits {d : TDesc} (hp : d.pool = 0xF000000000000100) (hn : d.pooln ≤ 8) (a n : Nat)
    (h : treeRange 0xF000000000000000 d a n) : b2.refuses useTR a n = none := by
  rcases tree_inside (c := 0) (len := 0) hp hn (.inl rfl) (.inl h) with rfl | ⟨i, rfl, hi⟩
  · simp [Bound.refuses]
  · exact b2_admits useTR (by decide) i n hi

/-- A descriptor's bytes (R306). -/
def tdB (fmt flags pooln bump fcnt root fhead ftail : Nat) : List Byte := toLE 4 fmt ++ toLE 1 flags ++ toLE 1 0 ++ toLE 2 4 ++
  toLE 8 0xF000000000000100 ++ toLE 8 pooln ++ toLE 8 bump ++ toLE 8 fcnt ++ toLE 4 root ++ toLE 4 fhead ++ toLE 4 ftail ++ toLE 4 0x3F800000 ++ zeros 8
/-- A node (R307) of VLOSS, P, PARENT, FIRST, NEXT, NKIDS, STATE and FLAGS. -/
def nd (vloss p parent first next kids st fl : Nat) : TNode := ⟨0, 0, vloss, p, parent, first, next, kids, st, fl⟩
/-- The module with a tree and a buffer. -/
def treeS (d : List Byte) (ns : List TNode) (buf : List Byte) : State :=
  ((base.writeP (scratchLoc 0 0) d).writeP (scratchLoc 0 0x100) (ns.flatMap TNode.bytes)).writeP (scratchLoc 0 0x800) buf
/-- Its descriptor as memory holds it. -/
def dOf (s : State) : TDesc := descAt s treeByt 0xF000000000000000
/-- The pool stands where the helpers above have it. -/
def sits (s : State) : Bool := (dOf s).pool == 0xF000000000000100 && decide ((dOf s).pooln ≤ 8)

theorem steady_of (s : State) (bn : Need) (c len : Nat) (h : s.me.core = 0 ∧ s.bad = [] ∧ s.ckArea = none ∧ sits s = true ∧
    (len = 0 ∨ 0xF000000000000800 ≤ c ∧ c + len ≤ 0xF000000000001000)) :
    TreeSteady s s.who false b2 0xF000000000000000 (dOf s) treeByt bn c len ∧
      ∀ a n, treeRange 0xF000000000000000 (dOf s) a n → b2.refuses useTR a n = none := by
  obtain ⟨h1, h2, h3, h4, h5⟩ := h
  simp only [sits, Bool.and_eq_true, beq_iff_eq, decide_eq_true_eq] at h4
  exact ⟨tree_steady s s.who _ bn c len h1 h2 h3 h4.1 h4.2 h5, tree_admits h4.1 h4.2⟩

/-- A root alone; a root with two children, the second of a higher prior; no descriptor. -/
def lone : State := treeS (tdB 0x00040008 0x80 1 1 0 0 0 0) [nd 0 65535 0 0 0 0 1 1] []
def family : State := treeS (tdB 0x00040008 0x80 4 3 1 0 0 0)
  [nd 1 65535 0 1 0 2 3 1, nd 1 100 0 0 2 0 1 0, nd 0 30000 0 0 0 0 1 0] []
def none' : State := treeS (tdB 0 0x80 1 1 0 0 0 0) [] []

theorem wit_TreeOperations :
    (∀ s, s = lone ∨ s = family ∨ s = none' → TreeSteady s s.who false b2 0xF000000000000000 (dOf s) treeByt .write 0xF000000000000800 16 ∧
      ∀ a n, treeRange 0xF000000000000000 (dOf s) a n → b2.refuses useTR a n = none) ∧
    (dOf none').ok = false ∧ (dOf lone).ok = true ∧
    (let d := dOf lone; let r := nodeAt lone d treeByt d.root; d.valid = true ∧ d.root < d.pooln ∧ r.vloss < 65535 ∧ r.st ≠ 3 ∧
      2 ≤ d.maxb ∧ (0xF000000000000800#64).toNat % 8 = 0 ∧ b2.refuses useST (0xF000000000000800#64).toNat (8 * 2) = none ∧
      r.vloss + 2 ≤ 65535) ∧
    (let d := dOf family; let f := nodeAt family d treeByt; let r := f d.root
      let sc := fun i => scoreKey (score d (f i) (f32sqrt (r.n + r.vloss)))
      d.valid = true ∧ d.root < d.pooln ∧ r.vloss < 65535 ∧ r.st = 3 ∧ [1, 2].length = r.kids ∧
      d.root ∉ [1, 2] ∧ (∀ i ∈ [1, 2], i < d.pooln) ∧ vlt (sc 1) (sc 2) = true ∧ (f 2).st ≠ 3 ∧ (f 2).vloss < 65535) ∧
    (let f := nodeAt family (dOf family) treeByt; Chained f (f (dOf family).root).first [1, 2]) := by
  refine ⟨?_, by decide +kernel, by decide +kernel, by decide +kernel, by decide +kernel, by decide +kernel, by decide +kernel, trivial⟩
  rintro s (rfl | rfl | rfl) <;> exact steady_of _ _ _ _ (by decide +kernel)

/-- A lone leaf to be expanded: by one child without a node to take, and by two, one of them from the free list. -/
def grow1 : State := treeS (tdB 0x00040008 0x80 1 1 0 0 0 0) [nd 0 65535 0 0 0 0 1 1] (toLE 2 1 ++ toLE 2 100)
def grow2 : State := treeS (tdB 0x00040008 0x80 4 2 3 0 1 1) [nd 0 65535 0 0 0 0 1 1, nd 0 0 0 0 0 0 0 0]
  (toLE 2 2 ++ toLE 2 100 ++ toLE 2 200)
/-- The family without a descent under way. -/
def calmF : State := treeS (tdB 0x00040008 0x80 4 3 1 0 0 0)
  [nd 0 65535 0 1 0 2 3 1, nd 0 100 0 0 2 0 1 0, nd 0 30000 0 0 0 0 1 0] []

theorem wit_TreeChanges :
    (∀ s, s = lone ∨ s = grow1 ∨ s = grow2 ∨ s = family ∨ s = calmF → ∀ bn len, len ≤ 64 →
      TreeSteady s s.who false b2 0xF000000000000000 (dOf s) treeByt bn 0xF000000000000800 len ∧
      ∀ a n, treeRange 0xF000000000000000 (dOf s) a n → b2.refuses useTR a n = none) ∧
    (∀ s, s = lone ∨ s = grow1 ∨ s = grow2 ∨ s = family ∨ s = calmF →
      (dOf s).valid = true ∧ (dOf s).recl = false ∧ 0 < (dOf s).pooln ∧ (dOf s).pooln ≤ 2 ^ 32) ∧
    (∀ e m : Nat, 0xF000000000000800 ≤ e → e + m ≤ 0xF000000000000800 + 64 → b2.refuses useLD e m = none) ∧
    [(lone, 0), (grow1, 1), (grow2, 2)].all (fun p => (nodeAt p.1 (dOf p.1) treeByt 0).st == 1 &&
      p.2 == ofLE (bytesAt p.1 treeByt 0xF000000000000800 2)) = true ∧ (dOf grow1).fcnt < 1 ∧
    (let d := dOf grow2; Chained (nodeAt grow2 d treeByt) d.fhead [1] ∧ 2 ≤ d.fcnt ∧ [1].length = min d.listed 2 ∧
      [1, 2] = [1] ++ (List.range (2 - [1].length)).map (d.bump + ·) ∧ 0 ∉ [1, 2] ∧ ∀ j ∈ [1, 2], j < d.pooln) ∧
    (let f := nodeAt family (dOf family) treeByt; RootPath f [1, 0] ∧ (f 1).st ≠ 0 ∧ (f 1).st ≠ 5 ∧
      ∀ j ∈ [1, 0], 0 < (f j).vloss ∧ (f j).n < 0xFFFFFFFF ∧ (f j).w = 0) ∧
    (let d := dOf calmF; let f := nodeAt calmF d treeByt; Chained f (f d.root).first [1, 2] ∧ d.root < d.pooln ∧
      (f d.root).vloss = 0 ∧ (calmF.cluster calmF.me.cluster).recls = [] ∧ (f 1).st ≠ 0 ∧ (f 1).st ≠ 5 ∧ 1 ≠ d.root ∧ [1, 2].length = (f d.root).kids ∧ (∀ j ∈ [1, 2], j < d.pooln) ∧
      b2.refuses useST (0xF000000000000800#64).toNat 64 = none) := by
  refine ⟨?_, ?_, ?_, by decide +kernel, by decide +kernel, ⟨⟨by decide +kernel, trivial⟩, by decide +kernel⟩,
    ⟨⟨by decide +kernel, by decide +kernel, (by decide +kernel : (nodeAt family (dOf family) treeByt 0).fl.testBit 0 = true)⟩,
      by decide +kernel⟩, ⟨by decide +kernel, by decide +kernel, trivial⟩, by decide +kernel⟩
  · rintro s (rfl | rfl | rfl | rfl | rfl) bn len hl
      <;> exact steady_of _ _ _ _ ⟨by decide +kernel, by decide +kernel, by decide +kernel, by decide +kernel, by omega⟩
  · rintro s (rfl | rfl | rfl | rfl | rfl) <;> decide +kernel
  · intro e m h1 h2
    have h := b2_admits useLD (by decide) (e - 0xF000000000000000) m (by omega)
    rwa [show 0xF000000000000000 + (e - 0xF000000000000000) = e by omega] at h

/-- A request that the engine has, refused for a descriptor that is not valid, and TRINIT's. -/
def asked (i : Instr) : State :=
  let s := base.setMe { strand0 with awaiting := true, hold := some i }
  s.setCluster 0 { s.cluster 0 with reqs := [⟨i, 1, 7, 0xF000000000000000, b2, 0#64, 0#64⟩] }

theorem wit_TreeRequests : treeOf strand0 (.trinit 1 2) = some (2, 0#64, 0#64) ∧ strand0.awaiting = false ∧
    base.engineOut = false ∧
    (∃ d t, (at' strand0 2).descriptor base = .ok (d, t) ∧ (at' strand0 2).admits t (.trinit 1 2) d 0 0 = .ok () ∧
      (at' strand0 2).waits t (.trinit 1 2) d 0 = false) ∧
    (∃ d t f, (at' lone.me 2).descriptor lone = .ok (d, t) ∧
      (at' lone.me 2).admits t (.trread 1 2 1 1 false) d (lone.me.getX 1).toNat (lone.me.getX 1).toNat = .error f) ∧
    noneOut base ∧ (base.core base.me.core).entries.length < 31 ∧
    (asked (.trinit 1 2)).me.exists? = true ∧
    ((asked (.trinit 1 2)).cluster 0).reqs.find? (fun q => q.sid == 1) = some ⟨.trinit 1 2, 1, 7, 0xF000000000000000, b2, 0#64, 0#64⟩ ∧
    (∃ o, (⟨.trinit 1 2, 1, 7, 0xF000000000000000, b2, 0#64, 0#64⟩ : TreeReq).perform base = .ok o) ∧
    (∃ f, (⟨.trdesc 1 2, 1, 7, 0xF000000000000000, b2, 0#64, 0#64⟩ : TreeReq).perform base = .error f) := by
  obtain ⟨⟨d, t⟩, h, g⟩ := okAnd (r := (at' strand0 2).descriptor base)
    (fun r => okP (fun _ => true) ((at' strand0 2).admits r.2 (.trinit 1 2) r.1 0 0) &&
      !((at' strand0 2).waits r.2 (.trinit 1 2) r.1 0)) (by decide +kernel)
  obtain ⟨g1, g2⟩ := Bool.and_eq_true_iff.mp g
  obtain ⟨⟨⟩, g1, _⟩ := okAnd _ g1
  obtain ⟨⟨d', t'⟩, h', g'⟩ := okAnd (r := (at' lone.me 2).descriptor lone)
    (fun r => errP (fun _ => true) ((at' lone.me 2).admits r.2 (.trread 1 2 1 1 false) r.1 (lone.me.getX 1).toNat
      (lone.me.getX 1).toNat)) (by decide +kernel)
  obtain ⟨f', hf', _⟩ := errAnd _ g'
  obtain ⟨o, ho, _⟩ := okAnd (r := (⟨.trinit 1 2, 1, 7, 0xF000000000000000, b2, 0#64, 0#64⟩ : TreeReq).perform base) (fun _ => true)
    (by decide +kernel)
  obtain ⟨f, hf, _⟩ := errAnd (r := (⟨.trdesc 1 2, 1, 7, 0xF000000000000000, b2, 0#64, 0#64⟩ : TreeReq).perform base) (fun _ => true)
    (by decide +kernel)
  exact ⟨rfl, by decide +kernel, by decide +kernel, ⟨d, t, h, g1, by simpa using g2⟩, ⟨d', t', f', h', hf'⟩,
    by unfold noneOut; decide +kernel, by decide +kernel, by decide +kernel, by decide +kernel, ⟨o, ho⟩, ⟨f, hf⟩⟩

/-- Node 0, no longer the root, is to be reclaimed: its children are the new root 1 and, where there are two, node 2. The
free list is empty, or holds node 3. What is to be visited is `todo`. -/
def oldRoot (kids fcnt : Nat) (todo : List (Nat × Nat)) : State :=
  let s := treeS (tdB 0x00040008 0xC0 4 3 fcnt 1 3 3)
    [nd 0 65535 0 1 0 kids 5 0, nd 0 100 0 0 2 0 1 1, nd 0 200 0 0 0 0 1 0, nd 0 0 0 0 0 0 0 0] []
  s.setCluster 0 { s.cluster 0 with recls := [⟨base.issuer, 0xF000000000000000, b2, todo, false⟩] }

/-- A step of a reclamation that fails at node `i`. -/
theorem stepErr {x : State × Except (Nat × Nat × Nat) (List (Nat × Nat))} (i : Nat) (p : State → Bool)
    (h : (match x with | (t, .error e) => e.2.2 == i && p t | (_, .ok _) => false) = true) :
    ∃ t c a, x = (t, .error (c, a, i)) ∧ p t = true := by
  obtain ⟨t, ⟨c, a, j⟩ | l⟩ := x
  · have g : (j == i && p t) = true := h
    simp only [Bool.and_eq_true, beq_iff_eq] at g
    exact ⟨t, c, a, by rw [g.1], g.2⟩
  · cases h

theorem wit_TreeReclamation :
    (∀ s l, s = oldRoot 1 1 [(0, 1)] ∧ l = [(0, 1)] ∨ s = oldRoot 2 2 [(0, 1)] ∧ l = [(0, 1)] ∨
        s = oldRoot 2 2 [(1, 2)] ∧ l = [(1, 2)] →
      (s.cluster 0).recls[0]? = some ⟨base.issuer, 0xF000000000000000, b2, l, false⟩ ∧ s.wbad = [] ∧
      TreeSteady s base.issuer.who (b2.view ≠ 0) b2 0xF000000000000000 (dOf s) treeByt .read 0 0 ∧
      (dOf s).root = 1 ∧ (dOf s).pooln ≤ 2 ^ 32 ∧ (dOf s).fcnt < (dOf s).pooln ∧ (dOf s).pooln - (dOf s).bump ≤ (dOf s).fcnt ∧
      (dOf s).recl = true ∧ (dOf s).ftail ≠ 0 ∧ (dOf s).ftail < (dOf s).pooln) ∧
    (let s := oldRoot 1 1 [(0, 1)]; let d := dOf s; let n := nodeAt s d treeByt 0; d.fcnt = d.pooln - d.bump ∧
      toVisit d n.first n.kids ++ toVisit d n.next (1 - 1) ++ [] = []) ∧
    (let s := oldRoot 2 2 [(0, 1)]; let d := dOf s; let n := nodeAt s d treeByt 0; d.fcnt ≠ d.pooln - d.bump ∧
      toVisit d n.first n.kids ++ toVisit d n.next (1 - 1) ++ [] = [(1, 2)]) ∧
    (let s := oldRoot 2 2 [(1, 2)]; let d := dOf s; let n := nodeAt s d treeByt 1;
      toVisit d n.next (2 - 1) ++ [] = [(2, 1)]) ∧
    (∃ c a, (⟨base.issuer, 0xE000000000000000, b2, [(0, 1)], false⟩ : Reclaim).look base 0 = .error (c, a)) ∧
    (∃ t c a, (⟨base.issuer, 0xF000000000000000, b2, [(0, 1)], false⟩ : Reclaim).step
      { oldRoot 2 2 [(0, 1)] with wbad := [scratchLoc 0 0x100] } = (t, .error (c, a, 0)) ∧
      base.issuer.sid = some t.me.id ∧ t.me.exists? = true) ∧
    base.issuer.sid = some base.me.id ∧ base.me.exists? = true := by
  obtain ⟨⟨c, a⟩, hf, _⟩ := errAnd (r := (⟨base.issuer, 0xE000000000000000, b2, [(0, 1)], false⟩ : Reclaim).look base 0)
    (fun _ => true) (by decide +kernel)
  obtain ⟨t, e, b, ht, g⟩ := stepErr (x := (⟨base.issuer, 0xF000000000000000, b2, [(0, 1)], false⟩ : Reclaim).step
    { oldRoot 2 2 [(0, 1)] with wbad := [scratchLoc 0 0x100] }) 0
    (fun t => decide (base.issuer.sid = some t.me.id ∧ t.me.exists? = true)) (by decide +kernel)
  refine ⟨?_, by decide +kernel, by decide +kernel, by decide +kernel, ⟨c, a, hf⟩, ⟨t, e, b, ht, of_decide_eq_true g⟩, rfl,
    by decide +kernel⟩
  rintro s l (⟨rfl, rfl⟩ | ⟨rfl, rfl⟩ | ⟨rfl, rfl⟩) <;> exact ⟨by decide +kernel, rfl,
    tree_steady _ _ _ .read 0 0 (by decide +kernel) rfl rfl (by decide +kernel) (by decide +kernel) (.inl rfl), by decide +kernel⟩

/-! ### Witnesses: the attention cache, queues, pairs, the ends of waits -/

/-- An answer that leaves the state as it was. -/
theorem okSelf {ε α : Type} {r : Except ε (α × State)} {s : State} (p : α → Bool)
    (h : okP (fun x => decide (x.2 = s) && p x.1) r = true) : ∃ a, r = .ok (a, s) ∧ p a = true := by
  obtain ⟨⟨a, t⟩, h, g⟩ := okAnd _ h
  simp only [Bool.and_eq_true, decide_eq_true_eq] at g
  exact ⟨a, g.1 ▸ h, g.2⟩

theorem wit_AttentionCache :
    (∃ as, VecReady st4 [1] [.f32] ∧ Calm base4 ∧ st4.dynRst .rne = false ∧ st4.ten = 0#7 ∧
      as = ((List.range st4.vl).filter (st4.mbit 0)).map
        (fun i => (i, ((st4.getB 2).addr.toNat : Int) + 4 * ((st4.getX 3).toInt + (i : Nat)), 4)) ∧
      Steady base4 2 useAT as (inRow 4) ∧ (as.flatMap (fun x => (inRow 4 x.1).map (·.loc))).Nodup ∧
      (∀ x ∈ as, notDirty base4 (inRow 4 x.1))) ∧
    (let s := baseQ.setMe { st4 with x := (st4.setX 4 3#64).x }
     (s.me.getX 3).toNat % 2 ^ 32 = 0 ∧ (s.me.getX 4).toNat - (s.me.getX 3).toNat / 2 ^ 32 = 3 ∧ Calm s ∧
      Steady s 2 useLD [(0, 0xF000000000000000, 4), (1, 0xF000000000000004, 4), (2, 0xF000000000000008, 4)] (inRow 4)) ∧
    (st4.getX 4).toNat - (st4.getX 3).toNat / 2 ^ 32 ≤ (st4.getX 3).toNat % 2 ^ 32 :=
  ⟨⟨_, ready _ _ _ (by decide +kernel), calm _ (by decide +kernel), by decide +kernel, by decide +kernel, rfl,
    steady_pad _ _ _ _ _ (by decide +kernel), by decide +kernel, fun x _ b n h => by cases h⟩,
    ⟨by decide +kernel, by decide +kernel, calm _ (by decide +kernel), steady_pad _ _ _ _ _ (by decide +kernel)⟩, by decide +kernel⟩

/-- A queue record: its rings hold four entries each, at 0x39000 and 0x3A000. -/
def qrec (st head tail cplHead cplTail : Nat) : List Byte := toLE 4 0x00040003 ++ [0#8, 0#8] ++ toLE 1 st ++ [0#8] ++ toLE 8 0x39000 ++
  toLE 4 4 ++ toLE 4 head ++ toLE 4 tail ++ toLE 4 4 ++ toLE 8 0x3A000 ++ toLE 4 cplHead ++ toLE 4 cplTail ++ zeros 16

def queue1 (byCtx : Bool) : Queue := ⟨1, 1, 7, byCtx, 0x38000, 0, 0, 7, 1, none, false, 0, [], [(0, 0x500)]⟩

/-- Queue 1 with a record, named by x2; no launch of it. -/
def baseD (q : Queue) (r : List Byte) : State :=
  ({ withMe (xs 1 1) with queues := [q], launches := [{ launch0 with q := 2 }] } : State).writeP 0x38000 r

theorem openQ (s : State) (q : Queue) (r : List Byte) (n : Nat)
    (h : s.queue? n = some q ∧ q.ctx = s.me.ctx ∧ q.qstate = 1 ∧
      okP (fun x => decide (x.2 = s) && decide (x.1 = r)) (devRead s q.ctx q.addr 64) = true) : OpenQueue s n q r s := by
  obtain ⟨b, hb, g⟩ := okSelf (fun b => decide (b = r)) h.2.2.2
  have g : b = r := of_decide_eq_true g
  subst g
  exact ⟨h.1, h.2.1, h.2.2.1, hb⟩

theorem wit_DeviceQueues : (baseD (queue1 true) (qrec 1 0 1 0 0)).transfersOut = false ∧
    OpenQueue (baseD (queue1 true) (qrec 1 0 1 0 0)) 1 (queue1 true) (qrec 1 0 1 0 0) (baseD (queue1 true) (qrec 1 0 1 0 0)) ∧
    (∃ bs, access (baseD (queue1 true) (qrec 1 0 1 0 0)) base.who (strand0.getB 1) 1 useLD (0x20000 : Nat) 64 0 =
      .ok (bs, baseD (queue1 true) (qrec 1 0 1 0 0))) ∧
    (∃ t u, devWrite (baseD (queue1 true) (qrec 1 0 1 0 0)) 1 0x39010 (toLE 8 0x20000 ++ toLE 8 0) = .ok t ∧
      devWrite t 1 0x38018 (toLE 4 2) = .ok u) ∧
    idxSub (qSubTail (qrec 1 0 1 0 0)) (qSubHead (qrec 1 0 1 0 0)) < qSubLen (qrec 1 0 1 0 0) ∧
    qSubLen (qrec 1 0 4 0 0) ≤ idxSub (qSubTail (qrec 1 0 4 0 0)) (qSubHead (qrec 1 0 4 0 0)) ∧
    (let r := qrec 1 0 1 0 0; idxSub 0 (qSubHead r) < idxSub (qSubTail r) (qSubHead r) ∧
      idxSub (qSubTail r) (idxNext 0) < 2 ^ 31) ∧
    OpenQueue (baseD (queue1 true) (qrec 1 1 1 0 0)) 1 (queue1 true) (qrec 1 1 1 0 0) (baseD (queue1 true) (qrec 1 1 1 0 0)) ∧
    (let r := qrec 1 1 1 0 0; ¬ idxSub 0 (qSubHead r) < idxSub (qSubTail r) (qSubHead r) ∧
      ((queue1 true).written.find? (fun w => w.1 == 0)).map (·.2) = some 0x500 ∧
      idxSub (qSubTail r) (idxNext 0) < 2 ^ 31) := by
  obtain ⟨bs, h, _⟩ := okSelf (s := baseD (queue1 true) (qrec 1 0 1 0 0)) (r := access (baseD (queue1 true) (qrec 1 0 1 0 0)) base.who
    (strand0.getB 1) 1 useLD (0x20000 : Nat) 64 0) (fun _ => true) (by decide +kernel)
  obtain ⟨t, ht, g⟩ := okAnd (r := devWrite (baseD (queue1 true) (qrec 1 0 1 0 0)) 1 0x39010 (toLE 8 0x20000 ++ toLE 8 0))
    (fun t => okP (fun _ => true) (devWrite t 1 0x38018 (toLE 4 2))) (by decide +kernel)
  obtain ⟨u, hu, _⟩ := okAnd _ g
  exact ⟨by decide +kernel, openQ _ _ _ _ (by decide +kernel), ⟨bs, h⟩, ⟨t, u, ht, hu⟩, by decide +kernel,
    by decide +kernel, by decide +kernel, openQ _ _ _ _ (by decide +kernel), by decide +kernel⟩

/-- QNEW of a record at bound 1, with queue 1 taken. -/
def baseN : State := ((withMe (xs 1 1)).writeP 0x20000 (qrec 0 9 0 0 9))

theorem wit_DeviceQueues_new : noneOut baseN ∧
    (∃ r bs, baseN.loadE 1 useLD (0x20000 : Nat) 64 0 = .ok (r, baseN) ∧
      access baseN base.who (strand0.getB 1) 1 useST (0x20000 : Nat) 64 0 = .ok (bs, baseN) ∧
      qPart r = baseN.myPart.1 ∧ baseN.myPart.2 ≤ qClass r ∧ qSubTail r = 0 ∧ qCplHead r = 0 ∧ qWell r = true) ∧
    (∃ t u v, baseN.storeE 1 useST (0x20014 : Nat) (toLE 4 0) 0 = .ok t ∧ t.storeE 1 useST (0x2002C : Nat) (toLE 4 0) 0 = .ok u ∧
      u.storeE 1 useST (0x20006 : Nat) (toLE 1 1) 0 = .ok v) ∧ baseN.freeQueue = some 0 ∧
    ({ baseN with queues := (List.range 256).map (fun n => { queue0 with n := n }) } : State).freeQueue = none := by
  obtain ⟨r, h, g⟩ := okSelf (s := baseN) (r := baseN.loadE 1 useLD (0x20000 : Nat) 64 0)
    (fun r => decide (qPart r = baseN.myPart.1 ∧ baseN.myPart.2 ≤ qClass r ∧ qSubTail r = 0 ∧ qCplHead r = 0 ∧ qWell r = true))
    (by decide +kernel)
  obtain ⟨bs, hb, _⟩ := okSelf (s := baseN) (r := access baseN base.who (strand0.getB 1) 1 useST (0x20000 : Nat) 64 0)
    (fun _ => true) (by decide +kernel)
  obtain ⟨t, ht, g1⟩ := okAnd (r := baseN.storeE 1 useST (0x20014 : Nat) (toLE 4 0) 0)
    (fun t => okP (fun u => okP (fun _ => true) (u.storeE 1 useST (0x20006 : Nat) (toLE 1 1) 0))
      (t.storeE 1 useST (0x2002C : Nat) (toLE 4 0) 0)) (by decide +kernel)
  obtain ⟨u, hu, g2⟩ := okAnd _ g1
  obtain ⟨v, hv, _⟩ := okAnd _ g2
  exact ⟨by unfold noneOut; decide +kernel, ⟨r, bs, h, hb, of_decide_eq_true g⟩, ⟨t, u, v, ht, hu, hv⟩, by decide +kernel,
    by decide +kernel⟩

/-- QDEL of a queue that QNEW made, with nothing outstanding, and of one that QCREATE made. -/
theorem wit_DeviceQueues_del :
    OpenQueue (baseD (queue1 true) (qrec 1 0 1 0 0)) 1 (queue1 true) (qrec 1 0 1 0 0) (baseD (queue1 true) (qrec 1 0 1 0 0)) ∧
    OpenQueue (baseD (queue1 false) (qrec 1 0 1 0 0)) 1 (queue1 false) (qrec 1 0 1 0 0) (baseD (queue1 false) (qrec 1 0 1 0 0)) ∧
    (queue1 true).ending = none ∧ idxSub (qSubTail (qrec 1 0 1 0 0)) (qSubHead (qrec 1 0 1 0 0)) ≤ qSubLen (qrec 1 0 1 0 0) ∧
    (∀ l ∈ (baseD (queue1 true) (qrec 1 0 1 0 0)).launches, l.q ≠ (queue1 true).n) :=
  ⟨openQ _ _ _ _ (by decide +kernel), openQ _ _ _ _ (by decide +kernel), rfl,
    by decide +kernel, by decide +kernel⟩

/-! A pair of scalar halves, a load and a store, a vector half, SLQTAKE with no strip, an arrival and a wait. -/

theorem wit_PairWords_scalar : scalarPair (.pairAdd 3 1 2 (.li 4 5)) = some (.add 3 1 2, .li 4 5) ∧
    (Instr.pairAdd 3 1 2 (.li 4 5)).wf = true ∧ (Instr.pairLd 3 0 1 0 (.li 4 5)).wf = true := by decide

theorem wit_PairWords_memory : (∃ bs t, Admitted base 1 useLD 0x20000 8 .plain false bs t) ∧
    (∃ bs t, Admitted base 1 useST 0x20000 8 .plain true bs t) ∧
    ((strand0.getB 1).addr.toNat : Int) + (strand0.getX 0).toInt * 8 + 8 * (0#11).toInt = 0x20000 ∧ base.me.esr = 0 ∧
    base.me.stopAt = none ∧ (∃ f, access base base.who (base.me.getB 1) 1 useLD 0x1FFF8 8 0 = .error f) := by
  refine ⟨?_, ?_, by decide +kernel, by decide +kernel, by decide +kernel, ?_⟩
  · obtain ⟨⟨bs, t⟩, h, g⟩ := okAnd (r := access base base.who (base.me.getB 1) 1 useLD 0x20000 8 0)
      (fun r => !base.conflicts r.1 false) (by decide +kernel)
    exact ⟨bs, t, h, by simpa using g, by decide +kernel, by decide +kernel⟩
  · obtain ⟨⟨bs, t⟩, h, g⟩ := okAnd (r := access base base.who (base.me.getB 1) 1 useST 0x20000 8 0)
      (fun r => !base.conflicts r.1 true) (by decide +kernel)
    exact ⟨bs, t, h, by simpa using g, by decide +kernel, by decide +kernel⟩
  · obtain ⟨f, h, _⟩ := errAnd (r := access base base.who (base.me.getB 1) 1 useLD 0x1FFF8 8 0) (fun _ => true) (by decide +kernel)
    exact ⟨f, h⟩

theorem wit_PairWords_vector : (∃ full f, vectorPair st4 (.pairVadd 3 1 2 (.li 4 5)) = some (3, [3, 1, 2], full, .li 4 5, f) ∧
      full.wf = true) ∧ VecReady st4 [3, 1, 2] [st4.vty] ∧ Whole st4 ∧ st4.vl ≠ 0 ∧ st4.ten = 0#7 ∧ isBlock st4.vty = false ∧
    ((Instr.pairSlqtake 3 1 2 (.li 4 5)).wf = true ∧ (3 : VRegNo).val < st4.vcount ∧ rowFree st4 = true ∧ st4.stream = none ∧
      st4.esr = 0 ∧ st4.stopAt = none) :=
  ⟨⟨_, _, rfl, by decide +kernel⟩, ready _ _ _ (by decide +kernel), whole _ (by decide +kernel), by decide +kernel,
    by decide +kernel, by decide +kernel, by decide +kernel⟩

theorem wit_PairWords_barriers : (let s := (bar2 1).setMe (strand0.setX 1 0xF000000000000000#64)
    (s.me.getX 1).toNat = 0xF000000000000000 ∧ Object s 0xF000000000000000 ∧ s.me.esr = 0 ∧ s.me.stopAt = none ∧
    (∃ ob', (s.barAt s.me.core 0xF000000000000000).arrive = some ob') ∧
    (s.barAt s.me.core 0xF000000000000000).phase = (s.me.getX 2).toNat % 2 ∧
    (s.barAt s.me.core 0xF000000000000000).phase ≠ (s.me.getX 1 + 1).toNat % 2) := by
  obtain ⟨ob', h, _⟩ := someAnd (r := (((bar2 1).setMe (strand0.setX 1 0xF000000000000000#64)).barAt 0 0xF000000000000000).arrive)
    (fun _ => true) (by decide +kernel)
  exact ⟨by decide +kernel, ⟨by decide +kernel, by decide +kernel, calm _ (by decide +kernel)⟩, by decide +kernel, by decide +kernel, ⟨ob', h⟩, by decide +kernel,
    by decide +kernel⟩

theorem wit_EndsOfWaits : strand0.exists? = true ∧ strand0.blocked = none ∧ ({ strand0 with blocked := some (.waitt 1) } : Strand).exists? = true ∧
    strand0.mustTake = false ∧ ({ strand0 with pending := [⟨⟨0x52, 17, 0#64, 0#64, 0#64⟩, 7, 0#64⟩] } : Strand).mustTake = true ∧
    wakeOf base 1 (.waitt 1) = some (.waittWake 1, True) ∧
    wakeOf base 1 (.wkrun 1 2 3 4) = some (.walkerRoom 1, (base.cluster 0).runsHeld < 8) ∧ (base.cluster 0).runsHeld < 8 ∧
    wakeOf base 1 (.cpgo 0 5 6) = some (.channelRoom 1, ((base.core 0).onChan 0).length < 4) ∧ ((base.core 0).onChan 0).length < 4 ∧
    (let q : Stream := ⟨0xF000000000000000, 8, 16, 4, .i32, st4b.getB 2, 2, 0, [⟨0xF000000000000000, 4, true, false, false, []⟩,
      ⟨0xF000000000000010, 4, true, false, false, []⟩]⟩
     let s := baseQ.setMe { st4b with stream := some q }
     s.me.exists? = true ∧ q.groups[q.nextBuf]? = some ⟨0xF000000000000000, 4, true, false, false, []⟩ ∧
      q.nextBuf < 32 - s.me.bufFirst ∧ ∃ bs vs t, s.stripBytes q ⟨0xF000000000000000, 4, true, false, false, []⟩ = .ok (bs, vs, t)) := by
  obtain ⟨q, g, bs, vs, t, rfl, hg, h, _⟩ := wit_StripQueue_take
  have hg : g = ⟨0xF000000000000000, 4, true, false, false, []⟩ := by simpa using hg.symm
  subst hg
  exact ⟨by decide +kernel, rfl, by decide +kernel, by decide +kernel, by decide +kernel, rfl, rfl, by decide +kernel, rfl,
    by decide +kernel, by decide +kernel, by decide +kernel, by decide +kernel, bs, vs, t, h⟩

/-! ### Witnesses: commands, windows, the clock -/

/-- A command from a registered host on endpoint 0. -/
def cmd (ctx : Nat) (a : List Nat) (pl : List Byte) : Cmd :=
  let w (i : Nat) : Word := BitVec.ofNat 64 (a.getD i 0)
  ⟨7, false, 0, 0, 0x0004000C#32, 0#16, 9#64, BitVec.ofNat 32 ctx, BitVec.ofNat 32 pl.length, w 0, w 1, w 2, w 3, w 4, pl⟩

theorem good {s : State} {i : Instr} {opc : Nat} {named : List Nat} {ux : Bool} {plen : Nat} {c : Cmd}
    (hf : commandOf i = some (opc, named, ux, plen, c))
    (h : s.boot = .up ∧ s.replay = none ∧ s.logOn = false ∧ c.endp = 0 ∧ s.registered c.src = true ∧ c.lane = false ∧
      cmdOk c s named ux plen = true) : Good s i c :=
  ⟨⟨h.1, h.2.1, h.2.2.1⟩, .inr ⟨h.2.2.2.1, h.2.2.2.2.1⟩, opc, named, ux, plen, hf, h.2.2.2.2.2.2,
    fun hl => absurd hl (by simp [h.2.2.2.2.2.1])⟩

theorem wit_CommandsAnswered : commandOf (.ident (cmd 0 [] [])) = some (0x01, [], false, 0, cmd 0 [] []) ∧
    ¬ reaches base { cmd 0 [] [] with src := 8 } ∧ State.reset.boot = .waiting ∧ (cmd 0 [] []).lane = false ∧ Quiet base ∧
    reaches base (cmd 0 [] []) ∧ cmdOk { cmd 0 [] [] with fmt := 0#32 } base [] false 0 = false ∧
    (({ cmd 0 [] [] with lane := true } : Cmd).lane = true ∧ laneOp 0x02 = false) ∧
    (∃ r, (let s := { base with replay := some r }; s.boot = .up ∧ s.replay.isSome = true ∧ laneOp 0x02 = false ∧
      cmdOk { cmd 0 [] [] with lane := true } s [] false 0 = true)) :=
  ⟨rfl, by rintro (h | ⟨_, h⟩) <;> exact absurd h (by decide +kernel), rfl, rfl, ⟨rfl, rfl, by decide +kernel⟩,
    .inr ⟨rfl, by decide +kernel⟩, by decide +kernel, ⟨rfl, by decide⟩, ⟨7, true, 9#64, 0, 0, 1⟩, by decide +kernel⟩

/-- The module with context 1 holding no code object, and nothing resident in it. -/
def bare : State := { base with ctxs := [{ ctx0 with objs := [], t0 := 0x70000, tlb := [], pins := [], partMask := 1 }], launches := [], queues := [] }

/-- The module with no context. -/
def vacant : State := { bare with ctxs := [] }

/-- The same with the tables of the page at 0x400000 in memory. -/
def bareT : State := (((bare.writeP 0x70000 (toLE 8 0x72004)).writeP 0x72000 (toLE 8 0x74004)).writeP 0x74000 (toLE 8 0x76004)).writeP
  0x76020 (toLE 8 0x78004)

/-- A code object of one word of text, a strong symbol at its start, and a binding of that word with EX. -/
def image1 : List Byte := toLE 4 0x0004000A ++ [4#8, 32#8, 0#8, 0#8] ++ toLE 4 64 ++ toLE 4 8 ++ toLE 4 64 ++ toLE 4 0 ++ toLE 4 128 ++
  toLE 4 1 ++ toLE 4 192 ++ toLE 4 1 ++ toLE 4 192 ++ toLE 4 0 ++ toLE 4 256 ++ toLE 4 2 ++ zeros 8 ++ zeros 64 ++
  (toLE 4 0 ++ [0#8, 0#8] ++ toLE 2 4 ++ toLE 8 0 ++ toLE 8 8 ++ zeros 8) ++ zeros 32 ++
  (toLE 4 0 ++ [1#8, 1#8] ++ zeros 2 ++ toLE 8 0) ++ zeros 48 ++ [0x61#8, 0#8]
def item1 : LoadItem := ⟨0x400000, 0x500000, some image1, some 0x50000, none⟩

theorem wit_ContextCommands :
    Good base (.ident (cmd 0 [] [])) (cmd 0 [] []) ∧
    (Good base (.physwin (cmd 0 [0, 64, 1023] [])) (cmd 0 [0, 64, 1023] []) ∧ inHbm 0 64 = true) ∧
    Good base (.physwin (cmd 0 [0, 0, 1024] [])) (cmd 0 [0, 0, 1024] []) ∧
    (Good base (.ctxnew (cmd 0 [0, 1, 0x10000000000, 0x100000] [])) (cmd 0 [0, 1, 0x10000000000, 0x100000] []) ∧
      base.ctx? 2 = none ∧ (∀ j, j < 2 → 1 ≤ j → base.ctx? j ≠ none) ∧ inHbm 0 4096 = true ∧ inLp 0x10000000000 0x100000 = true ∧
      hits base.ckArea 0x10000000000 0x100000 = false ∧ hits base.logArea 0x10000000000 0x100000 = false ∧
      (∀ x ∈ base.ctxs, overlap 0x10000000000 0x100000 x.poolBase x.poolLen = false)) ∧
    (Good base (.ctxload (cmd 1 [] []) [] [] []) (cmd 1 [] []) ∧ base.ctx? 1 = some ctx0 ∧ ctx0.objs ≠ []) ∧
    (∃ x, Good bareT (.ctxload (cmd 1 [] []) [item1] [] []) (cmd 1 [] []) ∧ bareT.ctx? 1 = some x ∧ x.objs = [] ∧
      (∃ t, loadCtx bareT x [item1] [] [] = .ok t) ∧
      (∃ i cause, loadCtx bareT x [{ item1 with image := none }] [] [] = .error (i, cause))) ∧
    (Good bare (.ctxend (cmd 1 [] [])) (cmd 1 [] []) ∧ (∀ q ∈ bare.queues, q.ctx ≠ 1) ∧ (∀ w ∈ bare.wins, w.phys = true ∨ w.ctx ≠ 1)) ∧
    (Good base (.ctxend (cmd 1 [] [])) (cmd 1 [] []) ∧ base.frozen = false ∧ ∃ q ∈ base.queues, q.ctx = 1) ∧
    (Good base (.tlbinv (cmd 1 [0, 4096] [])) (cmd 1 [0, 4096] []) ∧ base.ctx? 1 = some ctx0) := by
  obtain ⟨x, hx, g⟩ := someAnd (r := bareT.ctx? 1) (fun x => x.objs.isEmpty &&
    okP (fun _ => true) (loadCtx bareT x [item1] [] []) &&
    errP (fun _ => true) (loadCtx bareT x [{ item1 with image := none }] [] [])) (by decide +kernel)
  simp only [Bool.and_eq_true, List.isEmpty_iff] at g
  obtain ⟨t, ht, _⟩ := okAnd _ g.1.2
  obtain ⟨⟨i, cause⟩, he, _⟩ := errAnd _ g.2
  exact ⟨good rfl (by decide +kernel), ⟨good rfl (by decide +kernel), by decide⟩, good rfl (by decide +kernel),
    ⟨good rfl (by decide +kernel), by decide +kernel⟩, ⟨good rfl (by decide +kernel), by decide +kernel, by decide +kernel⟩,
    ⟨x, good rfl (by decide +kernel), hx, g.1.1, ⟨t, ht⟩, i, cause, he⟩,
    ⟨good rfl (by decide +kernel), by decide +kernel, by decide +kernel⟩,
    ⟨good rfl (by decide +kernel), by decide +kernel, by decide +kernel⟩, good rfl (by decide +kernel), by decide +kernel⟩

/-- The module with a record for a queue to create, and none but `n` queues. -/
def baseK (n : Nat) : State := ({ base with
    ctxs := [{ ctx0 with partMask := 1 }]
    queues := (List.range n).map (fun k => { queue0 with n := k }) } : State).writeP 0x38000 (qrec 0 9 0 0 9)

theorem wit_PartitionAndQueueCommands :
    (Good base (.partset (cmd 0 [1, 2048, 64, 0, 4] [])) (cmd 0 [1, 2048, 64, 0, 4] []) ∧
      (let p : Part := ⟨2048, 64, 0, 4, 0⟩
       sumWith base 1 p Part.kernel ≤ 2048 ∧ sumWith base 1 p Part.walker ≤ 64 ∧ sumWith base 1 p Part.copy ≤ 2048 ∧
        sumWith base 1 p Part.exchange ≤ 4 ∧ sumWith base 1 p Part.pool ≤ 16384 ∧
        partOk p base.holds base.time.toNat (base.inPart 1) (fun _ => true) = true)) ∧
    (Good base (.partset (cmd 0 [1, 2049] [])) (cmd 0 [1, 2049] []) ∧ 2048 < sumWith base 1 ⟨2049, 0, 0, 0, 0⟩ Part.kernel) ∧
    (∃ x b, Good (baseK 1) (.qcreate (cmd 1 [0x38000] [])) (cmd 1 [0x38000] []) ∧ (baseK 1).ctx? 1 = some x ∧
      devRead (baseK 1) 1 0x38000 64 = .ok (b, baseK 1) ∧ qWell b = true ∧ x.partMask.testBit (qPart b) = true ∧ qSubTail b = 0 ∧
      qCplHead b = 0 ∧ (baseK 256).freeQueue = none ∧ (baseK 1).freeQueue = some 1 ∧
      ∃ t u v, devWrite (baseK 1) 1 (0x38000 + 0x14) (toLE 4 0) = .ok t ∧ devWrite t 1 (0x38000 + 0x2C) (toLE 4 0) = .ok u ∧
        devWrite u 1 (0x38000 + 6) (toLE 1 1) = .ok v) ∧
    (let s := baseD (queue1 true) (qrec 1 0 1 0 0)
     Good s (.qdestroy (cmd 0 [1, 2] [])) (cmd 0 [1, 2] []) ∧ s.queue? 1 = some (queue1 true) ∧ (queue1 true).ending = none ∧
      (∃ b, devRead s 1 0x38000 64 = .ok (b, s) ∧ idxSub (qSubTail b) (qSubHead b) ≤ qSubLen b) ∧ (∀ l ∈ s.launches, l.q ≠ 1)) ∧
    (let q : Queue := { queue1 true with qstate := 4, ending := some (2, 1) }
     let s := baseD q (qrec 4 0 1 0 0)
     Good s (.qdestroy (cmd 0 [1, 1] [])) (cmd 0 [1, 1] []) ∧ s.queue? 1 = some q ∧ q.qstate ≠ 0) ∧
    (Good base (.qdestroy (cmd 0 [9, 0] [])) (cmd 0 [9, 0] []) ∧ base.queue? 9 = none) ∧
    Good base (.winset (cmd 1 [1023, 0x20000, 0x1000, 15, 3] [])) (cmd 1 [1023, 0x20000, 0x1000, 15, 3] []) ∧
    Good base (.winclr (cmd 0 [5] [])) (cmd 0 [5] []) ∧
    Good base (.groupset (cmd 0 [3, 2, 1, 99] (zeros 32))) (cmd 0 [3, 2, 1, 99] (zeros 32)) ∧
    (Good base (.clockset (cmd 0 [127, 1, 4095, 1] [])) (cmd 0 [127, 1, 4095, 1] []) ∧ base.loaded = true) ∧
    (Good vacant (.clockset (cmd 0 [127, 1, 4095, 1] [])) (cmd 0 [127, 1, 4095, 1] []) ∧ vacant.loaded = false) ∧
    Good base (.hostreg (cmd 0 [8, 1] [])) (cmd 0 [8, 1] []) := by
  obtain ⟨b, hb, g⟩ := okSelf (s := baseK 1) (r := devRead (baseK 1) 1 0x38000 64) (fun b => decide (qWell b = true ∧
    ((1 : Nat).testBit (qPart b) = true ∧ qSubTail b = 0 ∧ qCplHead b = 0))) (by decide +kernel)
  have g := of_decide_eq_true g
  obtain ⟨t, ht, g1⟩ := okAnd (r := devWrite (baseK 1) 1 (0x38000 + 0x14) (toLE 4 0)) (fun t => okP (fun u => okP (fun _ => true)
    (devWrite u 1 (0x38000 + 6) (toLE 1 1))) (devWrite t 1 (0x38000 + 0x2C) (toLE 4 0))) (by decide +kernel)
  obtain ⟨u, hu, g2⟩ := okAnd _ g1
  obtain ⟨v, hv, _⟩ := okAnd _ g2
  obtain ⟨b', hb', g'⟩ := okSelf (s := baseD (queue1 true) (qrec 1 0 1 0 0))
    (r := devRead (baseD (queue1 true) (qrec 1 0 1 0 0)) 1 0x38000 64)
    (fun b => decide (idxSub (qSubTail b) (qSubHead b) ≤ qSubLen b)) (by decide +kernel)
  exact ⟨⟨good rfl (by decide +kernel), by decide +kernel⟩, ⟨good rfl (by decide +kernel), by decide +kernel⟩,
    ⟨{ ctx0 with partMask := 1 }, b, good rfl (by decide +kernel), by decide +kernel, hb, g.1, g.2.1, g.2.2.1, g.2.2.2, by decide +kernel,
      by decide +kernel, t, u, v, ht, hu, hv⟩,
    ⟨good rfl (by decide +kernel), by decide +kernel, rfl, ⟨b', hb', of_decide_eq_true g'⟩, by decide +kernel⟩,
    ⟨good rfl (by decide +kernel), by decide +kernel, by decide +kernel⟩,
    ⟨good rfl (by decide +kernel), by decide +kernel⟩, good rfl (by decide +kernel), good rfl (by decide +kernel),
    good rfl (by decide +kernel), ⟨good rfl (by decide +kernel), by decide +kernel⟩, ⟨good rfl (by decide +kernel), by decide +kernel⟩,
    good rfl (by decide +kernel)⟩

/-- Window 1 over data for read, write and atomics, set by host 7; window 2 for read only. -/
def baseV : State := { base with wins := [⟨1, 1, 7, 0x20000, 0x1000, 7, 0, false⟩, ⟨2, 1, 7, 0x20000, 0x1000, 1, 0, false⟩] }

theorem granted (r : Remote) (bit n : Nat) (need : Need)
    (h : baseV.logOn = false ∧ ∃ w, baseV.window? r.win = some w ∧ r.off + n ≤ w.len ∧ w.perm.testBit bit = true ∧
      baseV.mayInitiate w r.src = true ∧ (r.svc = .rudi → winHasDev baseV w = false) ∧
      someP (fun _ => true) (winBytes baseV w r.off n need) = true) : ∃ bs t, Granted baseV r bit n need bs t := by
  obtain ⟨hl, w, h1, h2, h3, h4, h5, h6⟩ := h
  obtain ⟨⟨bs, t⟩, hb, _⟩ := someAnd _ h6
  exact ⟨bs, t, ⟨rfl, rfl, hl⟩, w, h1, h2, h3, h4, h5, hb⟩

def win1 : Window := ⟨1, 1, 7, 0x20000, 0x1000, 7, 0, false⟩

theorem wit_RemoteOperations : (∃ bs t, Granted baseV ⟨1, 0xFF8, 7, .rod, 0⟩ 1 8 .write bs t) ∧
    (∃ bs t, Granted baseV ⟨1, 0, 7, .rud, 0⟩ 0 8 .read bs t) ∧ (∃ bs t, Granted baseV ⟨1, 8, 7, .rudi, 0⟩ 2 8 .write bs t) ∧
    baseV.bad = [] ∧ Quiet baseV ∧ baseV.window? 1 = some win1 ∧ (0x20000 + 8) % 8 = 0 ∧
    refusal baseV ⟨1, 0xFF9, 7, .rod, 0⟩ 1 8 .write win1 = some 0 ∧
    refusal baseV ⟨1, 0, 8, .rod, 0⟩ 1 8 .write win1 = some 2 ∧
    baseV.registered win1.host = true :=
  ⟨granted _ _ _ _ ⟨by decide +kernel, win1, by decide +kernel⟩, granted _ _ _ _ ⟨by decide +kernel, win1, by decide +kernel⟩,
    granted _ _ _ _ ⟨by decide +kernel, win1, by decide +kernel⟩, rfl, ⟨rfl, rfl, by decide +kernel⟩, by decide +kernel, by decide,
    by unfold refusal; rfl, by unfold refusal; rfl, by decide +kernel⟩

theorem wit_Clock : base.replay = none ∧ base.loaded = true ∧ vacant.loaded = false ∧ vacant.replay = none ∧ base.boot = .up := by
  decide +kernel

/-! ### Witnesses: Leeway -/

theorem wit_AdmissionTest : launch0.missed = false ∧
    admitTest ⟨0, 0, 0, 0, 1⟩ [] 0 [] { launch0 with nodes := [] } = none ∧
    (∃ e, admitTest ⟨1, 0, 0, 0, 1⟩ [] 0 [] { launch0 with deadline := 1, nodes := [{ node0 with r := { node0.r with maxw := 1 } }] } =
      some e ∧ e ≠ 0) := by
  obtain ⟨e, h, g⟩ := someAnd (r := admitTest ⟨1, 0, 0, 0, 1⟩ [] 0 []
    { launch0 with deadline := 1, nodes := [{ node0 with r := { node0.r with maxw := 1 } }] }) (fun e => e != 0) (by decide +kernel)
  exact ⟨rfl, by decide +kernel, e, h, by simpa using g⟩

/-- A launch record of one kernel node of one strand, in the table after it. -/
def lrec (fmt : Nat) : List Byte := toLE 4 fmt ++ toLE 4 1 ++ toLE 8 0 ++ toLE 8 0x30040 ++ toLE 8 0x30080 ++ toLE 4 0 ++
  toLE 2 1 ++ zeros 2 ++ toLE 8 0x77 ++ zeros 16
def nrec (target : Nat) : List Byte := [0#8, 1#8, 0x05#8, 0#8] ++ toLE 4 0 ++ toLE 4 0 ++ toLE 4 1 ++ toLE 8 256 ++ toLE 8 target ++
  zeros 32 ++ toLE 8 0x100000000 ++ zeros 56

/-- Queue 1 with one entry to read, and a partition with `pool` entries. -/
def baseS (fmt pool : Nat) : State :=
  (((({ base with queues := [queue1 false], launches := [], parts := [(0, ⟨1, 0, 0, 0, pool⟩)] } : State).writeP 0x38000
    (qrec 1 0 1 0 0)).writeP 0x39000 (toLE 8 0x30000)).writeP 0x30000 (lrec fmt)).writeP 0x30040 (nrec 0x10000)

theorem readable (s : State) (n : Nat) (q : Queue) (b : List Byte)
    (h : s.queue? n = some q ∧ q.qstate ≠ 0 ∧ okP (fun x => decide (x.2 = s) && decide (x.1 = b)) (devRead s q.ctx q.addr 64) = true) :
    Readable s n q b := by
  obtain ⟨b', hb, g⟩ := okSelf (fun x => decide (x = b)) h.2.2
  have g : b' = b := of_decide_eq_true g
  subst g
  exact ⟨h.1, h.2.1, hb⟩

theorem wit_Submissions : Readable (baseS 0x40002 1) 1 (queue1 false) (qrec 1 0 1 0 0) ∧ (queue1 false).ending = none ∧
    idxSub (qSubTail (qrec 1 0 1 0 0)) 0 ≤ qSubLen (qrec 1 0 1 0 0) ∧ Quiet (baseS 0x40002 1) ∧
    (0 ≠ qSubTail (qrec 1 0 1 0 0) ∧ idxSub (qCplTail (qrec 1 0 1 0 0)) (qCplHead (qrec 1 0 1 0 0)) + 0 < qCplLen (qrec 1 0 1 0 0)) ∧
    0 = qSubTail (qrec 1 0 0 0 0) ∧ (baseS 0x40002 1).noSpare = false ∧ (baseS 0x40002 1).reported 1 = true ∧
    (let s := { baseS 0x40002 1 with ctxs := [{ ctx0 with objs := [] }] }
     Readable s 1 (queue1 false) (qrec 1 0 1 0 0) ∧ s.reported 1 = false) ∧
    (∃ e t, devRead (baseS 0x40002 1) 1 0x39000 16 = .ok (e, baseS 0x40002 1) ∧
      devWrite (baseS 0x40002 1) 1 0x38014 (toLE 4 1) = .ok t ∧ field e 0 8 = 0x30000) ∧
    (∃ h ns, readLaunch (baseS 0x40002 1) 1 0x30000 = .ok (h, ns, baseS 0x40002 1) ∧
      admitTest ⟨1, 0, 0, 0, 1⟩ [] 0 [] ⟨0, 1, 0, 1, 0, 0, 0x30000, lrDeadline h, lrTag h, lrPool h, 0, false, false, false,
        ns.map Node.start⟩ = none ∧
      admitTest ⟨1, 0, 0, 0, 0⟩ [] 0 [] ⟨0, 1, 0, 1, 0, 0, 0x30000, lrDeadline h, lrTag h, lrPool h, 0, false, false, false,
        ns.map Node.start⟩ = some 0) ∧
    (∃ st tag, readLaunch (baseS 0 1) 1 0x30000 = .error (st, tag)) ∧
    (∃ h ns, readLaunch { baseS 0x40002 1 with noSpare := true } 1 0x30000 = .ok (h, ns, { baseS 0x40002 1 with noSpare := true })) := by
  obtain ⟨e, he, ge⟩ := okSelf (s := baseS 0x40002 1) (r := devRead (baseS 0x40002 1) 1 0x39000 16)
    (fun e => field e 0 8 == 0x30000) (by decide +kernel)
  obtain ⟨t, ht, _⟩ := okAnd (r := devWrite (baseS 0x40002 1) 1 0x38014 (toLE 4 1)) (fun _ => true) (by decide +kernel)
  obtain ⟨⟨h, ns, v⟩, hr, g⟩ := okAnd (r := readLaunch (baseS 0x40002 1) 1 0x30000) (fun r => decide (r.2.2 = baseS 0x40002 1 ∧
    admitTest ⟨1, 0, 0, 0, 1⟩ [] 0 [] ⟨0, 1, 0, 1, 0, 0, 0x30000, lrDeadline r.1, lrTag r.1, lrPool r.1, 0, false, false, false,
      r.2.1.map Node.start⟩ = none ∧
    admitTest ⟨1, 0, 0, 0, 0⟩ [] 0 [] ⟨0, 1, 0, 1, 0, 0, 0x30000, lrDeadline r.1, lrTag r.1, lrPool r.1, 0, false, false, false,
      r.2.1.map Node.start⟩ = some 0)) (by decide +kernel)
  obtain ⟨hv, g1, g2⟩ := of_decide_eq_true g
  have hv : v = baseS 0x40002 1 := hv
  subst hv
  obtain ⟨⟨st, tag⟩, hb, _⟩ := errAnd (r := readLaunch (baseS 0 1) 1 0x30000) (fun _ => true) (by decide +kernel)
  obtain ⟨⟨h', ns', v⟩, hr', g'⟩ := okAnd (r := readLaunch { baseS 0x40002 1 with noSpare := true } 1 0x30000)
    (fun r => decide (r.2.2 = { baseS 0x40002 1 with noSpare := true })) (by decide +kernel)
  have g' : v = { baseS 0x40002 1 with noSpare := true } := of_decide_eq_true g'
  subst g'
  exact ⟨readable _ _ _ _ (by decide +kernel), rfl, by decide +kernel, ⟨rfl, rfl, by decide +kernel⟩, by decide +kernel,
    by decide +kernel, by decide +kernel, by decide +kernel, ⟨readable _ _ _ _ (by decide +kernel), by decide +kernel⟩,
    ⟨e, t, he, ht, by simpa using ge⟩, ⟨h, ns, hr, g1, g2⟩, ⟨st, tag, hb⟩, h', ns', hr'⟩

/-- Queue 1 with a record due, an end-marking one, or with its destruction under way. -/
def due (m : Bool) : Queue := { queue1 false with cpls := [⟨0x77#64, 1, 0, 0, 0, 5#64, 0, m⟩], reading := 1 }
def ending : Queue := { queue1 false with qstate := 2, ending := some (0, 1) }

theorem wit_CompletionRecords : (∀ m : Bool, Readable (baseD (due m) (qrec 1 1 1 0 0)) 1 (due m) (qrec 1 1 1 0 0) ∧
      (due m).cpls.find? (fun c => c.hasPlace (due m) (qrec 1 1 1 0 0)) = some ⟨0x77#64, 1, 0, 0, 0, 5#64, 0, m⟩ ∧
      ∃ t u, devWrite (baseD (due m) (qrec 1 1 1 0 0)) 1 0x3A000 (⟨0x77#64, 1, 0, 0, 0, 5#64, 0, m⟩ : Cpl).bytes = .ok t ∧
        devWrite t 1 0x3802C (toLE 4 1) = .ok u) ∧
    (baseD (due false) (qrec 1 1 1 0 0)).replay = none ∧
    (Readable (baseD ending (qrec 2 1 1 0 0)) 1 ending (qrec 2 1 1 0 0) ∧ ending.cpls = [] ∧
      ending.ending = some (0, qSubHead (qrec 2 1 1 0 0)) ∧ ∀ l ∈ (baseD ending (qrec 2 1 1 0 0)).launches, l.q ≠ ending.n) := by
  have hw : ∀ m : Bool, okP (fun t => okP (fun _ => true) (devWrite t 1 0x3802C (toLE 4 1))) (devWrite (baseD (due m) (qrec 1 1 1 0 0)) 1
      0x3A000 (⟨0x77#64, 1, 0, 0, 0, 5#64, 0, m⟩ : Cpl).bytes) = true := by decide +kernel
  have hr : ∀ m : Bool, (baseD (due m) (qrec 1 1 1 0 0)).queue? 1 = some (due m) ∧ (due m).qstate ≠ 0 ∧
      okP (fun x => decide (x.2 = baseD (due m) (qrec 1 1 1 0 0)) && decide (x.1 = qrec 1 1 1 0 0))
        (devRead (baseD (due m) (qrec 1 1 1 0 0)) (due m).ctx (due m).addr 64) = true := by decide +kernel
  have hp : ∀ m : Bool, (due m).cpls.find? (fun c => c.hasPlace (due m) (qrec 1 1 1 0 0)) =
      some ⟨0x77#64, 1, 0, 0, 0, 5#64, 0, m⟩ := by decide +kernel
  refine ⟨fun m => ?_, rfl, readable _ _ _ _ (by decide +kernel), rfl, by decide +kernel, by decide +kernel⟩
  obtain ⟨t, ht, g⟩ := okAnd _ (hw m)
  obtain ⟨u, hu, _⟩ := okAnd _ g
  exact ⟨readable _ _ _ _ (hr m), hp m, t, u, ht, hu⟩

/-! ### Witnesses: nodes and residency -/

theorem wit_PoolEntries : base.launch? 1 = some launch0 ∧ launch0.failed = false ∧ launch0.aborted = false := by decide +kernel

/-- The module with a launch of these nodes. -/
def withNodes (dl : Nat) (ns : List Node) : State := { base with launches := [{ launch0 with deadline := dl, nodes := ns }], time := 9#64 }
def timed (target args : Nat) : Node := ⟨⟨4, 0, 0, false, 0, 0, BitVec.ofNat 64 target, BitVec.ofNat 64 args, 0#64, [], []⟩, .pooled, 0,
  false, [], 0, none, 0, false⟩

theorem wit_NodesComplete : ((withNodes 0 [{ node0 with exited := 1 }]).launch? 1 = some { launch0 with nodes := [{ node0 with exited := 1 }] } ∧
    ({ node0 with exited := 1 } : Node).left = [] ∧ 1 = node0.r.total ∧ (withNodes 0 []).nodeTransfers ⟨1, 0, 0⟩ = false ∧ node0.st = .running ∧
    node0.exited ≠ node0.r.total ∧ ((withNodes 0 []).time < (timed 10 0).r.target) ∧ (timed 9 0).r.target ≤ (withNodes 0 []).time ∧
    (timed 9 0).r.args = 0#64 ∧ (timed 9 0).r.kind = 4 ∧ (timed 9 0).st = .pooled ∧ base.logOn = false ∧ base.replay = none ∧
      base.wbad = [] ∧ node0.r.budget ≤ ({ node0 with charge := 256 } : Node).charge ∧ 8 < (withNodes 8 [node0]).time.toNat ∧
      ({ launch0 with deadline := 8 } : Launch).missed = false) ∧
    (∃ bs t, devAccess (withNodes 0 [timed 9 0x20000]) 1 0x20000 8 .write = .ok (bs, t)) := by
  obtain ⟨⟨bs, t⟩, h, _⟩ := okAnd (r := devAccess (withNodes 0 [timed 9 0x20000]) 1 0x20000 8 .write) (fun _ => true) (by decide +kernel)
  exact ⟨by decide +kernel, bs, t, h⟩

/-- A kernel node and a copy node in the pool, the launch's records in memory, and a state pool with room. -/
def node1 : Node := ⟨{ node0.r with maxw := 1, levels := [(1, 0, 0)], target := 0x10000#64 }, .pooled, 0, false, [], 0, none, 0, false⟩
def node2 : Node := ⟨{ (timed 0 0).r with kind := 2 }, .running, 0, false, [], 0, none, 0, false⟩
def ctx1 : Ctx := { ctx0 with poolBase := 0x10000000000, poolLen := 0x1000000 }
def areas1 : Areas := ⟨0x10000000000, 0x10000100000, 0x10000200000, 0x10000600000⟩
def baseG (target : Nat) (n : Node) : State := (({ base with ctxs := [ctx1], launches := [{ launch0 with nodes := [n] }], me := Strand.blank } : State).writeP 0x30000 (lrec 0x40002)).writeP 0x30040 (nrec target)

def dispatchable0 (s : State) (x : Ctx) (l : Launch) (n : Node) : Bool :=
  decide (s.launch? 1 = some l ∧ s.node? 1 0 = some n ∧ s.ctx? l.ctx = some x) && n.dispatchable && !s.beaten l 0 n [0]

/-- The gang of a second launch, of tier 0, suspended on core 0: with MAXW 1 it could resume, with MAXW 0 it cannot. -/
def waiting (maxw : Nat) (s : State) : State := { s with
    launches := s.launches ++ [{ launch0 with no := 2, deadline := 1000, nodes := [{ node0 with r := { node0.r with maxw := maxw } }] }]
    strands := [{ strand0 with id := 9, gang := ⟨2, 0, 0⟩, live := .saved }] }

theorem wit_Dispatch : dispatchable0 (baseG 0x10000 node1) ctx1 { launch0 with nodes := [node1] } node1 = true ∧
    (baseG 0x10000 node1).gangOk ctx1 { launch0 with nodes := [node1] } 0 node1 0 [0] [1] [areas1] = true ∧
    (∃ r, (baseG 0x10000 node1).nodeAgain { launch0 with nodes := [node1] } 0 node1 = .ok (r, baseG 0x10000 node1) ∧ r.kind = 0 ∧
      objAt ctx1 r.target.toNat ≠ none) ∧
    (∃ det, (baseG 0x10008 node1).nodeAgain { launch0 with nodes := [node1] } 0 node1 = .error det) ∧
    (baseG 0x10000 node1).gangOk ctx1 { launch0 with nodes := [node1] } 0 node1 0 [0, 1] [1] [areas1] = false ∧
    (dispatchable0 (baseG 0 { node2 with st := .pooled }) ctx1 { launch0 with nodes := [{ node2 with st := .pooled }] }
      { node2 with st := .pooled } = true ∧ (baseG 0 node2).unitFree 2 0 = true) ∧
    (baseG 0x10000 node1).claimed 0 [0] = false ∧ (let s := waiting 1 (baseG 0x10000 node1)
      s.launch? 1 = some { launch0 with nodes := [node1] } ∧ s.tier { launch0 with nodes := [node1] } node1 = 2 ∧
      s.claimed 0 [0] = true) ∧
    (let l := { launch0 with cls := 1, nodes := [node1] }
     let s := { waiting 1 (baseG 0x10000 node1) with
       launches := [l, { launch0 with no := 2, nodes := [{ node0 with r := { node0.r with maxw := 1 } }] }] }
     s.tier l node1 = 2 ∧ s.claimed 1 [0] = true ∧ s.claimed 0 [0] = false) := by
  obtain ⟨r, h, g⟩ := okSelf (s := baseG 0x10000 node1) (r := (baseG 0x10000 node1).nodeAgain { launch0 with nodes := [node1] } 0 node1)
    (fun r => decide (r.kind = 0 ∧ objAt ctx1 r.target.toNat ≠ none)) (by decide +kernel)
  obtain ⟨det, hd, _⟩ := errAnd (r := (baseG 0x10008 node1).nodeAgain { launch0 with nodes := [node1] } 0 node1) (fun _ => true)
    (by decide +kernel)
  exact ⟨by decide +kernel, by decide +kernel, ⟨r, h, of_decide_eq_true g⟩, ⟨det, hd⟩, by decide +kernel, by decide +kernel,
    by decide +kernel, by decide +kernel, by decide +kernel⟩

/-- A second launch whose node, of tier 0, finds no room in the state pool. -/
def node3 : Node := { node1 with gangs := [], r := { node1.r with budget := 1 } }
def launch2 : Launch := { launch0 with no := 2, deadline := 1000, nodes := [node3] }
def baseY (blocked : Option Instr) : State := { base with
    launches := [launch0, launch2]
    parts := [(0, ⟨1, 0, 0, 0, 2⟩), (1, ⟨0, 0, 0, 0, 0⟩)]
    me := { strand0 with blocked := blocked, blockedFor := 4096 } }

theorem largest (s : State) (tier : Nat) (g : GangId) (key : List Nat)
    (h : (s.gangsOfTier tier).contains (key, g) = true ∧
      (s.gangsOfTier tier).all (fun y => y == (key, g) || (keyLt y.1 key && !keyLt key y.1)) = true) : Largest s tier g := by
  refine ⟨key, by simpa using h.1, fun y hy => ?_⟩
  have := List.all_eq_true.mp h.2 y hy
  simpa using this

theorem wit_Preemption : AtPoint (waiting 0 base) g0 ∧ AtPoint (baseY (some (.bwait 1 2))) g0 ∧
    ((waiting 0 base).launch? 1 = some launch0 ∧ (waiting 0 base).node? 1 0 = some node0 ∧ (waiting 0 base).tier launch0 node0 = 2 ∧
      Largest (waiting 0 base) 2 g0 ∧ (waiting 0 base).starved = true) ∧
    (let s := { base with
       launches := [launch0, { launch0 with no := 2 }]
       strands := [{ strand0 with id := 9, place := 1, gang := ⟨2, 0, 0⟩ }] }
     AtPoint s g0 ∧ Largest s 2 ⟨2, 0, 0⟩) ∧
    (let s := { base with retiring := [⟨1, 0, 0, false, 1, none⟩] }; AtPoint s g0 ∧ ∃ t ∈ s.all, t.gang = g0 ∧ s.swapDue t.cluster = true) ∧
    (AtPoint base g0 ∧ base.starved = false ∧ ∀ t ∈ base.all, t.gang = g0 → base.swapDue t.cluster = false) ∧
    (∀ t ∈ (baseY (some (.bwait 1 2))).all, t.gang = g0 → t.blocked ≠ none ∧ 4096 ≤ t.blockedFor) ∧
    (let s := { baseY (some (.bwait 1 2)) with strands := [{ strand0 with id := 9, gang := ⟨1, 0, 1⟩, live := .saved }] }
     AtPoint s g0 ∧ ∃ t ∈ s.all, t.gang = g0 ∧ s.waitsFor t.core g0 = true) ∧
    (∃ t ∈ (baseY none).all, t.gang = g0 ∧ (t.blocked = none ∨ t.blockedFor < 4096)) ∧
    (let s := { baseY none with launches := [launch0, { launch2 with part := 1 }], parts := [(1, ⟨1, 0, 0, 0, 2⟩)] }
     let l := { launch2 with part := 1 }
     s.launch? 2 = some l ∧ s.node? 2 0 = some node3 ∧ node3.dispatchable = true ∧ node3.r.kind = 0 ∧ s.tier l node3 = 0 ∧
      (∀ q, q < 2048 → s.usable l 0 node3 q = false) ∧ Largest s 2 g0 ∧
      AtPoint s g0) := by
  have h : ((({ baseY none with launches := [launch0, { launch2 with part := 1 }], parts := [(1, ⟨1, 0, 0, 0, 2⟩)] } : State).ctx? 1).map
      (fun x => State.poolRoom { baseY none with launches := [launch0, { launch2 with part := 1 }], parts := [(1, ⟨1, 0, 0, 0, 2⟩)] } x
        node3.r)).getD false = false := by decide +kernel
  refine ⟨⟨⟨_, List.mem_cons_self, rfl⟩, by decide +kernel, by decide +kernel⟩,
    ⟨⟨_, List.mem_cons_self, rfl⟩, by decide +kernel, by decide +kernel⟩,
    ⟨by decide +kernel, by decide +kernel, by decide +kernel, largest _ _ _ [2, 0, 0, 1, 0, 0] (by decide +kernel), by decide +kernel⟩,
    ⟨⟨⟨_, List.mem_cons_self, rfl⟩, by decide +kernel, by decide +kernel⟩, largest _ _ _ [2, 0, 0, 2, 0, 0] (by decide +kernel)⟩,
    ⟨⟨⟨_, List.mem_cons_self, rfl⟩, by decide +kernel, by decide +kernel⟩, _, List.mem_cons_self, rfl, by decide +kernel⟩,
    ⟨⟨⟨_, List.mem_cons_self, rfl⟩, by decide +kernel, by decide +kernel⟩, by decide +kernel, by decide +kernel⟩, by decide +kernel,
    ⟨⟨⟨_, List.mem_cons_self, rfl⟩, by decide +kernel, by decide +kernel⟩, _, List.mem_cons_self, rfl, by decide +kernel⟩,
    ⟨_, List.mem_cons_self, rfl, .inl rfl⟩, by decide +kernel, by decide +kernel, by decide +kernel, rfl,
    by decide +kernel, fun q _ => ?_, largest _ _ _ [2, 0, 0, 1, 0, 0] (by decide +kernel),
    ⟨⟨_, List.mem_cons_self, rfl⟩, by decide +kernel, by decide +kernel⟩⟩
  unfold State.usable
  simp only [Bool.and_eq_false_iff]
  exact .inr h

/-- The gang saved, its places free; of its save area, what an area of 16 bytes holds. -/
def node4 : Node := { node0 with r := { node0.r with maxw := 1 } }
def launch4 : Launch := { launch0 with deadline := 1000, nodes := [node4] }
def saved1 : State := ({ base with launches := [launch4], parts := [(0, ⟨1, 0, 0, 0, 2⟩)], me := { strand0 with live := .saved } } : State).writeP
  0x40000000 (toLE 4 0x00040001 ++ toLE 4 16 ++ toLE 8 0x10000)

theorem wit_Resumption : (base.launch? 1 = some launch0 ∧ base.node? 1 0 = some node0 ∧
      base.resumeOk launch0 0 node0.r (base.gangStrands ⟨1, 0, 0⟩) (fun _ => 1) = false) ∧ (saved1.launch? 1 = some launch4 ∧ saved1.node? 1 0 = some node4 ∧ (saved1.gangStrands g0 == [saved1.me]) = true ∧
      saved1.me.live = .saved ∧ saved1.me.grantOk 1 = true ∧ node4.r.gmin ≤ 1 ∧ 1 ≤ node4.r.gmax ∧ saved1.residents 1 0 + 1 ≤ node4.r.maxw ∧
      (saved1.onCore saved1.me.core).length + 1 ≤ 4 ∧ saved1.fileUsed saved1.me.core + 8 * 2 ^ 1 ≤ 128 ∧
      saved1.swapDue (saved1.me.core / 8) = false ∧ saved1.promised saved1.me.core 1 0 = false ∧ node4.r.matrix = false ∧ saved1.tier launch4 node4 ≠ 2 ∧
      saved1.freePlace saved1.me.core = some 0) ∧
    (∃ t, (saved1.setMe { loadBytes saved1.me (saved1.savedBytes saved1.me.saveArea) with
        live := .resident, place := 0, share := 1, latch := true, blockedFor := 0 }).reloadStacks = (t, none)) ∧
    (strand0.live = .resident ∧ strand0.awaiting = false ∧ strand0.handler = none) :=
  ⟨by decide +kernel, by decide +kernel, pairAnd (by decide +kernel), by decide +kernel⟩

/-! ### Witnesses: the module controller. What rests on an opaque constant of `Config` (a signature) is left out. -/

theorem wit_PlatformCommands : (Good base (.govset (cmd 0 [256] [])) (cmd 0 [256] []) ∧ base.loaded = true) ∧
    (Good vacant (.govset (cmd 0 [256] [])) (cmd 0 [256] []) ∧ vacant.loaded = false) ∧ Good vacant (.govset (cmd 0 [257] [])) (cmd 0 [257] []) ∧
    Good base (.monread (cmd 0 [0x9000, 64] [])) (cmd 0 [0x9000, 64] []) ∧
    (Good base (.attest (cmd 0 [0x9000, 1] (zeros 32))) (cmd 0 [0x9000, 1] (zeros 32)) ∧ base.ctx? 1 ≠ none) ∧
    Good base (.attest (cmd 0 [0x9000, 0] (zeros 32))) (cmd 0 [0x9000, 0] (zeros 32)) ∧
    (Good base (.attest (cmd 0 [0x9000, 2] (zeros 32))) (cmd 0 [0x9000, 2] (zeros 32)) ∧ base.ctx? 2 = none) ∧
    Good base (.fwload (cmd 0 [0x9000, 3] []) [1#8, 2#8, 3#8]) (cmd 0 [0x9000, 3] []) ∧
    Good vacant (.fwload (cmd 0 [0x9000, 3] []) [1#8, 2#8, 3#8]) (cmd 0 [0x9000, 3] []) ∧
    ((256 : Nat) ≤ Core.reset.nextBudget ∧ 255 < Core.reset.nextBudget ∧ ({ Core.reset with budget := 9 } : Core).nextBudget < 10) ∧
    Good base (.spares (cmd 0 [] [])) (cmd 0 [] []) ∧
    (Good base (.ckinfo (cmd 0 [0x9000] [])) (cmd 0 [0x9000] []) ∧ base.ckArea = none) ∧
    (Good { base with ckArea := some (lpBase, 2 ^ 30) } (.ckinfo (cmd 0 [0x9000] [])) (cmd 0 [0x9000] [])) :=
  ⟨⟨good rfl (by decide +kernel), by decide +kernel⟩, ⟨good rfl (by decide +kernel), by decide +kernel⟩, good rfl (by decide +kernel),
    good rfl (by decide +kernel), ⟨good rfl (by decide +kernel), by decide +kernel⟩, good rfl (by decide +kernel),
    ⟨good rfl (by decide +kernel), by decide +kernel⟩, good rfl (by decide +kernel), good rfl (by decide +kernel),
    by decide +kernel, good rfl (by decide +kernel), ⟨good rfl (by decide +kernel), rfl⟩, good rfl (by decide +kernel)⟩

/-- An image, the state area at the start of LPDDR6 with its header, and Logline's region after it with one marker. -/
def image0 : Image := ⟨[], [(3, { Core.reset with budget := 9 })], [], [], [ctx0], [], [queue0], [], [], [launch0], [], 2, 2, 0, 8000000000, 0#32, false, true, 0, 0, false, [(7, true)], [7]⟩
def baseI (ldirty : Nat) (s : State) : State :=
  (({ s with
      ckArea := some (lpBase, 2 ^ 30)
      image := some image0
      logArea := some (lpBase + 2 ^ 30, 64) } : State).writeP lpBase (toLE 4 0x00040010 ++ toLE 1 2 ++ toLE 1 ldirty ++ zeros 2 ++ toLE 8 5)).writeP
    (lpBase + 2 ^ 30) (logBytes 6 0 0 7 0#64 5#64 [])
/-- A replay has left its contexts frozen. -/
def iced : State := { baseI 0 base with frozen := true }

theorem wit_CheckpointCommands : (Good base (.ckptcfg (cmd 0 [lpBase, 2 ^ 30] [])) (cmd 0 [lpBase, 2 ^ 30] []) ∧ base.loaded = true) ∧
    (Good vacant (.ckptcfg (cmd 0 [lpBase, 2 ^ 30] [])) (cmd 0 [lpBase, 2 ^ 30] []) ∧ vacant.loaded = false ∧
      areaFree vacant vacant.logArea lpBase (2 ^ 30) = true ∧ vacant.ckArea = none ∧ (baseI 0 vacant).ckArea = some (lpBase, 2 ^ 30) ∧
      areaFree (baseI 0 vacant) (baseI 0 vacant).logArea lpBase (2 ^ 30) = true) ∧
    Good vacant (.ckptcfg (cmd 0 [lpBase, 2 ^ 30 - 1] [])) (cmd 0 [lpBase, 2 ^ 30 - 1] []) ∧
    (Good base (.logcfg (cmd 0 [lpBase, 2 ^ 21] [])) (cmd 0 [lpBase, 2 ^ 21] [])) ∧
    (Good vacant (.logcfg (cmd 0 [lpBase, 2 ^ 21] [])) (cmd 0 [lpBase, 2 ^ 21] []) ∧ areaFree vacant vacant.ckArea lpBase (2 ^ 21) = true) ∧
    (Good vacant (.logcfg (cmd 0 [lpBase, 2 ^ 20] [])) (cmd 0 [lpBase, 2 ^ 20] []) ∧ 2 ^ 20 % 2 ^ 21 ≠ 0) ∧
    (Good (baseI 0 bare) (.ckpt (cmd 0 [1, 0] [])) (cmd 0 [1, 0] []) ∧ (baseI 0 bare).ckArea ≠ none ∧
      ∀ p, p < 16 → partOk ((baseI 0 bare).part p) [0] 0 ((baseI 0 bare).inPart p) (fun _ => true) = true) ∧
    (Good (baseI 0 base) (.ckpt (cmd 0 [1, 0] [])) (cmd 0 [1, 0] []) ∧
      partOk ((baseI 0 base).part 0) [0] 0 ((baseI 0 base).inPart 0) (fun _ => true) = false) ∧
    (Good (baseI 0 base) (.restore (cmd 0 [0, 0] [])) (cmd 0 [0, 0] []) ∧ Good (baseI 0 base) (.replay (cmd 0 [0, 0] [])) (cmd 0 [0, 0] []) ∧
      (baseI 0 base).loaded = true ∧ (baseI 0 base).frozen = false) ∧
    (Good iced (.restore (cmd 0 [0, 0] [])) (cmd 0 [0, 0] []) ∧ iced.loaded = true ∧ field (iced.readP lpBase 64) 4 1 = 2) ∧
    (Good (baseI 1 vacant) (.restore (cmd 0 [0, 0] [])) (cmd 0 [0, 0] []) ∧ (field ((baseI 1 vacant).readP lpBase 64) 5 1).testBit 0 = true) ∧
    (Good (baseI 0 vacant) (.restore (cmd 0 [0, 0] [])) (cmd 0 [0, 0] []) ∧ Good (baseI 0 vacant) (.replay (cmd 0 [0, 0] [])) (cmd 0 [0, 0] []) ∧
      (baseI 0 vacant).loaded = false ∧ field ((baseI 0 vacant).readP lpBase 64) 4 1 = 2 ∧
      (field ((baseI 0 vacant).readP lpBase 64) 5 1).testBit 0 = false ∧ inLp lpBase 64 = true ∧
      (∃ m, (baseI 0 vacant).logAll.find? (fun r => r.ltype == 6 && r.tag.toNat == field ((baseI 0 vacant).readP lpBase 64) 8 8) = some m) ∧
      (({ baseI 0 vacant with logArea := none } : State).logAll.find? (fun r => r.ltype == 6 && r.tag.toNat == 5) = none)) := by
  obtain ⟨m, hm, _⟩ := someAnd (r := (baseI 0 vacant).logAll.find? (fun r => r.ltype == 6 && r.tag.toNat ==
    field ((baseI 0 vacant).readP lpBase 64) 8 8)) (fun _ => true) (by decide +kernel)
  exact ⟨⟨good rfl (by decide +kernel), by decide +kernel⟩, ⟨good rfl (by decide +kernel), by decide +kernel⟩, good rfl (by decide +kernel),
    good rfl (by decide +kernel), ⟨good rfl (by decide +kernel), by decide +kernel⟩, ⟨good rfl (by decide +kernel), by decide⟩,
    ⟨good rfl (by decide +kernel), by decide +kernel, by decide +kernel⟩, ⟨good rfl (by decide +kernel), by decide +kernel⟩,
    ⟨good rfl (by decide +kernel), good rfl (by decide +kernel), by decide +kernel⟩, ⟨good rfl (by decide +kernel), by decide +kernel⟩,
    ⟨good rfl (by decide +kernel), by decide +kernel⟩,
    good rfl (by decide +kernel), good rfl (by decide +kernel), by decide +kernel, by decide +kernel, by decide +kernel, by decide,
    ⟨m, hm⟩, by decide +kernel⟩

/-- The module with a core long at GFLOOR and one that was told of, and one with a unit to be replaced, told of it or not. -/
def slow : State := { base with
  time := 2000000#64
  cores := [(0, { Core.reset with floorAt := some 5 }), (1, { Core.reset with floorAt := some floorTold })] }
def worn (kind unit : Nat) (told : Option Nat) (spent : Nat) : State :=
  { base with retiring := [⟨kind, unit, 3, false, 4000, told⟩], spent := List.replicate spent (kind, poolOf kind unit) }

theorem wit_Monitors : base.replay = none ∧ base.cores.filter (Held base) = [] ∧ slow.cores.filter (Held slow) ≠ [] ∧
    (slow.cores.filter (Stands slow)).length = 2 ∧
    Sys2Proof.Machine.reaches (Sensor.warnAt (.coreDrift 3)) (-2000) = true ∧
    Sys2Proof.Machine.reaches (Sensor.warnAt (.coreDrift 3)) 1999 = false ∧
    Sys2Proof.Machine.reaches (Sensor.replaceAt (.bankDrift 3 63)) 4000 = true ∧
    Sys2Proof.Machine.reaches (Sensor.replaceAt (.bankDrift 3 63)) 3999 = false ∧
    Sensor.unit? (.coreDrift 3) = some (1, 3, 0) ∧ Sensor.unit? (.bankDrift 3 63) = some (2, 3, 63) ∧
    Sensor.fitted (.coreDrift 3) = true ∧ Sensor.fitted (.bankDrift 3 63) = true ∧ Sensor.fitted (.bankDrift 3 64) = false ∧
    base.warned (.coreDrift 3) = false ∧ ({ base with samples := [(.coreDrift 3, 2500)] } : State).warned (.coreDrift 3) = true ∧
    ({ base with samples := [(.bankDrift 3 62, 2500)] } : State).warned (.bankDrift 3 63) = false := by decide +kernel

/-- Core 8 has failed in a cluster that is busy. -/
def lost : Retire := ⟨1, 8, 0, true, 0, none⟩

theorem wit_MonitorsAndSpares : base.retiring = [] ∧
    (∀ told spent, (worn 1 8 told spent).retiring = [] ++ ⟨1, 8, 3, false, 4000, told⟩ :: []) ∧
    (HasSpare (worn 1 8 none 0) ⟨1, 8, 3, false, 4000, none⟩ ∧ ¬ Busy (worn 1 8 none 0) 1 8) ∧
    (HasSpare (worn 1 0 none 0) ⟨1, 0, 3, false, 4000, none⟩ ∧ Busy (worn 1 0 none 0) 1 0) ∧
    (¬ HasSpare (worn 1 8 none 1) ⟨1, 8, 3, false, 4000, none⟩ ∧ (worn 1 8 (some 5) 1).time.toNat < 5 + 3600000000000 ∧
      HasSpare (worn 1 8 none 1) lost) ∧
    (SpareLeft (base.loseUnit 1 8) 1 8 ∧ ¬ Busy (base.loseUnit 1 8) 1 8 ∧ lost ∉ (base.loseUnit 1 8).retiring) ∧
    (let s := base.setMe { strand0 with core := 1 }; SpareLeft (s.loseUnit 1 0) 1 0 ∧ Busy (s.loseUnit 1 0) 1 0) ∧
    (let s := { base with retiring := [lost] }; lost ∈ (s.loseUnit 1 8).retiring ∧ ¬ SpareLeft (s.loseUnit 1 9) 1 9) ∧
    (¬ SpareLeft ((worn 1 8 none 1).loseUnit 1 8) 1 8 ∧ ((worn 1 8 none 1).loseUnit 1 8).ckArea = none ∧
      ((baseI 0 (worn 1 8 none 1)).loseUnit 1 8).ckArea ≠ none ∧ affected base 1 0 = [g0] ∧
      base.launch? g0.launch = some launch0) := by
  unfold HasSpare SpareLeft Busy
  exact ⟨rfl, fun _ _ => rfl, by decide +kernel⟩

/-- A checkpoint asked for, and one under way. -/
def askedCk : State := { baseI 0 base with ckAsked := [(0, true)] }
def runCk (flags : Nat) : State := { baseI 0 base with ckRun := some ⟨0#64, true, flags⟩, logArea := none }

theorem wit_Checkpoints : (askedCk.ckAsked.find? (fun x => x.1 ≤ askedCk.time.toNat) = some (0, true) ∧ askedCk.ckRun = none ∧
      askedCk.boot = .up ∧ askedCk.ckArea = some (lpBase, 2 ^ 30) ∧ askedCk.noSpare = false ∧ askedCk.trigger = none ∧
      (∀ t ∈ askedCk.all, t.resident = true → t.awaiting = false ∧ t.mqueue = [] ∧ t.pending = []) ∧ (askedCk.all.map (·.id)).Nodup) ∧
    ((runCk 0).ckRun = some ⟨0#64, true, 0⟩ ∧ (runCk 0).ckArea = some (lpBase, 2 ^ 30) ∧ inLp lpBase (2 ^ 30) = true ∧
      (runCk 0).logArea = none ∧ (runCk 0).replay = none ∧ (runCk 0).dirtyArmed = false ∧ (runCk 0).ckSeq + 1 < 2 ^ 64) ∧
    ((runCk downAfter).ckRun = some ⟨0#64, true, downAfter⟩ ∧ (runCk 4).ckRun = some ⟨0#64, true, 4⟩ ∧ 4 < downAfter ∧
      (4 : Nat).testBit 2 = true ∧ (runCk 4).held = false) ∧
    (base.boot = .up ∧ base.replay = none ∧ base.ckRun = none ∧ base.ckArea = none ∧ (baseI 0 base).ckRun = none ∧
      (baseI 0 base).ckArea ≠ none) ∧
    (let s := (baseI 0 base).setMe { strand0 with awaiting := true }
     (∃ t ∈ s.all, t.resident = true ∧ t.awaiting = true) ∧ (s.all.map (·.id)).Nodup) ∧
    ({ baseI 0 base with trigger := some 2 } : State).trigger = some 2 := by decide +kernel

theorem wit_Boot : State.reset.boot = .waiting ∧ State.reset.noSpare = false ∧ ({ base with boot := .down } : State).boot = .down ∧ base.boot = .up := by
  decide +kernel

end Sys2Proof.Tests
end

section
/-! PROOFS. What the frames of the statements admit, said once for the strand's updates and for the ways in which a scalar
instruction completes. -/

namespace Sys2Proof.Machine

open Sys2Proof.Claims

/-! ### Updates of a strand as records -/

/-- A write of an x register changes the x registers alone. -/
theorem Strand.setX_eq (st : Strand) (d : XReg) (v : Word) : st.setX d v = { st with x := (st.setX d v).x } := by
  unfold Strand.setX; split <;> rfl

/-- What a write of an x register gives to a read of the same one: x0 stays zero (R189). -/
theorem Strand.getX_setX_self (st : Strand) (d : XReg) (v : Word) :
    (st.setX d v).getX d = if d = 0 then 0#64 else v := by
  rw [Strand.getX_setX]
  by_cases h : d = 0
  · subst h; simp
  · simp [h]

/-- What a rounding draws changes RNGCTR alone (R129). -/
theorem Strand.advance_eq (st : Strand) (r : Rnd) (n : Nat) :
    st.advance r n = { st with rngCtr := (st.advance r n).rngCtr } := by
  unfold Strand.advance; split <;> rfl

/-! ### Frames -/

theorem sameModule_setMe (s : State) (st : Strand) : sameModule s (s.setMe st) := rfl

theorem OnlyX_setX_retire (st : Strand) (d : XReg) (v : Word) (n : Nat) : OnlyX d st ((st.setX d v).retire n) where
  x _ h := by rw [Strand.getX_retire, Strand.getX_setX_other _ _ _ _ h]
  rest := by rw [Strand.setX_eq]; rfl

/-- An instruction that is `writeX` writes its value to x[d] and goes on, and nothing else changes. -/
theorem writesX_of_exec {i : Instr} {s : State} {d : XReg} {v : Word} (h : exec i s = .next (s.writeX d v)) :
    WritesX i s d v :=
  ⟨_, h, Strand.getX_setX_self _ _ _, congrArg (· + 8#64) (Strand.setX_pc _ _ _), OnlyX_setX_retire _ _ _ _,
    sameModule_setMe _ _⟩

end Sys2Proof.Machine
end

section
/-! PROOFS. O8: the integer and immediate instructions (R198 to R201). The model computes on integers and natural numbers
what the statement says of bit vectors, so each value function gets its bit vector form once. -/

namespace Sys2Proof.Machine

open Sys2Proof.Claims

/-! ### The values as operations of bit vectors -/

theorem valMul_eq (a b : Word) : valMul a b = BitVec.ofNat 64 (a.toNat * b.toNat) := by
  apply BitVec.eq_of_toNat_eq
  simp [valMul]

theorem valMulh_eq (a b : Word) :
    valMulh a b = ((a.signExtend 128 * b.signExtend 128) >>> 64).setWidth 64 := by
  have hp : a.signExtend 128 * b.signExtend 128 = BitVec.ofInt 128 (a.toInt * b.toInt) := by
    rw [BitVec.ofInt_mul]
    rfl
  rw [hp, valMulh]
  generalize a.toInt * b.toInt = p
  apply BitVec.eq_of_toNat_eq
  simp only [BitVec.toNat_ofInt, BitVec.toNat_setWidth, BitVec.toNat_ushiftRight, Nat.shiftRight_eq_div_pow]
  omega

theorem valMulhu_eq (a b : Word) :
    valMulhu a b = ((a.setWidth 128 * b.setWidth 128) >>> 64).setWidth 64 := by
  have hlt : a.toNat * b.toNat < 2 ^ 64 * 2 ^ 64 := Nat.mul_lt_mul'' a.isLt b.isLt
  have hp : a.setWidth 128 * b.setWidth 128 = BitVec.ofNat 128 (a.toNat * b.toNat) := by
    rw [BitVec.ofNat_mul, BitVec.ofNat_toNat, BitVec.ofNat_toNat]
  rw [hp, valMulhu]
  apply BitVec.eq_of_toNat_eq
  simp only [BitVec.toNat_ofNat, BitVec.toNat_setWidth, BitVec.toNat_ushiftRight, Nat.shiftRight_eq_div_pow]
  omega

theorem valDiv_eq (a b : Word) : valDiv a b = if b = 0#64 then BitVec.allOnes 64 else a.sdiv b := by
  have hq : BitVec.ofInt 64 (a.toInt.tdiv b.toInt) = a.sdiv b :=
    BitVec.eq_of_toInt_eq (by rw [BitVec.toInt_ofInt, BitVec.toInt_sdiv])
  rw [valDiv, divS, hq]
  rfl

theorem valDivu_eq (a b : Word) : valDivu a b = if b = 0#64 then BitVec.allOnes 64 else a.udiv b := by
  have hq : BitVec.ofNat 64 (a.toNat / b.toNat) = a.udiv b := by
    rw [BitVec.udiv_eq, ← BitVec.toNat_udiv, BitVec.ofNat_toNat, BitVec.setWidth_eq]
  rw [valDivu, divU, hq]
  rfl

theorem valRem_eq (a b : Word) : valRem a b = a.srem b := by
  have hr : BitVec.ofInt 64 (a.toInt.tmod b.toInt) = a.srem b := by
    rw [← BitVec.toInt_srem, BitVec.ofInt_toInt]
  rw [valRem, remS, hr]
  split
  · next hb => rw [hb, BitVec.srem_zero]
  · rfl

theorem valRemu_eq (a b : Word) : valRemu a b = a.umod b := by
  have hr : BitVec.ofNat 64 (a.toNat % b.toNat) = a.umod b := by
    rw [BitVec.umod_eq, ← BitVec.toNat_umod, BitVec.ofNat_toNat, BitVec.setWidth_eq]
  rw [valRemu, remU, hr]
  split
  · next hb => rw [hb, BitVec.umod_eq, BitVec.umod_zero]
  · rfl

/-- A shift count is taken modulo 64: the low six bits. -/
theorem toNat_and_63 (b : Word) : (b &&& 63#64).toNat = b.toNat % 64 := by
  rw [BitVec.toNat_and]
  exact Nat.and_two_pow_sub_one_eq_mod b.toNat 6

theorem valShl_eq (a b : Word) : valShl a b = a <<< (b &&& 63#64) := by
  rw [valShl, BitVec.shiftLeft_eq', toNat_and_63]

theorem valShr_eq (a b : Word) : valShr a b = a >>> (b &&& 63#64) := by
  rw [valShr, BitVec.ushiftRight_eq', toNat_and_63]

theorem valSlt_eq (a b : Word) : valSlt a b = if a.slt b then 1#64 else 0#64 := by
  rw [valSlt, flag, BitVec.slt_eq_decide]

theorem valSltu_eq (a b : Word) : valSltu a b = if a.ult b then 1#64 else 0#64 := rfl

theorem valMin_eq (a b : Word) : valMin a b = if a.slt b then a else b := by
  simp only [valMin, BitVec.slt_iff_toInt_lt]

theorem valMax_eq (a b : Word) : valMax a b = if a.slt b then b else a := by
  simp only [valMax, BitVec.slt_iff_toInt_lt]

/-! ### What the instructions do -/

/-- An instruction of the table of R198 writes the table's value and goes on. Where the table says the value as the model
does, the two are one expression; the other cases, counted in the table's order, have their lemma above. -/
theorem exec_of_intValue {s : State} {i : Instr} {d : XReg} {v : Word} (h : intValue s.me i = some (d, v)) :
    exec i s = .next (s.writeX d v) := by
  unfold intValue at h
  split at h <;> cases h
  case h_3 => rw [← valMul_eq]; rfl
  case h_4 => rw [← valMulh_eq]; rfl
  case h_5 => rw [← valMulhu_eq]; rfl
  case h_6 => rw [← valDiv_eq]; rfl
  case h_7 => rw [← valDivu_eq]; rfl
  case h_8 => rw [← valRem_eq]; rfl
  case h_9 => rw [← valRemu_eq]; rfl
  case h_14 => rw [← valShl_eq]; rfl
  case h_15 => rw [← valShr_eq]; rfl
  case h_17 => rw [← valSlt_eq]; rfl
  case h_18 => rw [← valSltu_eq]; rfl
  case h_19 => rw [← valMin_eq]; rfl
  case h_20 => rw [← valMax_eq]; rfl
  case h_21 => rw [ite_not]; rfl
  all_goals rfl

/-- An instruction of the table of R200 writes the table's value and goes on. -/
theorem exec_of_immValue {s : State} {i : Instr} {d : XReg} {v : Word} (h : immValue s.me i = some (d, v)) :
    exec i s = .next (s.writeX d v) := by
  unfold immValue at h
  split at h <;> cases h
  case h_8 => rw [← valSlt_eq]; rfl
  case h_9 => rw [← valSltu_eq]; rfl
  all_goals rfl

/-! ### Counts of bits -/

theorem clzOf_le (a : Word) : clzOf a ≤ 64 := by
  unfold clzOf
  split <;> omega

theorem log2_toNat_lt {a : Word} (h : a ≠ 0#64) : Nat.log2 a.toNat < 64 := by
  have h0 : a.toNat ≠ 0 := fun e => h (BitVec.eq_of_toNat_eq e)
  exact (Nat.log2_lt h0).mpr a.isLt

/-- Above its leading zeros a word has no bit. -/
theorem toNat_lt_of_clzOf (a : Word) : a.toNat < 2 ^ (64 - clzOf a) := by
  unfold clzOf
  split
  · next h => subst h; decide
  · next h =>
    have hl := log2_toNat_lt h
    have he : 64 - (63 - Nat.log2 a.toNat) = Nat.log2 a.toNat + 1 := by omega
    rw [he]
    exact Nat.lt_log2_self

/-- The bit below the leading zeros is set. -/
theorem getLsbD_clzOf {a : Word} (h : clzOf a < 64) : a.getLsbD (63 - clzOf a) = true := by
  have ha : a ≠ 0#64 := by rintro rfl; exact absurd h (by decide)
  have h0 : a.toNat ≠ 0 := fun e => ha (BitVec.eq_of_toNat_eq e)
  have hl := log2_toNat_lt ha
  have he : 63 - clzOf a = Nat.log2 a.toNat := by rw [clzOf, if_neg ha]; omega
  rw [he]
  exact Nat.testBit_log2 h0

/-- The number of the places at which a condition holds is the sum of its values there. -/
theorem length_filter_eq_sum_toNat (p : Nat → Bool) (l : List Nat) :
    (l.filter p).length = (l.map (fun k => (p k).toNat)).sum := by
  induction l with
  | nil => rfl
  | cons k l ih => cases hk : p k <;> simp [hk, ih, Nat.add_comm]

theorem popcOf_eq (a : Word) : popcOf a = ((List.range 64).map (fun k => (a.getLsbD k).toNat)).sum :=
  length_filter_eq_sum_toNat _ _

end Sys2Proof.Machine

namespace Sys2Proof.Claims

open Sys2Proof.Machine

theorem xRegisters : XRegisters := fun st d r v =>
  ⟨Strand.getX_zero st, Strand.setX_zero st v, fun h => Strand.getX_setX_same st d v h,
    fun h => Strand.getX_setX_other st d r v h, Strand.setX_eq st d v⟩

theorem integerResults : IntegerResults := fun _ _ _ _ h => writesX_of_exec (exec_of_intValue h)

theorem countResults : CountResults := by
  intro s d a
  refine ⟨⟨clzOf (s.me.getX a), writesX_of_exec rfl, clzOf_le _, toNat_lt_of_clzOf _, fun h => getLsbD_clzOf h⟩, ?_⟩
  rw [← popcOf_eq]
  exact writesX_of_exec rfl

theorem immediateResults : ImmediateResults := by
  refine ⟨fun s i d v h => writesX_of_exec (exec_of_immValue h), fun s d v => ?_⟩
  refine ⟨s.setMe ((s.me.setX d v).retire 2), rfl, Strand.getX_setX_self _ _ _, ?_, OnlyX_setX_retire _ _ _ _,
    sameModule_setMe _ _⟩
  rw [State.setMe_me, Strand.retire_pc, Strand.setX_pc]

end Sys2Proof.Claims

namespace Sys2Proof.Proofs

/-- Settles O8: each instruction is a `writeX` of its value (`exec_of_intValue`, `exec_of_immValue`), whose bit vector
form the lemmas `val…_eq` give. -/
theorem integerResults : Obligations.IntegerResults :=
  ⟨Claims.xRegisters, Claims.integerResults, Claims.countResults, Claims.immediateResults⟩

end Sys2Proof.Proofs
end

section
/-! PROOFS. O9: calls and returns (R210, R211, R399, R400). The return stack's own rules are `State.pushRs_ok`,
`State.pushRs_full`, `State.popRs_ok` and `State.popRs_empty`; here come the spill of a push that finds 16 entries and the
reload of a pop that leaves none. -/

namespace Sys2Proof.Machine

open Sys2Proof.Claims

/-! ### The device's own writes (R399) -/

theorem mem_span {a n l : Nat} : l ∈ span a n ↔ a ≤ l ∧ l < a + n := by
  simp only [span, List.mem_map, List.mem_range]
  constructor
  · rintro ⟨k, hk, rfl⟩
    omega
  · intro h
    exact ⟨l - a, by omega, by omega⟩

theorem span_nodup (a n : Nat) : (span a n).Nodup :=
  (List.nodup_range).map (fun _ _ h => Nat.add_left_cancel h)

@[simp] theorem span_length (a n : Nat) : (span a n).length = n := by simp [span]

/-- A write of the device leaves every byte outside its range alone, but for LDIRTY's (R373). -/
theorem State.get_writeP_other (s : State) (a : Nat) (bs : List Byte) (l : Nat) (h : l < a ∨ a + bs.length ≤ l)
    (hd : ∀ b n, s.ckArea = some (b, n) → l ≠ b + 5) : Memory.get (s.writeP a bs).mem l = Memory.get s.mem l :=
  State.get_poke_other _ _ _ _ (fun hl => by have := mem_span.mp hl; omega) hd

/-- What the device writes is read back, where LDIRTY lies outside. -/
theorem State.readP_writeP (s : State) (a : Nat) (bs : List Byte)
    (hd : ∀ b n, s.ckArea = some (b, n) → b + 5 < a ∨ a + bs.length ≤ b + 5) :
    (s.writeP a bs).readP a bs.length = bs := by
  have hput : (span a bs.length).map (Memory.get (Memory.puts s.mem (span a bs.length) bs)) = bs :=
    Memory.get_puts _ _ _ (span_length _ _) (span_nodup _ _)
  rcases s.poke_mem (span a bs.length) bs with e | ⟨b, n, hc, _, _, e⟩
  · unfold State.readP State.bytes State.writeP
    rw [e, hput]
  · unfold State.readP State.bytes State.writeP
    rw [e]
    conv_rhs => rw [← hput]
    refine List.map_congr_left fun l hl => Memory.get_put_other _ _ _ _ ?_
    have := mem_span.mp hl
    have := hd b n hc
    omega

/-! ### The return stack -/

/-- The limit of a push and the statement's count of a handler's own entry say the same (R400). -/
theorem pushLimit_le_iff (st : Strand) (n : Nat) :
    st.pushLimit 4096 ≤ n ↔ 4096 ≤ n + ownHandler st := by
  unfold Strand.pushLimit ownHandler
  split <;> omega

/-- A push that finds 16 entries held first stores the oldest at SPILLRS (R210). -/
theorem State.pushRs_spill {s : State} (v old : Word) (h : ¬ s.me.pushLimit 4096 ≤ s.me.rbase + s.me.rdepth)
    (hl : s.me.rstack.length = 16) (ho : s.me.rstack.getLast? = some old) (hw : s.writable s.me.spillRs 8 = true) :
    s.pushRs v = .ok ((s.writeP s.me.spillRs (toLE 8 old.toNat)).setMe
      { (s.writeP s.me.spillRs (toLE 8 old.toNat)).me with
        rstack := v :: s.me.rstack.dropLast, rdepth := s.me.rdepth + 1, spillRs := s.me.spillRs + 8 }) := by
  unfold State.pushRs
  rw [if_neg h, if_neg (by omega), if_neg (by simp [hw]), ho]
  rfl

/-- A pop of the one entry held, with more below it in memory, reloads the one below SPILLRS (R210). -/
theorem State.popRs_reload {s : State} {a : Word} (hs : s.me.rstack = [a]) (hd : 1 < s.me.rdepth)
    (hr : s.readable (s.me.spillRs - 8) 8 = true) :
    s.popRs = .ok (a, s.setMe { s.me with
      rstack := [BitVec.ofNat 64 (ofLE (s.readP (s.me.spillRs - 8) 8))], rdepth := s.me.rdepth - 1,
      spillRs := s.me.spillRs - 8 }) := by
  have h0 : s.me.rdepth ≠ 0 := by omega
  simp [State.popRs, State.reloadRs, h0, hs, hd, hr]

/-! ### Calls and returns -/

/-- A push that is admitted makes a call: the strand goes on at the target (R211). -/
theorem finish_call {i : Instr} {s t : State} {target : Word} (h : s.pushRs (s.me.pc + 8#64) = .ok t) :
    finish i (s.call target) = .next (t.jump target) := by
  rw [State.call, h]
  rfl

/-- A call that is refused takes the fault of its push. -/
theorem finish_call_flt {i : Instr} {s : State} {target : Word} {f : Flt} {pc : Word}
    (h : s.pushRs (s.me.pc + 8#64) = .error (.flt f pc s)) :
    finish i (s.call target) = .next (s.takeFault f pc 0) := by
  rw [State.call, h]
  rfl

/-- An offset counts words of eight bytes, on either side of the product. -/
theorem exec_jal (s : State) (off : BitVec 36) :
    exec (.jal off) s = finish (.jal off) (s.call (s.me.pc + 8#64 * off.signExtend 64)) := by
  rw [BitVec.mul_comm]
  rfl

theorem exec_jalr (s : State) (a : XReg) (off : BitVec 36) :
    exec (.jalr a off) s = finish (.jalr a off) (s.call (s.me.getX a + 8#64 * off.signExtend 64)) := by
  rw [BitVec.mul_comm]
  rfl

/-- RET pops an entry and goes on there. -/
theorem exec_ret (s : State) : exec .ret s = finish .ret (s.popRs.map (fun r => r.2.jump r.1)) := rfl

theorem exec_ret_ok {s t : State} {a : Word} (h : s.popRs = .ok (a, t)) : exec .ret s = .next (t.jump a) := by
  rw [exec_ret, h]
  rfl

/-- A call with room on the stack: what JAL and JALR share. -/
theorem finish_call_room (i : Instr) (s : State) (target : Word)
    (hn : s.me.rbase + s.me.rdepth + ownHandler s.me < 4096) (hl : s.me.rstack.length < 16) :
    ∃ t, finish i (s.call target) = .next t ∧ t.me.pc = target ∧
      t.me.rstack = (s.me.pc + 8#64) :: s.me.rstack ∧ t.me.rdepth = s.me.rdepth + 1 ∧
      sameRegisters { s.me with rstack := t.me.rstack, rdepth := t.me.rdepth } t.me ∧ sameModule s t := by
  have hlim : s.me.rbase + s.me.rdepth < s.me.pushLimit 4096 := by
    have := pushLimit_le_iff s.me (s.me.rbase + s.me.rdepth)
    omega
  exact ⟨_, finish_call (State.pushRs_ok _ hlim hl), rfl, rfl, rfl, rfl, rfl⟩

/-- A call that finds 16 entries held: the oldest is spilled, and the rest of the module's memory stays. -/
theorem finish_call_spill (i : Instr) (s : State) (target old : Word)
    (hn : s.me.rbase + s.me.rdepth + ownHandler s.me < 4096) (hl : s.me.rstack.length = 16)
    (ho : s.me.rstack.getLast? = some old) (hw : s.writable s.me.spillRs 8 = true) :
    ∃ t, finish i (s.call target) = .next t ∧ t.me.pc = target ∧
      t.me.rstack = (s.me.pc + 8#64) :: s.me.rstack.dropLast ∧
      t.me.spillRs = s.me.spillRs + 8 ∧ t.me.rdepth = s.me.rdepth + 1 ∧ t.me.x = s.me.x ∧
      ((∀ b n, s.ckArea = some (b, n) → b + 5 < s.me.spillRs ∨ s.me.spillRs + 8 ≤ b + 5) →
        t.readP s.me.spillRs 8 = toLE 8 old.toNat) ∧
      (∀ a, a < s.me.spillRs ∨ s.me.spillRs + 8 ≤ a → (∀ b n, s.ckArea = some (b, n) → a ≠ b + 5) →
        Memory.get t.mem a = Memory.get s.mem a) := by
  have hlim : ¬ s.me.pushLimit 4096 ≤ s.me.rbase + s.me.rdepth := by rw [pushLimit_le_iff]; omega
  refine ⟨_, finish_call (State.pushRs_spill _ old hlim hl ho hw), rfl, rfl, rfl, rfl, rfl,
    fun hd => ?_, fun a ha hd => ?_⟩
  · exact State.readP_writeP s s.me.spillRs (toLE 8 old.toNat) hd
  · exact State.get_writeP_other s _ (toLE 8 old.toNat) a ha hd

/-- A call at the limit of depth is class 0x07 DETAIL 0, from the state before it (R210, R400). -/
theorem finish_call_full (i : Instr) (s : State) (target : Word)
    (hn : 4096 ≤ s.me.rbase + s.me.rdepth + ownHandler s.me) :
    finish i (s.call target) = .next (s.takeFault (s.me.flt 0x07 0 (s.me.rbase + s.me.rdepth) 0) s.me.pc 0) :=
  finish_call_flt (State.pushRs_full _ ((pushLimit_le_iff _ _).mpr hn))

/-- JAL and JALR are calls of their targets. -/
theorem exec_call {s : State} {i : Instr} {target : Word}
    (h : (∃ off, i = .jal off ∧ target = s.me.pc + 8#64 * off.signExtend 64) ∨
      (∃ a off, i = .jalr a off ∧ target = s.me.getX a + 8#64 * off.signExtend 64)) :
    exec i s = finish i (s.call target) := by
  rcases h with ⟨off, rfl, rfl⟩ | ⟨a, off, rfl, rfl⟩
  · exact exec_jal s off
  · exact exec_jalr s a off

end Sys2Proof.Machine

namespace Sys2Proof.Claims

open Sys2Proof.Machine

theorem callsAndReturns : CallsAndReturns := by
  refine ⟨fun s off hn hl => ?_, fun s a off hn hl => ?_, fun s a as hs hd hl => ?_⟩
  · rw [exec_jal]
    exact finish_call_room _ _ _ hn hl
  · rw [exec_jalr]
    exact finish_call_room _ _ _ hn hl
  · have hpop := State.popRs_ok hd (by simp [hs])
      (hl.imp (fun ha => by simpa [hs] using ha) id)
    rw [hs] at hpop
    exact ⟨_, exec_ret_ok hpop, rfl, rfl, rfl, rfl, rfl⟩

theorem callSpills : CallSpills := by
  refine ⟨fun s i target old hi => ?_, fun s a hs hd hr => ?_, fun s hd => ?_⟩
  · rw [exec_call hi]
    exact ⟨finish_call_spill i s target old, finish_call_full i s target⟩
  · exact ⟨_, exec_ret_ok (State.popRs_reload hs hd hr), rfl, rfl, rfl, rfl, rfl, rfl⟩
  · rw [exec_ret, State.popRs_empty hd]
    rfl

end Sys2Proof.Claims

namespace Sys2Proof.Proofs

/-- Settles O9: JAL and JALR are calls (`exec_call`) that have room, spill the oldest entry or are refused
(`finish_call_room`, `finish_call_spill`, `finish_call_full`); RET is a pop (`exec_ret`). -/
theorem callsAndReturns : Obligations.CallsAndReturns := ⟨Claims.callsAndReturns, Claims.callSpills⟩

end Sys2Proof.Proofs
end

section
/-! PROOFS. O12: FMIN and FMAX, conversions to x, comparisons, classes and moves (R130, R204 to R208). First the order of
values and what the decoder gives, then how such an instruction completes. -/

namespace Sys2Proof.Machine

open Sys2Proof.Claims

/-! ### The order of values (R130) -/

theorem qlt_iff (a b : Q) : qlt a b = true ↔ 0 < (qadd b (qneg a)).num := by simp [qlt]

/-- The difference of two rationals changes its sign with their order. -/
theorem qadd_qneg_num_comm (a b : Q) : (qadd a (qneg b)).num = -(qadd b (qneg a)).num := by
  by_cases hd : a.den = b.den
  · simp only [qadd, qneg, hd, if_true, Int.min_comm b.exp]
    ring
  · simp only [qadd, qneg, hd, Ne.symm hd, if_false, Int.min_comm b.exp]
    ring

theorem qlt_asymm {a b : Q} (h : qlt a b = true) : qlt b a = false := by
  have hp := (qlt_iff a b).mp h
  have hc := qadd_qneg_num_comm a b
  by_contra hn
  have := (qlt_iff b a).mp (by simpa using hn)
  omega

theorem vlt_asymm : ∀ {a b : Val}, vlt a b = true → vlt b a = false
  | .nan _, _, h => by simp [vlt] at h
  | .inf true, .nan _, _ => rfl
  | .inf true, .inf true, h => by simp [vlt] at h
  | .inf true, .inf false, _ => rfl
  | .inf true, .zero _, _ => rfl
  | .inf true, .fin _, _ => rfl
  | .inf false, .nan _, _ => rfl
  | .inf false, .inf true, h => by simp [vlt] at h
  | .inf false, .inf false, h => by simp [vlt] at h
  | .inf false, .zero _, h => by simp [vlt] at h
  | .inf false, .fin _, h => by simp [vlt] at h
  | .zero _, .nan _, _ => rfl
  | .zero _, .inf true, h => by simp [vlt] at h
  | .zero _, .inf false, _ => rfl
  | .zero _, .zero _, h => qlt_asymm h
  | .zero _, .fin _, h => qlt_asymm h
  | .fin _, .nan _, _ => rfl
  | .fin _, .inf true, h => by simp [vlt] at h
  | .fin _, .inf false, _ => rfl
  | .fin _, .zero _, h => qlt_asymm h
  | .fin _, .fin _, h => qlt_asymm h

theorem vlt_irrefl (a : Val) : vlt a a = false := by
  by_contra h
  have ht : vlt a a = true := by simpa using h
  exact h (vlt_asymm ht)

theorem not_below_self (a : Val) : ¬ below a a := by
  rintro (h | ⟨h1, h2⟩)
  · rw [vlt_irrefl] at h
    cases h
  · rw [h1] at h2
    cases h2

/-- The value that is taken for a minimum has the other not below it. -/
theorem not_below_of_lessNum {a b : Val} (h : lessNum a b = true) : ¬ below b a := by
  rintro (hb | ⟨rfl, rfl⟩)
  · have ha := vlt_asymm hb
    simp [lessNum, veq, ha, hb] at h
  · exact absurd h (by decide)

/-- One that is not taken is not below the other. -/
theorem not_below_of_not_lessNum {a b : Val} (h : lessNum a b = false) : ¬ below a b := by
  rintro (hb | ⟨rfl, rfl⟩)
  · simp [lessNum, hb] at h
  · exact absurd h (by decide)

/-! ### Minimum and maximum (R130, R204) -/

theorem minMax_events (t : ETy) (isMax : Bool) (ca cb : Nat) :
    (minMax t isMax ca cb).2 = evIf (isSnan (decodeVal t ca) || isSnan (decodeVal t cb)) evV := by
  unfold minMax
  dsimp only
  split
  · rfl
  · split <;> rfl

theorem isF_cases {t : ETy} (h : isF t = true) : t = .f64 ∨ t = .f32 ∨ t = .f16 ∨ t = .bf16 := by
  unfold isF at h
  split at h
  · exact .inl rfl
  · exact .inr (.inl rfl)
  · exact .inr (.inr (.inl rfl))
  · exact .inr (.inr (.inr rfl))
  · cases h

/-- The types of class F have a canonical NaN. -/
theorem exists_fmtOf_nan {t : ETy} (h : isF t = true) : ∃ f, fmtOf t = some f ∧ f.nan = some (nanCode t) := by
  rcases isF_cases h with rfl | rfl | rfl | rfl <;> exact ⟨_, rfl, rfl⟩

/-- Of two numbers, the code delivered is the one that `lessNum` takes for a minimum, or the other for a maximum. -/
theorem minMax_of_numbers {t : ETy} {isMax : Bool} {ca cb : Nat} (ha : isNan (decodeVal t ca) = false)
    (hb : isNan (decodeVal t cb) = false) :
    (minMax t isMax ca cb).1 = if lessNum (decodeVal t ca) (decodeVal t cb) != isMax then ca else cb := by
  simp [minMax, ha, hb]

theorem minMaxCode {t : ETy} (h : isF t = true) (isMax : Bool) (ca cb : Nat) :
    MinMaxCode t isMax ca cb (minMax t isMax ca cb).1 := by
  refine ⟨fun ha hb => ?_, fun ha hb => ?_, fun ha hb => ?_, fun ha hb => ?_⟩
  · obtain ⟨f, hf, hn⟩ := exists_fmtOf_nan h
    exact ⟨f, hf, by simp [minMax, ha, hb, hn]⟩
  · simp [minMax, ha, hb]
  · simp [minMax, ha, hb]
  · rw [minMax_of_numbers ha hb]
    cases hl : lessNum (decodeVal t ca) (decodeVal t cb) <;> cases isMax
    case false.false => exact ⟨.inr rfl, fun _ => ⟨not_below_of_not_lessNum hl, not_below_self _⟩, nofun⟩
    case false.true => exact ⟨.inl rfl, nofun, fun _ => ⟨not_below_self _, not_below_of_not_lessNum hl⟩⟩
    case true.false => exact ⟨.inl rfl, fun _ => ⟨not_below_self _, not_below_of_lessNum hl⟩, nofun⟩
    case true.true => exact ⟨.inr rfl, nofun, fun _ => ⟨not_below_of_lessNum hl, not_below_self _⟩⟩

/-! ### Classes (R206) -/

/-- A code of class F is its sign bit and its magnitude. -/
theorem two_pow_sbits {t : ETy} {f : Fmt} (h : isF t = true) (hf : fmtOf t = some f) :
    2 ^ sbits t = fmtSign f * 2 := by
  rcases isF_cases h with rfl | rfl | rfl | rfl <;> cases hf <;> rfl

theorem decodeVal_float {t : ETy} {f : Fmt} (h : isF t = true) (hf : fmtOf t = some f) (c : Nat) :
    decodeVal t c = decodeFmt t f c := by
  rcases isF_cases h with rfl | rfl | rfl | rfl <;> cases hf <;> rfl

/-- Bits above the sign are not looked at. -/
theorem decodeFmt_mod (t : ETy) (f : Fmt) (c : Nat) : decodeFmt t f (c % (fmtSign f * 2)) = decodeFmt t f c := by
  have hm : c % (fmtSign f * 2) % fmtSign f = c % fmtSign f := Nat.mod_mul_right_mod _ _ _
  have hs : c % (fmtSign f * 2) / fmtSign f % 2 = c / fmtSign f % 2 := by
    rw [Nat.mod_mul_right_div_self, Nat.mod_mod]
  simp only [decodeFmt, hm, hs]

/-- The integer significand of a magnitude, as the decoder forms it. -/
def significand (f : Fmt) (mag : Nat) : Int :=
  if mag / 2 ^ f.fbits = 0 then ((mag % 2 ^ f.fbits : Nat) : Int) else (mag % 2 ^ f.fbits : Nat) + 2 ^ f.fbits

theorem significand_zero (f : Fmt) : significand f 0 = 0 := by simp [significand]

theorem significand_pos {f : Fmt} {mag : Nat} (h : mag ≠ 0) : 0 < significand f mag := by
  unfold significand
  have hd := Nat.div_add_mod mag (2 ^ f.fbits)
  split
  · next h0 =>
    rw [h0] at hd
    omega
  · positivity

theorem significand_nonneg (f : Fmt) (mag : Nat) : 0 ≤ significand f mag := by
  by_cases h : mag = 0
  · rw [h, significand_zero]
  · exact (significand_pos h).le

/-- The class of a value that the decoder forms of a sign and a significand: zero, or a number of that sign. -/
theorem classOf_ofQ (neg sub : Bool) (n x : Int) (hn : 0 ≤ n) :
    classOf (ofQ ⟨if neg then -n else n, x, 1⟩ (zsign neg)) sub =
      if n = 0 then (if neg then 3 else 4) else if sub then (if neg then 2 else 5) else (if neg then 1 else 6) := by
  by_cases h0 : n = 0
  · subst h0
    cases neg <;> rfl
  · cases neg
    · have hl : ¬ n < 0 := by omega
      simp [ofQ, classOf, h0, hl]
    · have hl : 0 < n := by omega
      simp [ofQ, classOf, h0, hl]

theorem classBits_eq {t : ETy} {f : Fmt} (hf : fmtOf t = some f) (c : Nat) :
    classBits t c = 2 ^ classOf (decodeFmt t f c) (decide (c % fmtSign f < 2 ^ f.fbits)) := by
  unfold classBits decodeFmt
  rw [hf]
  dsimp only
  generalize c % fmtSign f = mag
  generalize (decide (c / fmtSign f % 2 = 1)) = neg
  by_cases hi : f.inf = some mag
  · rw [if_pos hi, if_pos hi]
    cases neg <;> rfl
  rw [if_neg hi, if_neg hi]
  by_cases hm : f.maxCode < mag
  · rw [if_pos hm, if_pos hm]
    cases nanSignals t f mag <;> rfl
  rw [if_neg hm, if_neg hm]
  change _ = 2 ^ classOf (ofQ ⟨if neg then -significand f mag else significand f mag, _, 1⟩ (zsign neg)) _
  rw [classOf_ofQ _ _ _ _ (significand_nonneg f mag)]
  by_cases h0 : mag = 0
  · rw [if_pos h0, h0, significand_zero, if_pos rfl]
    cases neg <;> rfl
  rw [if_neg h0, if_neg (significand_pos h0).ne']
  by_cases hs : mag < 2 ^ f.fbits
  · rw [if_pos hs, decide_eq_true hs]
    cases neg <;> rfl
  · rw [if_neg hs, decide_eq_false hs]
    cases neg <;> rfl

/-- The class bits of a register are those of the value that it holds under the type. -/
theorem classBits_fval {t : ETy} {f : Fmt} (h : isF t = true) (hf : fmtOf t = some f) (st : Strand) (a : FReg) :
    classBits t (st.getF a).toNat =
      2 ^ classOf (st.fval t a) (decide ((st.getF a).toNat % fmtSign f < 2 ^ f.fbits)) := by
  rw [Strand.fval, decodeVal_float h hf, two_pow_sbits h hf, decodeFmt_mod, classBits_eq hf]

/-! ### Completion with events (R132, R207) -/

@[simp] theorem evUnion_evAt (i : Nat) (e : Ev) : evUnion (evAt i e) = e := by
  unfold evAt
  split
  · next h => rw [h]; rfl
  · simp [evUnion]

/-- An instruction none of whose events is enabled completes: its events join FSTAT and the strand goes on. -/
theorem finish_complete (i : Instr) (s : State) {st : Strand} {evs : Evs} (h : evUnion evs &&& st.ten = 0#7) :
    finish i ((s.setMe st).complete evs) = .next (s.setMe ((st.raise evs).retire 1)) := by
  rw [State.complete_ok (s.setMe st) evs h]
  rfl

theorem OnlyF_setF_raise (st : Strand) (d : FReg) (v : Word) (evs : Evs) :
    OnlyF d st (((st.setF d v).raise evs).retire 1) where
  f _ h := Strand.getF_setF_other st d _ v h
  rest := rfl

/-- A write of an x register, with whatever RNGCTR then holds, and events: the frame of FCVT and FCMP. -/
theorem OnlyXFlags_setX_raise (st : Strand) (d : XReg) (v c : Word) (evs : Evs) :
    OnlyXFlags d st ((({ st.setX d v with rngCtr := c } : Strand).raise evs).retire 1) where
  x _ h := Strand.getX_setX_other st d _ v h
  rest := by rw [Strand.setX_eq]; rfl

/-! ### What the instructions do -/

/-- An event that is not raised, or whose trap is off, calls for no trap. -/
theorem evIf_and_eq_zero {c : Bool} {e ten : Ev} (h : c = false ∨ ten &&& e = 0#7) : evIf c e &&& ten = 0#7 := by
  rcases h with rfl | h
  · exact BitVec.zero_and
  · cases c
    · exact BitVec.zero_and
    · rwa [BitVec.and_comm] at h

theorem setWidth_evIf (c : Bool) (e : Ev) : (evIf c e).setWidth 32 = if c then e.setWidth 32 else 0#32 := by
  cases c <;> rfl

/-- FMIN and FMAX with their events written out. -/
theorem State.floatMin_eq (s : State) (d a b : FReg) (ty : ETy) (isMax : Bool) :
    s.floatMin d a b ty isMax = (s.setMe (s.me.setF d (BitVec.ofNat 64
      (minMax ty isMax ((s.me.getF a).toNat % 2 ^ sbits ty) ((s.me.getF b).toNat % 2 ^ sbits ty)).1))).complete
        (evAt 0 (evIf (isSnan (s.me.fval ty a) || isSnan (s.me.fval ty b)) evV)) :=
  congrArg (fun e => (s.setMe _).complete (evAt 0 e)) (minMax_events _ _ _ _)

/-- FMIN and FMAX deliver the code of `minMax`, with V for a signalling NaN (R204). -/
theorem deliversF_floatMin {i : Instr} {s : State} {d a b : FReg} {ty : ETy} {isMax : Bool}
    (he : exec i s = finish i (s.floatMin d a b ty isMax))
    (h : (isSnan (s.me.fval ty a) || isSnan (s.me.fval ty b)) = false ∨ s.me.ten &&& evV = 0#7) :
    DeliversF i s d
      (minMax ty isMax ((s.me.getF a).toNat % 2 ^ sbits ty) ((s.me.getF b).toNat % 2 ^ sbits ty)).1
      (isSnan (s.me.fval ty a) || isSnan (s.me.fval ty b)) := by
  rw [State.floatMin_eq] at he
  refine ⟨_, he.trans (finish_complete _ _ ?_), Strand.getF_setF_same _ _ _, ?_, rfl, rfl,
    OnlyF_setF_raise _ _ _ _, rfl⟩
  · rw [evUnion_evAt]
    exact evIf_and_eq_zero h
  · rw [← setWidth_evIf, State.setMe_me, Strand.retire_fstat, Strand.raise_fstat, evUnion_evAt]
    rfl

/-- FCVT to an x register rounds the operand's value and writes it (R205). -/
theorem exec_fcvt_x (s : State) (d a : Fin 32) (src : ETy) (m : FMod) :
    exec (.fcvt d a src 2 m) s = finish (.fcvt d a src 2 m)
      ((s.setMe ((s.me.setX d (intWord m.ty (floatCode s.me m (.val (s.me.fval src a))).1)).advance m.rnd 1)).complete
        (evAt 0 (floatCode s.me m (.val (s.me.fval src a))).2)) := rfl

/-- An instruction that writes an x register and raises events, none enabled. -/
theorem finish_setX_complete (i : Instr) (s : State) (d : XReg) (v c : Word) (e : Ev) (h : e &&& s.me.ten = 0#7) :
    ∃ t, finish i ((s.setMe { s.me.setX d v with rngCtr := c }).complete (evAt 0 e)) = .next t ∧
      (d ≠ 0 → t.me.getX d = v) ∧ t.me.fstat = s.me.fstat ||| e.setWidth 32 ∧ t.me.pc = s.me.pc + 8#64 ∧
      OnlyXFlags d s.me t.me ∧ sameModule s t := by
  have hfstat : ({ s.me.setX d v with rngCtr := c } : Strand).fstat = s.me.fstat := Strand.setX_fstat _ _ _
  refine ⟨_, finish_complete _ _ ?_, fun hd => Strand.getX_setX_same _ _ _ hd, ?_, ?_,
    OnlyXFlags_setX_raise _ _ _ _ _, rfl⟩
  · rw [evUnion_evAt, Strand.ten, hfstat]
    exact h
  · rw [State.setMe_me, Strand.retire_fstat, Strand.raise_fstat, evUnion_evAt, hfstat]
  · exact congrArg (· + 8#64) (Strand.setX_pc _ _ _)

end Sys2Proof.Machine

namespace Sys2Proof.Claims

open Sys2Proof.Machine

theorem floatMinMax : FloatMinMax := fun _ _ _ _ _ hty h =>
  ⟨⟨_, deliversF_floatMin rfl h, minMaxCode hty _ _ _⟩, ⟨_, deliversF_floatMin rfl h, minMaxCode hty _ _ _⟩⟩

theorem floatToInteger : FloatToInteger := by
  refine ⟨fun s d a src m h => ?_, fun s d rel a b ty h => ?_⟩
  · rw [exec_fcvt_x, Strand.advance_eq]
    exact finish_setX_complete _ s d _ _ _ h
  · exact finish_setX_complete _ s d _ (s.me.setX d _).rngCtr _ h

theorem floatMoves : FloatMoves := by
  refine fun s ty hty => ⟨fun d a f hf => ?_, fun d a => writesX_of_exec rfl, fun d a => ?_⟩
  · rw [← classBits_fval hty hf]
    exact writesX_of_exec rfl
  · exact ⟨_, rfl, Strand.getF_setF_same _ _ _, rfl, rfl, ⟨fun _ h => Strand.getF_setF_other _ _ _ _ h, rfl⟩, rfl⟩

end Sys2Proof.Claims

namespace Sys2Proof.Proofs

/-- Settles O12: FMIN and FMAX take by `lessNum`, which orders as R130 does (`minMaxCode`); FCVT and FCMP write x[d] with
their events (`finish_setX_complete`); the class bits are those of the decoded value (`classBits_fval`). -/
theorem floatComparesAndMoves : Obligations.FloatComparesAndMoves :=
  ⟨Claims.floatMinMax, Claims.floatToInteger, Claims.floatMoves⟩

end Sys2Proof.Proofs
end

section
/-! PROOFS. O18: the bound instructions and the aperture conversions (R71, R217 to R219). -/

namespace Sys2Proof.Machine

open Sys2Proof.Claims

/-! ### Bound registers (R217, R218) -/

/-- An instruction that is `writeB` writes its bound register and goes on, and nothing else changes. -/
theorem writesB_of_exec {i : Instr} {s : State} {d : BRegNo} {v : Bound} (h : exec i s = .next (s.writeB d v)) :
    WritesB i s d v :=
  ⟨_, h, Strand.getB_setB_same _ _ _, fun _ hr => Strand.getB_setB_other _ _ _ _ hr, rfl, rfl, rfl⟩

theorem exec_bld {s : State} {n : BitVec 16} {b : Bind} (d : BRegNo)
    (h : ((s.objOf.map (·.binds)).getD [])[n.toNat]? = some b) : exec (.bld d n) s = .next (s.writeB d b.minted) := by
  show execBld d n s = _
  unfold execBld
  dsimp only
  rw [h]
  rfl

/-- BLD of an entry that is absent is class 0x0A (R396). -/
theorem exec_bld_absent {s : State} {n : BitVec 16} (d : BRegNo)
    (h : ((s.objOf.map (·.binds)).getD []).length ≤ n.toNat) :
    exec (.bld d n) s = .next (s.takeFault
      (s.me.flt 0x0A 0 n.toNat ((s.objOf.map (·.binds)).getD []).length) s.me.pc 0) := by
  show execBld d n s = _
  unfold execBld
  dsimp only
  rw [List.getElem?_eq_none h]
  rfl

/-- BNARROW checks the offset, then the length, against the source's range (R218). -/
theorem exec_bnarrow (s : State) (d a : BRegNo) (b c : XReg) :
    exec (.bnarrow d a b c) s = finish (.bnarrow d a b c) (do
      s.guard ((s.me.getB a).len.toNat < (s.me.getX b).toNat) 0x84 4 (s.me.getX b).toNat 0
      s.guard ((s.me.getB a).len.toNat - (s.me.getX b).toNat < (s.me.getX c).toNat) 0x84 4 (s.me.getX c).toNat 0
      .ok (s.writeB d ⟨(s.me.getB a).base + s.me.getX b, (s.me.getB a).base + s.me.getX b, s.me.getX c,
        (s.me.getB a).perm⟩)) := rfl

/-! ### Apertures (R71, R219) -/

theorem bitsOf_top {a : Nat} (h : a < 2 ^ 64) : bitsOf a 63 56 = a / 2 ^ 56 := by
  unfold bitsOf
  omega

/-- The model's test of the bits that must be zero is the statement's. -/
theorem apZero_iff (ap a : Nat) : apZero ap a = true ↔ ApZero ap a := by
  unfold apZero ApZero bitsOf
  split
  · next h => subst h; simp; omega
  · split
    · next h => subst h; simp; omega
    · split
      · next h => subst h; simp; omega
      · simp [*]

/-- When ACVT has an offset to give. -/
theorem toOffset_iff {a : Nat} (h : a < 2 ^ 64) (ap : Nat) :
    (bitsOf a 63 56 = ap ∧ apZero ap a = true) ↔ (a / 2 ^ 56 = ap ∧ ApZero ap a) := by
  rw [bitsOf_top h, apZero_iff]

/-- When ACVT has an address to give. -/
theorem toGeneric_iff {a : Nat} (h : a < 2 ^ 64) (ap : Nat) :
    (bitsOf a 63 56 = 0 ∧ apZero ap a = true ∧ (ap = 0xF2 → bitsOf a 55 48 < 16)) ↔
      (a < 2 ^ 56 ∧ ApZero ap a ∧ (ap = 0xF2 → a / 2 ^ 48 < 16)) := by
  rw [bitsOf_top h, apZero_iff, bitsOf]
  constructor
  · rintro ⟨h0, hz, hk⟩
    exact ⟨by omega, hz, fun e => by have := hk e; omega⟩
  · rintro ⟨h0, hz, hk⟩
    exact ⟨by omega, hz, fun e => by have := hk e; omega⟩

theorem acvtVal_offset {ap a : Nat} (h : a < 2 ^ 64) (hc : a / 2 ^ 56 = ap ∧ ApZero ap a) :
    acvtVal ap false a = BitVec.ofNat 64 (a % 2 ^ 56) := by
  rw [acvtVal, if_neg Bool.false_ne_true, if_pos ((toOffset_iff h ap).mpr hc), bitsOf, pow_zero, Nat.div_one]

theorem acvtVal_no_offset {ap a : Nat} (h : a < 2 ^ 64) (hc : ¬ (a / 2 ^ 56 = ap ∧ ApZero ap a)) :
    acvtVal ap false a = BitVec.allOnes 64 := by
  rw [acvtVal, if_neg Bool.false_ne_true, if_neg (fun k => hc ((toOffset_iff h ap).mp k))]
  rfl

theorem acvtVal_generic {ap a : Nat} (h : a < 2 ^ 64)
    (hc : a < 2 ^ 56 ∧ ApZero ap a ∧ (ap = 0xF2 → a / 2 ^ 48 < 16)) :
    acvtVal ap true a = BitVec.ofNat 64 (ap * 2 ^ 56 + a) := by
  rw [acvtVal, if_pos rfl, if_pos ((toGeneric_iff h ap).mpr hc)]

theorem acvtVal_no_generic {ap a : Nat} (h : a < 2 ^ 64)
    (hc : ¬ (a < 2 ^ 56 ∧ ApZero ap a ∧ (ap = 0xF2 → a / 2 ^ 48 < 16))) :
    acvtVal ap true a = BitVec.allOnes 64 := by
  rw [acvtVal, if_pos rfl, if_neg (fun k => hc ((toGeneric_iff h ap).mp k))]
  rfl

/-- An address of R71 has the zero bits of its aperture, and in the cluster aperture the number of a cluster. -/
theorem apertureOf_ne_none {ap a : Nat} (h : a / 2 ^ 56 = ap) (ha : apertureOf a ≠ none) :
    ApZero ap a ∧ (ap = 0xF2 → a % 2 ^ 56 / 2 ^ 48 < 16) := by
  unfold apertureOf bitsOf at ha
  rw [h] at ha
  unfold ApZero
  split at ha
  · omega
  · split at ha
    · have hz := (ite_ne_right_iff.mp ha).1
      omega
    · split at ha
      · have hz := (ite_ne_right_iff.mp ha).1
        omega
      · split at ha
        · have hz := (ite_ne_right_iff.mp ha).1
          simp only [Bool.and_eq_true, decide_eq_true_eq] at hz
          omega
        · exact absurd rfl ha

/-- An offset has the zero bits that its address has. -/
theorem ApZero_offset {ap a : Nat} (h : ApZero ap a) : ApZero ap (a % 2 ^ 56) := by
  unfold ApZero at *
  omega

/-- To an offset and back gives the same address, in every aperture (R219). -/
theorem acvtVal_acvtVal {ap : Nat} {a : Word} (h : a.toNat / 2 ^ 56 = ap) (ha : apertureOf a.toNat ≠ none) :
    acvtVal ap true (acvtVal ap false a.toNat).toNat = a := by
  obtain ⟨hz, hk⟩ := apertureOf_ne_none h ha
  have hlt := a.isLt
  have hoff : (acvtVal ap false a.toNat).toNat = a.toNat % 2 ^ 56 := by
    rw [acvtVal_offset hlt ⟨h, hz⟩, BitVec.toNat_ofNat]
    omega
  rw [hoff, acvtVal_generic (by omega) ⟨by omega, ApZero_offset hz, hk⟩]
  apply BitVec.eq_of_toNat_eq
  rw [BitVec.toNat_ofNat]
  omega

/-- ATEST holds of an address whose code is the one asked for; code 0xFF asks for none (R219). -/
theorem atestVal_iff (ap : BitVec 8) (a : Word) :
    atestVal ap.toNat a.toNat = true ↔
      apertureOf a.toNat ≠ none ∧ (ap = 0xFF#8 ∨ a.toNat / 2 ^ 56 = ap.toNat) := by
  unfold atestVal
  rw [bitsOf_top a.isLt]
  cases apertureOf a.toNat with
  | none => simp
  | some _ => simp [BitVec.toNat_eq]

end Sys2Proof.Machine

namespace Sys2Proof.Claims

open Sys2Proof.Machine

theorem boundRegisters : BoundRegisters := by
  refine ⟨fun s d n b h => writesB_of_exec (exec_bld d h), fun s d a b c hb hc => ?_, fun _ _ _ => writesB_of_exec rfl,
    fun s d a mask => ⟨_, writesB_of_exec rfl, rfl, fun k => ?_⟩, fun _ _ _ => writesX_of_exec rfl⟩
  · refine writesB_of_exec ?_
    rw [exec_bnarrow, decide_eq_false (by omega), decide_eq_false (by omega)]
    rfl
  · show ((s.me.getB a).perm &&& ~~~(mask.setWidth 16)).getLsbD k = _
    rw [BitVec.getLsbD_and, BitVec.getLsbD_not, BitVec.getLsbD_setWidth]
    by_cases hk : k < 16
    · simp [hk]
    · rw [BitVec.getLsbD_of_ge _ _ (by omega)]
      rfl

theorem boundFaults : BoundFaults := by
  refine ⟨fun s d a b c h => ?_, fun s d a b c hb hc => ?_, fun s d n h => exec_bld_absent d h⟩
  · rw [exec_bnarrow, decide_eq_true h]
    rfl
  · rw [exec_bnarrow, decide_eq_false (by omega), decide_eq_true hc]
    rfl

theorem apertureConversions : ApertureConversions := by
  refine ⟨fun s d a ap x hx _ => ?_, fun ap a _ h ha => acvtVal_acvtVal h ha, fun s d a ap => ?_⟩
  · have hlt : x < 2 ^ 64 := hx ▸ (s.me.getX a).isLt
    have he : ∀ dir v, acvtVal ap.toNat dir x = v → WritesX (.acvt d a ap dir) s d v := by
      rintro dir _ rfl
      exact writesX_of_exec (by rw [hx]; rfl)
    have hf2 : (ap = 0xF2#8 → x / 2 ^ 48 < 16) ↔ (ap.toNat = 0xF2 → x / 2 ^ 48 < 16) := by
      rw [BitVec.toNat_eq]
      rfl
    rw [hf2]
    exact ⟨fun hc hz => he _ _ (acvtVal_offset hlt ⟨hc, hz⟩), fun hc => he _ _ (acvtVal_no_offset hlt hc),
      fun hu hz hk => he _ _ (acvtVal_generic hlt ⟨hu, hz, hk⟩), fun hc => he _ _ (acvtVal_no_generic hlt hc)⟩
  · refine writesX_of_exec ?_
    show Host.Outcome.next (s.writeX d (flag (atestVal ap.toNat (s.me.getX a).toNat))) = _
    simp only [flag, atestVal_iff]

end Sys2Proof.Claims

namespace Sys2Proof.Proofs

/-- Settles O18: the bound instructions are `writeB` of their values or stop at their checks (`exec_bld`,
`exec_bnarrow`); ACVT's and ATEST's conditions are R71's (`toOffset_iff`, `toGeneric_iff`, `atestVal_iff`). -/
theorem boundInstructions : Obligations.BoundInstructions :=
  ⟨Claims.boundRegisters, Claims.boundFaults, Claims.apertureConversions⟩

end Sys2Proof.Proofs
end

section
/-! PROOFS. O19: the system registers (R193, R257, R439). What a write changes is said once for `Strand.writeSys`, as a
read of the same register and of every other one. -/

namespace Sys2Proof.Machine

open Sys2Proof.Claims

/-! ### Reads after updates -/

/-- That the strand goes on is seen by no system register. -/
theorem State.readSys_retire (s : State) (st : Strand) (n : Nat) (q : SysReg) :
    (s.setMe (st.retire n)).readSys q = (s.setMe st).readSys q := by
  cases q <;> rfl

/-- A write of an x register is seen by no system register. -/
theorem State.readSys_setX (s : State) (d : XReg) (v : Word) (q : SysReg) :
    (s.setMe (s.me.setX d v)).readSys q = s.readSys q := by
  rw [Strand.setX_eq]
  cases q <;> rfl

/-- FSTAT and TAU keep the low 32 bits of a value, and read as them. -/
theorem setWidth_32_64 (v : Word) : (v.setWidth 32).setWidth 64 = v &&& 0xFFFFFFFF#64 := by
  have h : (v &&& 0xFFFFFFFF#64).toNat = v.toNat % 2 ^ 32 :=
    (BitVec.toNat_and _ _).trans (Nat.and_two_pow_sub_one_eq_mod v.toNat 32)
  apply BitVec.eq_of_toNat_eq
  rw [h, BitVec.toNat_setWidth, BitVec.toNat_setWidth]
  omega

theorem evOf_evIndex (c : EvClass) : evOf (evIndex c).val = c := by cases c <;> rfl

theorem evIndex_injective : Function.Injective evIndex :=
  Function.LeftInverse.injective (g := fun i : Fin 6 => evOf i.val) evOf_evIndex

/-- A register that WRSR writes then reads as what it holds of the value; one marked RO reads as before (R193). -/
theorem State.readSys_writeSys_same (s : State) (st : Strand) (r : SysReg) (v : Word) :
    (s.setMe (st.writeSys r v)).readSys r = if Claims.writable r then sysHeld r v else (s.setMe st).readSys r := by
  cases r with
  | fstat => exact setWidth_32_64 v
  | tau => exact setWidth_32_64 v
  | fidxA c => simp [State.readSys, Strand.writeSys, Claims.writable, sysHeld]
  | fidxE c => simp [State.readSys, Strand.writeSys, Claims.writable, sysHeld]
  | _ => rfl

/-- The two halves of a FIDX pair are registers of their own, as are the pairs of different classes. -/
theorem getElem_fidx_set_fst (fx : Vector (Word × Word) 6) (v : Word) (i j : Fin 6) :
    (fx.set i (v, fx[i].2))[j].2 = fx[j].2 := by
  by_cases h : i = j
  · subst h; simp
  · simp [Vector.getElem_set_ne, Fin.val_ne_of_ne h]

theorem getElem_fidx_set_snd (fx : Vector (Word × Word) 6) (v : Word) (i j : Fin 6) :
    (fx.set i (fx[i].1, v))[j].1 = fx[j].1 := by
  by_cases h : i = j
  · subst h; simp
  · simp [Vector.getElem_set_ne, Fin.val_ne_of_ne h]

theorem getElem_fidx_set_ne (fx : Vector (Word × Word) 6) (p : Word × Word) {c k : EvClass} (h : k ≠ c) :
    (fx.set (evIndex c) p)[evIndex k] = fx[evIndex k] := by
  have hi : (evIndex c).val ≠ (evIndex k).val := fun e => h (evIndex_injective (Fin.ext e.symm))
  simp [Vector.getElem_set_ne, hi]

/-- A write changes no other register, but VL with VTYPE (R193). -/
theorem State.readSys_writeSys_other (s : State) (st : Strand) {r q : SysReg} (v : Word) (h : q ≠ r)
    (hv : r = .vtype → q ≠ .vl) : (s.setMe (st.writeSys r v)).readSys q = (s.setMe st).readSys q := by
  cases r with
  | vtype =>
    cases q with
    | vtype => exact absurd rfl h
    | vl => exact absurd rfl (hv rfl)
    | _ => rfl
  | fstat =>
    cases q with
    | fstat => exact absurd rfl h
    | _ => rfl
  | tau =>
    cases q with
    | tau => exact absurd rfl h
    | _ => rfl
  | fidxA c =>
    cases q with
    | fidxA k => exact congrArg Prod.fst (getElem_fidx_set_ne st.fidx _ (fun e => h (congrArg _ e)))
    | fidxE k => exact getElem_fidx_set_fst st.fidx v (evIndex c) (evIndex k)
    | _ => rfl
  | fidxE c =>
    cases q with
    | fidxA k => exact getElem_fidx_set_snd st.fidx v (evIndex c) (evIndex k)
    | fidxE k => exact congrArg Prod.snd (getElem_fidx_set_ne st.fidx _ (fun e => h (congrArg _ e)))
    | _ => rfl
  | rngkey =>
    cases q with
    | rngkey => exact absurd rfl h
    | _ => rfl
  | rngctr =>
    cases q with
    | rngctr => exact absurd rfl h
    | _ => rfl
  | _ => rfl

/-! ### The frame of a write -/

@[simp] theorem Strand.writeSys_x (st : Strand) (r : SysReg) (v : Word) : (st.writeSys r v).x = st.x := by
  cases r <;> rfl

@[simp] theorem Strand.writeSys_pc (st : Strand) (r : SysReg) (v : Word) : (st.writeSys r v).pc = st.pc := by
  cases r <;> rfl

theorem sysOnly_writeSys (st : Strand) (r : SysReg) (v : Word) (n : Nat) :
    sysOnly st ((st.writeSys r v).retire n) := by
  cases r <;> rfl

/-! ### What the instructions do -/

theorem State.syncSys_free {s : State} {r : SysReg} (h : sysFree s.me r) : s.syncSys r = .ok () := by
  unfold State.syncSys
  cases hw : waitsQueue r with
  | false => rfl
  | true => simp [h hw]

/-- A read that waits for no queued instruction; TIME's is another (R375). -/
theorem exec_rdsr {s : State} {r : SysReg} (d : XReg) (hf : sysFree s.me r) (ht : r ≠ .time) :
    exec (.rdsr d r) s = .next (s.writeX d (s.readSys r)) := by
  show execRdsr d r s = _
  rw [execRdsr, State.syncSys_free hf, if_neg ht]
  rfl

/-- A write of a value that the register can hold. -/
theorem State.wrsr_ok {s : State} {r : SysReg} {a : XReg} (hb : badSys r (s.me.getX a) = false) (hf : sysFree s.me r) :
    s.wrsr r a = .ok (s.setMe ((s.me.writeSys r (s.me.getX a)).retire 1)) := by
  unfold State.wrsr
  dsimp only
  rw [hb, State.guard_false, State.syncSys_free hf]
  rfl

/-- A value that the register cannot hold is class 0x84 DETAIL 0 (R439). -/
theorem State.wrsr_bad {s : State} {r : SysReg} {a : XReg} (hb : badSys r (s.me.getX a) = true) :
    s.wrsr r a = .error (.flt (s.me.flt 0x84 0 (s.me.getX a).toNat 0) s.me.pc s) := by
  unfold State.wrsr
  dsimp only
  rw [hb, State.guard_true]
  rfl

theorem exec_wrsr_ok {s : State} {r : SysReg} {a : XReg} (hb : badSys r (s.me.getX a) = false) (hf : sysFree s.me r) :
    exec (.wrsr r a) s = .next (s.setMe ((s.me.writeSys r (s.me.getX a)).retire 1)) := by
  show finish _ (s.wrsr r a) = _
  rw [State.wrsr_ok hb hf, finish_ok]

/-- The form of WRSR that names VTYPE in its opcode does the same. -/
theorem exec_wrsrVtype_ok {s : State} {a : XReg} (hb : badSys .vtype (s.me.getX a) = false) :
    exec (.wrsrVtype a) s = .next (s.setMe ((s.me.writeSys .vtype (s.me.getX a)).retire 1)) := by
  show finish _ (s.wrsr .vtype a) = _
  rw [State.wrsr_ok hb nofun, finish_ok]

/-- An exchange reads the old value and the source before it writes (R189, R193). -/
theorem exec_xchsr_ok {s : State} {r : SysReg} {a : XReg} (d : XReg) (hb : badSys r (s.me.getX a) = false)
    (hf : sysFree s.me r) :
    exec (.xchsr d r a) s = .next (s.setMe (((s.me.setX d (s.readSys r)).writeSys r (s.me.getX a)).retire 1)) := by
  show execXchsr d r a s = _
  unfold execXchsr
  dsimp only
  rw [hb, State.guard_false, State.syncSys_free hf]
  rfl

theorem exec_xchsr_bad {s : State} {r : SysReg} {a : XReg} (d : XReg) (hb : badSys r (s.me.getX a) = true) :
    exec (.xchsr d r a) s = .next (s.takeFault (s.me.flt 0x84 0 (s.me.getX a).toNat 0) s.me.pc 0) := by
  show execXchsr d r a s = _
  unfold execXchsr
  dsimp only
  rw [hb, State.guard_true]
  rfl

end Sys2Proof.Machine

namespace Sys2Proof.Claims

open Sys2Proof.Machine

theorem systemRegisters : SystemRegisters := by
  refine fun s r a d hf => ⟨fun ht => writesX_of_exec (exec_rdsr d hf ht), fun hb => ?_, fun hb => ?_⟩
  · refine ⟨_, exec_wrsr_ok hb hf, congrArg (· + 8#64) (Strand.writeSys_pc _ _ _), Strand.writeSys_x _ _ _, rfl, ?_,
      fun q hq hv => ?_, ?_, sysOnly_writeSys _ _ _ _⟩
    · rw [State.readSys_retire, State.readSys_writeSys_same]
      rfl
    · rw [State.readSys_retire, State.readSys_writeSys_other _ _ _ hq hv]
      rfl
    · rintro rfl
      exact ⟨rfl, exec_wrsrVtype_ok hb⟩
  · have hx := Strand.writeSys_x (s.me.setX d (s.readSys r)) r (s.me.getX a)
    refine ⟨_, exec_xchsr_ok d hb hf, ?_, rfl, fun hd => ?_, fun q hq => ?_, ?_, ?_⟩
    · exact congrArg (· + 8#64) ((Strand.writeSys_pc _ _ _).trans (Strand.setX_pc _ _ _))
    · exact (Strand.getX_congr hx d).trans (Strand.getX_setX_same _ _ _ hd)
    · exact (Strand.getX_congr hx q).trans (Strand.getX_setX_other _ _ _ _ hq)
    · rw [State.readSys_retire, State.readSys_writeSys_same, State.readSys_setX]
    · rw [State.setMe_me, Strand.retire_x, hx, ← Strand.setX_eq]
      exact sysOnly_writeSys _ _ _ _

theorem systemRegisterFaults : SystemRegisterFaults := by
  refine fun s r a d hb => ⟨?_, exec_xchsr_bad d hb⟩
  show finish _ (s.wrsr r a) = _
  rw [State.wrsr_bad hb, finish_flt]

end Sys2Proof.Claims

namespace Sys2Proof.Proofs

/-- Settles O19: a write is seen by a read of its own register (`State.readSys_writeSys_same`) and of no other
(`State.readSys_writeSys_other`); the checks come first (`State.wrsr_bad`, `exec_xchsr_bad`). -/
theorem systemRegisters : Obligations.SystemRegisters := ⟨Claims.systemRegisters, Claims.systemRegisterFaults⟩

end Sys2Proof.Proofs
end

section
/-! PROOFS. O30: the mask instructions and the mask stack (R239 to R241, R396). An instruction that writes a mask is a
`maskOp` of its bits (`exec_of_maskOf`); what a `writeM` leaves is said once (`Strand.maskWrote_writeM`), for these and for
MPOP. -/

namespace Sys2Proof.Machine

open Sys2Proof.Claims

/-! ### Lists of bits -/

theorem bitsToNat_cons (b : Bool) (bs : List Bool) : bitsToNat (b :: bs) = Nat.bit b (bitsToNat bs) := by
  cases b <;> simp [bitsToNat, Nat.bit, Nat.add_comm]

theorem testBit_bitsToNat (bs : List Bool) (i : Nat) : (bitsToNat bs).testBit i = bs[i]?.getD false := by
  induction bs generalizing i with
  | nil => simp [bitsToNat]
  | cons b bs ih =>
    rw [bitsToNat_cons]
    cases i with
    | zero => simp
    | succ i => rw [Nat.testBit_bit_succ, List.getElem?_cons_succ, ih]

/-- The bits of the places below `n`, as a word that has room for them. -/
theorem getLsbD_bitsToNat_range {w n : Nat} (h : n ≤ w) (f : Nat → Bool) (i : Nat) :
    (BitVec.ofNat w (bitsToNat ((List.range n).map f))).getLsbD i = (decide (i < n) && f i) := by
  rw [BitVec.getLsbD_ofNat, testBit_bitsToNat]
  by_cases hi : i < n
  · simp [hi, Nat.lt_of_lt_of_le hi h]
  · simp [hi]

/-! ### Writes of a mask register -/

/-- A write of a mask register changes the mask registers alone. -/
theorem Strand.writeM_eq (st : Strand) (d : MRegNo) (f : Nat → Bool) :
    st.writeM d f = { st with m := (st.writeM d f).m } := by
  unfold Strand.writeM Strand.setM
  split
  · rfl
  · split <;> rfl

theorem Strand.writeM_pc (st : Strand) (d : MRegNo) (f : Nat → Bool) : (st.writeM d f).pc = st.pc := by
  rw [Strand.writeM_eq]

theorem Strand.writeM_of_vl_zero {st : Strand} (h : st.vl = 0) (d : MRegNo) (f : Nat → Bool) : st.writeM d f = st :=
  if_pos h

/-- Only the bits below VL of what is written matter (R239). -/
theorem Strand.writeM_congr {st : Strand} {f g : Nat → Bool} (d : MRegNo) (h : ∀ i, i < st.vl → f i = g i) :
    st.writeM d f = st.writeM d g := by
  have hmap : (List.range st.vl).map f = (List.range st.vl).map g :=
    List.map_congr_left fun i hi => h i (List.mem_range.mp hi)
  rw [Strand.writeM, Strand.writeM, hmap]

/-- What a write with VL > 0 leaves in the mask registers (R239). -/
theorem Strand.writeM_m {st : Strand} {d : MRegNo} (f : Nat → Bool) (hvl : st.vl ≠ 0) (hd : d ≠ 0) :
    (st.writeM d f).m =
      st.m.set d ⟨BitVec.ofNat 32768 (bitsToNat ((List.range st.vl).map f)), ceilDiv st.vl 512⟩ := by
  rw [Strand.writeM, if_neg hvl, Strand.setM, if_neg hd]

/-- A write to m0 is discarded (R239). -/
theorem Strand.writeM_m_zero (st : Strand) (f : Nat → Bool) : (st.writeM 0 f).m = st.m := by
  unfold Strand.writeM Strand.setM
  split <;> rfl

/-- A write with VL > 0 completes as R239 says. -/
theorem Strand.maskWrote_writeM {st : Strand} (d : MRegNo) (f : Nat → Bool) (hvl : st.vl ≠ 0) (hn : st.vl ≤ 32768) :
    MaskWrote st (st.writeM d f) d f where
  bits hd i := by
    rw [Strand.writeM_m f hvl hd]
    simpa using getLsbD_bitsToNat_range hn f i
  hw hd := by
    rw [Strand.writeM_m f hvl hd]
    simp [ceilDiv]
  zero hd := by rw [hd, Strand.writeM_m_zero]
  others r hr := by
    by_cases hd : d = 0
    · rw [hd, Strand.writeM_m_zero]
    · rw [Strand.writeM_m f hvl hd]
      simp [Vector.getElem_set_ne, Fin.val_ne_of_ne (Ne.symm hr)]

/-- R239's description of a write speaks of the mask registers and of VL alone. -/
theorem maskWrote_congr {a a' b b' : Strand} {d : MRegNo} {f : Nat → Bool} (h : MaskWrote a b d f)
    (hvl : a'.vl = a.vl) (hm : a'.m = a.m) (hb : b'.m = b.m) : MaskWrote a' b' d f where
  bits := by rw [hvl, hb]; exact h.bits
  hw := by rw [hvl, hb]; exact h.hw
  zero := by rw [hm, hb]; exact h.zero
  others := by rw [hm, hb]; exact h.others

/-! ### The instructions that write a mask -/

/-- A place lies among the 64 that MSETX writes when its quotient by 64 is the index given. -/
theorem div_64_eq_iff (i k : Nat) : i / 64 = k ↔ 64 * k ≤ i ∧ i < 64 * k + 64 := by omega

/-- The bits of MSETX, by the quotient and the rest of their index. -/
theorem msetx_bits (st : Strand) (d : MRegNo) (w : Word) (k : Nat) :
    (fun i => if 64 * k ≤ i ∧ i < 64 * k + 64 then w.getLsbD (i - 64 * k) else st.mbit d i) =
      (fun i => if i / 64 = k then w.getLsbD (i % 64) else st.mbit d i) := by
  funext i
  simp only [div_64_eq_iff]
  split
  · next h =>
    have he : i - 64 * k = i % 64 := by omega
    rw [he]
  · rfl

/-- MSETX of 64 bits at or above VL only goes on (R240). -/
theorem exec_msetx_above {s : State} {b : XReg} (d : MRegNo) (a : XReg) (h : s.me.vl ≤ 64 * (s.me.getX b).toNat) :
    exec (.msetx d a b) s = .next (s.setMe (s.me.retire 1)) := by
  show execMsetx d a b s = _
  exact if_pos h

/-- MSETX of 64 bits that begin below VL. -/
theorem exec_msetx {s : State} {b : XReg} (d : MRegNo) (a : XReg) (h : 64 * (s.me.getX b).toNat < s.me.vl) :
    exec (.msetx d a b) s = s.maskOp d (fun i =>
      if i / 64 = (s.me.getX b).toNat then (s.me.getX a).getLsbD (i % 64) else s.me.mbit d i) := by
  rw [← msetx_bits]
  show execMsetx d a b s = _
  exact if_neg (Nat.not_le.mpr h)

/-- An instruction of the table of R240 that writes a mask gives it the table's bits. -/
theorem exec_of_maskOf {s : State} {i : Instr} {d : MRegNo} {f : Nat → Bool} (h : maskOf s.me i = some (d, f)) :
    exec i s = s.maskOp d f := by
  unfold maskOf at h
  split at h
  case h_5 =>
    obtain ⟨hlt, he⟩ := Option.ite_none_right_eq_some.mp h
    cases he
    exact exec_msetx _ _ hlt
  case h_6 => cases h
  all_goals
    cases h
    rfl

/-- What an instruction that writes a mask does, and its frame. -/
theorem maskOp_wrote (s : State) (d : MRegNo) (f : Nat → Bool) (hn : s.me.vl ≤ 32768) :
    ∃ u, s.maskOp d f = .next u ∧ (s.me.vl ≠ 0 → MaskWrote s.me u.me d f) ∧ (s.me.vl = 0 → u.me.m = s.me.m) ∧
      u.me.pc = s.me.pc + 8#64 ∧ sameRegisters { s.me with m := u.me.m } u.me ∧ sameModule s u := by
  refine ⟨_, rfl, fun hvl => maskWrote_congr (Strand.maskWrote_writeM d f hvl hn) rfl rfl rfl, fun hvl => ?_, ?_, ?_,
    sameModule_setMe _ _⟩
  · rw [Strand.writeM_of_vl_zero hvl]
    rfl
  · exact congrArg (· + 8#64) (Strand.writeM_pc _ _ _)
  · rw [Strand.writeM_eq]
    rfl

/-! ### The instructions that read a mask -/

/-- The first bit set below VL. -/
theorem Strand.head?_setBits (st : Strand) (a : MRegNo) :
    (st.setBits a).head? = (List.range st.vl).find? (st.mbit a) := List.head?_filter

theorem exec_mfirst_some {s : State} {a : MRegNo} {k : Nat} (d : XReg) (h : (s.me.setBits a).head? = some k) :
    exec (.mfirst d a) s = .next (s.writeX d (BitVec.ofNat 64 k)) := by
  obtain ⟨l, hl⟩ := List.head?_eq_some_iff.mp h
  show execMfirst d a s = _
  rw [execMfirst, hl]

theorem exec_mfirst_none {s : State} {a : MRegNo} (d : XReg) (h : (s.me.setBits a).head? = none) :
    exec (.mfirst d a) s = .next (s.writeX d (BitVec.allOnes 64)) := by
  show execMfirst d a s = _
  rw [execMfirst, List.head?_eq_none_iff.mp h]
  rfl

/-! ### The mask stack -/

/-- The limit of a push and the statement's count of a handler's own entry say the same (R400), for either stack. -/
theorem pushLimit_le_iff_of_pos {l : Nat} (hl : 0 < l) (st : Strand) (n : Nat) :
    st.pushLimit l ≤ n ↔ l ≤ n + ownHandler st := by
  unfold Strand.pushLimit ownHandler
  split <;> omega

/-- The entry that MPUSH pushes: the bits below VL with their count (R241). -/
def Strand.maskEntry (st : Strand) (a : MRegNo) : MaskEntry :=
  ⟨st.vl, BitVec.ofNat 32768 (bitsToNat ((List.range st.vl).map (st.mbit a)))⟩

theorem Strand.getLsbD_maskEntry {st : Strand} (h : st.vl ≤ 32768) (a : MRegNo) (i : Nat) :
    (st.maskEntry a).bits.getLsbD i = (decide (i < st.vl) && st.mbit a i) :=
  getLsbD_bitsToNat_range h _ i

/-- A push with room among the held entries (R241). -/
theorem State.pushMs_ok {s : State} (e : MaskEntry) (h : ¬ s.me.pushLimit 1024 ≤ s.me.mbase + s.me.mdepth)
    (hl : s.me.mstack.length < 8) :
    s.pushMs e = .ok (s.setMe { s.me with mstack := e :: s.me.mstack, mdepth := s.me.mdepth + 1 }) := by
  rw [State.pushMs, if_neg h, if_pos hl]

/-- A push on a full mask stack is class 0x07 DETAIL 2 (R241, R396). -/
theorem State.pushMs_full {s : State} (e : MaskEntry) (h : s.me.pushLimit 1024 ≤ s.me.mbase + s.me.mdepth) :
    s.pushMs e = .error (.flt (s.me.flt 0x07 2 (s.me.mbase + s.me.mdepth) 0) s.me.pc s) :=
  if_pos h

/-- A pop of an empty mask stack is class 0x07 DETAIL 3 (R241, R396). -/
theorem State.popMs_empty {s : State} (h : s.me.mdepth = 0) :
    s.popMs = .error (.flt (s.me.flt 0x07 3 0 0) s.me.pc s) :=
  if_pos h

/-- A pop with more than one entry held, or with the only one, reloads nothing (R241). -/
theorem State.popMs_ok {s : State} {e : MaskEntry} {es : List MaskEntry} (hs : s.me.mstack = e :: es)
    (h : s.me.mdepth ≠ 0) (hl : es ≠ [] ∨ s.me.mdepth = 1) :
    s.popMs = .ok (e, s.setMe { s.me with mstack := es, mdepth := s.me.mdepth - 1 }) := by
  have h1 : ¬ (es = [] ∧ 1 < s.me.mdepth) := by
    rintro ⟨he, hd⟩
    exact hl.elim (· he) (by omega)
  simp [State.popMs, h, hs, h1]

theorem exec_mpush_ok {s t : State} {a : MRegNo} (h : s.pushMs (s.me.maskEntry a) = .ok t) :
    exec (.mpush a) s = .next (t.retire 1) := by
  show finish _ (s.pushMs (s.me.maskEntry a) >>= _) = _
  rw [h, run_ok_bind, finish_ok]

theorem exec_mpush_full {s : State} (a : MRegNo) (h : s.me.pushLimit 1024 ≤ s.me.mbase + s.me.mdepth) :
    exec (.mpush a) s = .next (s.takeFault (s.me.flt 0x07 2 (s.me.mbase + s.me.mdepth) 0) s.me.pc 0) := by
  show finish _ (s.pushMs (s.me.maskEntry a) >>= _) = _
  rw [State.pushMs_full _ h, run_error_bind, finish_flt]

/-- MPOP writes the bits of the entry it takes, below their count (R241). -/
theorem exec_mpop_ok {s t : State} {e : MaskEntry} (d : MRegNo) (h : s.popMs = .ok (e, t)) :
    exec (.mpop d) s = .next (t.setMe ((t.me.writeM d (fun i => i < e.n && e.bits.getLsbD i)).retire 1)) := by
  show finish _ (s.popMs >>= _) = _
  rw [h, run_ok_bind, finish_ok]

theorem exec_mpop_empty {s : State} (d : MRegNo) (h : s.me.mdepth = 0) :
    exec (.mpop d) s = .next (s.takeFault (s.me.flt 0x07 3 0 0) s.me.pc 0) := by
  show finish _ (s.popMs >>= _) = _
  rw [State.popMs_empty h, run_error_bind, finish_flt]

/-- A push with room among the held entries puts the bits below VL on the stack and goes on. -/
theorem exec_mpush_room (s : State) (a : MRegNo) (hlim : s.me.mbase + s.me.mdepth + ownHandler s.me < 1024)
    (hl : s.me.mstack.length < 8) :
    ∃ t, exec (.mpush a) s = .next t ∧ t.me.mstack = s.me.maskEntry a :: s.me.mstack ∧
      t.me.mdepth = s.me.mdepth + 1 ∧ t.me.pc = s.me.pc + 8#64 ∧
      sameRegisters { s.me with mstack := t.me.mstack, mdepth := t.me.mdepth } t.me ∧ sameModule s t := by
  have hroom : ¬ s.me.pushLimit 1024 ≤ s.me.mbase + s.me.mdepth := by
    rw [pushLimit_le_iff_of_pos (by decide)]
    omega
  exact ⟨_, exec_mpush_ok (State.pushMs_ok _ hroom hl), rfl, rfl, rfl, rfl, rfl⟩

/-- MPOP of an entry that was pushed at the same VL is a write of the bits pushed. -/
theorem exec_mpop_maskEntry {s : State} {st : Strand} {a : MRegNo} {es : List MaskEntry} (d : MRegNo)
    (hs : s.me.mstack = st.maskEntry a :: es) (hd : s.me.mdepth ≠ 0) (hl : es ≠ [] ∨ s.me.mdepth = 1)
    (hvl : s.me.vl = st.vl) (hn : st.vl ≤ 32768) :
    exec (.mpop d) s =
      (s.setMe { s.me with mstack := es, mdepth := s.me.mdepth - 1 }).maskOp d (st.mbit a) := by
  have hbits : ∀ i, i < s.me.vl →
      (decide (i < (st.maskEntry a).n) && (st.maskEntry a).bits.getLsbD i) = st.mbit a i := by
    intro i hi
    rw [Strand.getLsbD_maskEntry hn]
    simp [Strand.maskEntry, hvl ▸ hi]
  rw [exec_mpop_ok d (State.popMs_ok hs hd hl), State.maskOp]
  exact congrArg (fun st' => Host.Outcome.next (State.setMe _ (Strand.retire st' 1))) (Strand.writeM_congr d hbits)

theorem sameModule_trans {s t u : State} (h : sameModule s t) (k : sameModule t u) : sameModule s u :=
  calc u = t.setMe u.me := k
    _ = (s.setMe t.me).setMe u.me := congrArg (fun v : State => v.setMe u.me) (show t = s.setMe t.me from h)
    _ = s.setMe u.me := rfl

/-- What equal registers say of the mask registers, VL and the mask stack. -/
theorem masks_of_sameRegisters {a b : Strand} (h : sameRegisters a b) :
    b.m = a.m ∧ b.vl = a.vl ∧ b.mstack = a.mstack ∧ b.mdepth = a.mdepth := by
  unfold sameRegisters at h
  rw [h]
  exact ⟨rfl, rfl, rfl, rfl⟩

end Sys2Proof.Machine

namespace Sys2Proof.Claims

open Sys2Proof.Machine

theorem maskResults : MaskResults := by
  refine ⟨fun s i d f h hn => ?_, fun s d a b h => ?_, fun s d a => ⟨writesX_of_exec rfl, fun k hk hset hlow => ?_,
    fun hclear => ?_⟩, fun s d a b => ⟨_, writesX_of_exec rfl, fun j hj => ?_⟩⟩
  · rw [exec_of_maskOf h]
    exact maskOp_wrote s d f hn
  · exact ⟨_, exec_msetx_above d a h, rfl, rfl, rfl, sameModule_setMe _ _⟩
  · have hfind : (List.range s.me.vl).find? (s.me.mbit a) = some k :=
      List.find?_range_eq_some.mpr ⟨hset, List.mem_range.mpr hk, by simpa using hlow⟩
    exact writesX_of_exec (exec_mfirst_some d ((s.me.head?_setBits a).trans hfind))
  · have hfind : (List.range s.me.vl).find? (s.me.mbit a) = none :=
      List.find?_range_eq_none.mpr (by simpa using hclear)
    exact writesX_of_exec (exec_mfirst_none d ((s.me.head?_setBits a).trans hfind))
  · rw [getLsbD_bitsToNat_range (Nat.min_le_left _ _)]
    congr 1
    exact decide_eq_decide.mpr (by omega)

theorem maskStack : MaskStack := by
  intro s a d hlim hl hn hem
  obtain ⟨t, hpush, hstack, hdepth, hpc, hreg, hmod⟩ := exec_mpush_room s a hlim hl
  obtain ⟨hm, hvl, -, -⟩ := masks_of_sameRegisters hreg
  have hlast : s.me.mstack ≠ [] ∨ t.me.mdepth = 1 := by
    by_cases h : s.me.mstack = []
    · exact .inr (by rw [hdepth, hem h])
    · exact .inl h
  have hpop := exec_mpop_maskEntry d hstack (by omega) hlast hvl hn
  obtain ⟨u, hop, hwrote, hnone, -, hreg', hmod'⟩ :=
    maskOp_wrote (t.setMe { t.me with mstack := s.me.mstack, mdepth := t.me.mdepth - 1 }) d (s.me.mbit a)
      (hvl.trans_le hn)
  obtain ⟨-, -, hstack', hdepth'⟩ := masks_of_sameRegisters hreg'
  refine ⟨t, u, hpush, hdepth, by rw [hstack]; rfl, hm, hpc, hmod, hpop.trans hop, ?_, hstack',
    fun h => ?_, fun h => ?_, sameModule_trans hmod hmod'⟩
  · rw [hdepth', State.setMe_me, hdepth, Nat.add_sub_cancel]
  · exact maskWrote_congr (hwrote (hvl.trans_ne h)) hvl.symm hm.symm rfl
  · exact (hnone (hvl.trans h)).trans hm

theorem stackLimits : StackLimits := by
  refine fun s a off => ⟨fun h => ?_, fun h => exec_mpop_empty a h, fun h => ?_, fun h => ?_⟩
  · exact exec_mpush_full a ((pushLimit_le_iff_of_pos (by decide) _ _).mpr h)
  · rw [exec_jal]
    exact finish_call_full _ _ _ h
  · exact callSpills.2.2 s h

end Sys2Proof.Claims

namespace Sys2Proof.Proofs

/-- Settles O30: the instructions that write a mask are writes of the table's bits (`exec_of_maskOf`, `maskOp_wrote`),
MPOP after MPUSH is a write of the bits pushed (`exec_mpop_maskEntry`), and a push or pop past a stack's limits is refused
(`exec_mpush_full`, `exec_mpop_empty`). -/
theorem masks : Obligations.Masks := ⟨Claims.maskResults, Claims.maskStack, Claims.stackLimits⟩

end Sys2Proof.Proofs
end

section
/-! PROOFS. O33: algebra products, conjugation, table items and loading a table (R142 to R151, R253 to R256). AMUL, AMAC and
ACONJ are one loop over tuples, `State.tuplewise`; what a turn of it that nothing stops leaves is said once
(`State.tuplewise_next`), from rules for packed images, for the writes of vector registers, and for the completion of an
interruptible instruction. -/

namespace Sys2Proof.Machine

open Sys2Proof.Claims

/-! ### Images: elements packed from bit 0 (R220) -/

theorem elem_lt (w img i : Nat) : elem w img i < 2 ^ w := Nat.mod_lt _ (Nat.two_pow_pos w)

theorem Strand.code_lt (st : Strand) (t : ETy) (r : VRegNo) (i : Nat) : st.code t r i < 2 ^ sbits t := elem_lt _ _ _

/-- A packed list has no bit above its last element. -/
theorem pack_lt (w : Nat) (cs : List Nat) : pack w cs < 2 ^ (cs.length * w) := by
  induction cs with
  | nil => simp [pack]
  | cons c cs ih =>
    calc pack w (c :: cs) < 2 ^ w + 2 ^ w * pack w cs := Nat.add_lt_add_right (Nat.mod_lt _ (Nat.two_pow_pos w)) _
      _ = 2 ^ w * (pack w cs + 1) := by ring
      _ ≤ 2 ^ w * 2 ^ (cs.length * w) := Nat.mul_le_mul_left _ ih
      _ = 2 ^ ((c :: cs).length * w) := by rw [← pow_add, List.length_cons, Nat.succ_mul, Nat.add_comm]

/-- A register with room for all elements holds the packed list. -/
theorem toNat_ofNat_pack {n w : Nat} {cs : List Nat} (h : cs.length * w ≤ n) :
    (BitVec.ofNat n (pack w cs)).toNat = pack w cs :=
  Nat.mod_eq_of_lt (Nat.lt_of_lt_of_le (pack_lt w cs) (Nat.pow_le_pow_right Nat.two_pos h))

theorem elem_pack_zero (w c img : Nat) : elem w (c % 2 ^ w + 2 ^ w * img) 0 = c % 2 ^ w := by
  simp [elem]

theorem elem_pack_succ (w c img i : Nat) : elem w (c % 2 ^ w + 2 ^ w * img) (i + 1) = elem w img i := by
  have hdiv : (c % 2 ^ w + 2 ^ w * img) / 2 ^ w = img := by
    rw [Nat.add_mul_div_left _ _ (Nat.two_pow_pos w), Nat.div_eq_of_lt (Nat.mod_lt _ (Nat.two_pow_pos w)), Nat.zero_add]
  rw [elem, elem, Nat.succ_mul, Nat.add_comm (i * w) w, Nat.shiftRight_add, Nat.shiftRight_eq_div_pow _ w, hdiv]

/-- An element of a packed list is the list's entry, and zero behind the last. -/
theorem elem_pack (w : Nat) (cs : List Nat) (i : Nat) : elem w (pack w cs) i = cs[i]?.getD 0 % 2 ^ w := by
  induction cs generalizing i with
  | nil => simp [pack, elem]
  | cons c cs ih =>
    cases i with
    | zero => exact elem_pack_zero w c (pack w cs)
    | succ i => exact (elem_pack_succ w c (pack w cs) i).trans (ih i)

/-! ### Completed writes of a vector register -/

/-- Codes of whole bytes leave no bits of a last byte to keep. -/
theorem byteRest_of_whole_bytes {k : Nat} (h : k % 8 = 0) (old : Nat) : byteRest k old = 0 := by
  simp [byteRest, h, Nat.mod_one]

/-- A register after a completed write of codes of whole bytes that are no block type's holds the packed codes. -/
theorem VReg.nat_full {t : ETy} {cs : List Nat} (old : VReg) (l : Nat) (hb : isBlock t = false) (h8 : sbits t % 8 = 0)
    (hfit : cs.length * sbits t ≤ 65536) : (old.full t l cs []).nat = pack (sbits t) cs := by
  have hbytes : cs.length * sbits t % 8 = 0 := by rw [Nat.mul_mod, h8, Nat.mul_zero, Nat.zero_mod]
  rw [VReg.full, VReg.nat, byteRest_of_whole_bytes hbytes, image, hb]
  exact toNat_ofNat_pack hfit

theorem isBlock_of_isF {t : ETy} (h : isF t = true) : isBlock t = false := by
  rcases isF_cases h with rfl | rfl | rfl | rfl <;> rfl

theorem sbits_mod_8_of_isF {t : ETy} (h : isF t = true) : sbits t % 8 = 0 := by
  rcases isF_cases h with rfl | rfl | rfl | rfl <;> rfl

/-- The codes of VL elements of an operand that R438 admits fit a register. -/
theorem vl_mul_sbits_le {st : Strand} {rs : List VRegNo} {t : ETy} (h : VecReady st rs [t]) (hb : isBlock t = false) :
    st.vl * sbits t ≤ 65536 := by
  have hfit : bytesOf t st.blk st.vl ≤ 8192 := (h.fits t (List.mem_singleton.mpr rfl)).trans h.mvl
  rw [bytesOf, hb, if_neg Bool.false_ne_true] at hfit
  omega

/-! ### Operand checks -/

theorem firstFlt_vec {st : Strand} {rs : List VRegNo} {t : ETy} (h : VecReady st rs [t]) (hb : isBlock t = false) :
    firstFlt (st.vregChk rs ++ st.lenChk t) = none := by
  have hregs : ∀ c ∈ st.vregChk rs, c.1 = false := by
    intro c hc
    obtain ⟨r, hr, rfl⟩ := List.mem_map.mp hc
    exact decide_eq_false (Nat.not_le.mpr (h.regs r hr))
  have hlen : ∀ c ∈ st.lenChk t, c.1 = false := by
    have hfit := h.fits t (List.mem_singleton.mpr rfl)
    simp [Strand.lenChk, hb, hfit]
  rw [firstFlt_none]
  exact fun c hc => (List.mem_append.mp hc).elim (hregs c) (hlen c)

theorem State.syncV_free {s : State} (h : rowFree s.me = true) : s.syncV = .ok () := by
  unfold State.syncV
  split
  · next hany =>
    obtain ⟨e, he, hrow⟩ := List.any_eq_true.mp hany
    have hfree := List.all_eq_true.mp h e he
    split at hrow
    · next hi => simp [hi] at hfree
    · exact absurd hrow Bool.false_ne_true
  · rfl

theorem State.table_some {s : State} {c : AlgNo} {tb : AlgTable} (h : s.me.alg[c] = some tb) : s.table c = .ok tb := by
  rw [State.table, h]

/-- An empty slot is class 0x83 DETAIL 7 (R440). -/
theorem State.table_none {s : State} {c : AlgNo} (h : s.me.alg[c] = none) :
    s.table c = .error (.flt (s.me.flt 0x83 7 0 c.val) s.me.pc s) := by
  rw [State.table, h]
  rfl

@[simp] theorem Strand.rnd_rne (st : Strand) : st.rnd .rne = .rne := rfl

/-! ### Completion of an interruptible instruction -/

/-- The strand when an interruptible instruction completes with events (R42, R132). -/
def Strand.completed (st : Strand) (evs : Evs) : Strand :=
  { ((st.gather evs).raise evs).retire 1 with esr := 0, resume := none, stopAt := none, evSoFar := 0#7, evFirst := 0 }

@[simp] theorem Strand.completed_pc (st : Strand) (evs : Evs) : (st.completed evs).pc = st.pc + 8#64 := rfl
@[simp] theorem Strand.completed_rngCtr (st : Strand) (evs : Evs) : (st.completed evs).rngCtr = st.rngCtr := rfl
@[simp] theorem Strand.completed_fstat (st : Strand) (evs : Evs) :
    (st.completed evs).fstat = st.fstat ||| (evUnion evs).setWidth 32 := rfl
@[simp] theorem Strand.completed_getV (st : Strand) (evs : Evs) (r : VRegNo) :
    (st.completed evs).getV r = st.getV r := rfl

/-- With no enabled event raised, in this turn or before it, an interruptible instruction completes. -/
theorem State.completeV_ok {s : State} {evs : Evs} (hev : s.me.evSoFar = 0#7) (h : evUnion evs &&& s.me.ten = 0#7) :
    s.completeV evs = .ok (s.setMe (s.me.completed evs)) := by
  have hso : (s.me.gather evs).evSoFar &&& (s.me.gather evs).ten = 0#7 := by
    show (s.me.evSoFar ||| evUnion evs) &&& s.me.ten = 0#7
    rw [hev, BitVec.zero_or, h]
  simp only [State.completeV, trapOf, if_pos hso]
  rfl

theorem Strand.advance_rngCtr (st : Strand) (r : Rnd) (n : Nat) :
    (st.advance r n).rngCtr = st.rngCtr + BitVec.ofNat 64 (if st.rnd r = .rst then n else 0) := by
  unfold Strand.advance Strand.draws
  by_cases h : st.rnd r = .rst <;> simp [h]

/-- What the completion leaves of a strand whose own write was a vector register (R129, R132, R220). -/
theorem vecFrame_completed (st : Strand) (d : VRegNo) (v : VReg) (r : Rnd) (evs : Evs) :
    VecFrame st (((st.setV d v).advance r st.vl).completed evs) (evUnion evs) (if st.rnd r = .rst then st.vl else 0) where
  fstat := by rw [Strand.completed_fstat, Strand.advance_fstat, Strand.setV_fstat]
  rng := by
    rw [Strand.completed_rngCtr, Strand.advance_rngCtr, Strand.rnd, Strand.setV_fstat, Strand.setV_rngCtr, Strand.rnd]
  pc := by rw [Strand.completed_pc, Strand.advance_pc, Strand.setV_pc]
  esr := rfl
  rest := by rw [Strand.advance_eq]; rfl

theorem Strand.advance_getV (st : Strand) (r : Rnd) (n : Nat) (q : VRegNo) : (st.advance r n).getV q = st.getV q := by
  rw [Strand.advance_eq]
  rfl

/-! ### Lists of equal rows -/

section Rows
variable {α : Type} {row : Nat → List α} {n : Nat} (hrow : ∀ j, (row j).length = n)
include hrow

theorem length_flatMap_range (q : Nat) : ((List.range q).flatMap row).length = q * n := by
  simp [List.length_flatMap, hrow]

/-- Entry `k` of row `j` stands at j·n + k. -/
theorem getElem?_flatMap_range {q j k : Nat} (hj : j < q) (hk : k < n) :
    ((List.range q).flatMap row)[j * n + k]? = (row j)[k]? := by
  induction q with
  | zero => exact absurd hj (Nat.not_lt_zero j)
  | succ q ih =>
    have hlen := length_flatMap_range hrow q
    rw [List.range_succ, List.flatMap_append, List.flatMap_singleton]
    rcases Nat.lt_succ_iff_lt_or_eq.mp hj with hlt | rfl
    · have hin : j * n + k < q * n :=
        calc j * n + k < j * n + n := Nat.add_lt_add_left hk _
          _ = (j + 1) * n := (Nat.succ_mul j n).symm
          _ ≤ q * n := Nat.mul_le_mul_right n hlt
      rw [List.getElem?_append_left (hlen.symm ▸ hin), ih hlt]
    · rw [List.getElem?_append_right (hlen.symm ▸ Nat.le_add_right _ _), hlen, Nat.add_sub_cancel_left]

end Rows

/-! ### The loop over tuples (R147, R255) -/

/-- The components of tuple `j`, with their events: results of an active tuple, else the old codes under .keep or zero. -/
def Strand.tupleRow (st : Strand) (d : VRegNo) (t : ETy) (n : Nat) (m : MRegNo) (keep : Bool)
    (f : Nat → List (Nat × Ev)) (j : Nat) : List (Nat × Ev) :=
  if st.active? m j then f j
  else if keep then (List.range n).map (fun k => (st.code t d (j * n + k), 0#7)) else List.replicate n (0, 0#7)

/-- The components of all whole tuples, by index. -/
def Strand.tupleResults (st : Strand) (d : VRegNo) (t : ETy) (n : Nat) (m : MRegNo) (keep : Bool)
    (f : Nat → List (Nat × Ev)) : List (Nat × Nat × Ev) :=
  (List.range (st.vl / n)).flatMap (fun j =>
    (st.tupleRow d t n m keep f j).zipIdx.map (fun c => (j * n + c.2, c.1)))

/-- The codes that an instruction over tuples writes: zero behind the last whole tuple (R146). -/
def Strand.tupleCodes (st : Strand) (d : VRegNo) (t : ETy) (n : Nat) (m : MRegNo) (keep : Bool)
    (f : Nat → List (Nat × Ev)) : List Nat :=
  (st.tupleResults d t n m keep f).map (·.2.1)
    ++ List.replicate (st.vl - ((st.tupleResults d t n m keep f).map (·.2.1)).length) 0

/-- The events of an instruction over tuples, by index. -/
def Strand.tupleEvs (st : Strand) (d : VRegNo) (t : ETy) (n : Nat) (m : MRegNo) (keep : Bool)
    (f : Nat → List (Nat × Ev)) : Evs :=
  ((st.tupleResults d t n m keep f).filter (fun r => r.2.2 ≠ 0#7)).map (fun r => (r.1, r.2.2))

/-- A turn over tuples that begins the instruction and is not asked to stop inside it writes all of VL and completes. -/
theorem State.tuplewise_whole {s : State} (hw : Whole s.me) (hvl : s.me.vl ≠ 0) (d : VRegNo) (t : ETy) (n : Nat)
    (m : MRegNo) (keep : Bool) (rnd : Rnd) (f : Nat → List (Nat × Ev)) :
    s.tuplewise d t n m keep rnd f =
      (s.setMe ((s.me.setV d ((s.me.getV d).full t s.me.blk (s.me.tupleCodes d t n m keep f) [])).advance rnd
        s.me.vl)).completeV (s.me.tupleEvs d t n m keep f) := by
  have hall (g : Nat) : s.me.upto g s.me.vl = s.me.vl := by rw [Strand.upto, hw.stop]
  simp only [State.tuplewise, if_neg hvl, hall, if_pos, hw.esr, Nat.zero_div, Nat.sub_zero, List.range_zero, List.map_nil,
    List.nil_append, ← List.range_eq_range']
  rfl

section Tuples
variable {st : Strand} {d : VRegNo} {t : ETy} {n : Nat} {m : MRegNo} {keep : Bool} {f : Nat → List (Nat × Ev)}

theorem Strand.length_tupleRow (hlen : ∀ j, (f j).length = n) (j : Nat) :
    (st.tupleRow d t n m keep f j).length = n := by
  unfold Strand.tupleRow
  split
  · exact hlen j
  · split <;> simp

theorem Strand.tupleResults_codes : (st.tupleResults d t n m keep f).map (·.2.1) =
    (List.range (st.vl / n)).flatMap (fun j => (st.tupleRow d t n m keep f j).map (·.1)) := by
  have hrow (j : Nat) (row : List (Nat × Ev)) :
      (row.zipIdx.map (fun c => (j * n + c.2, c.1))).map (·.2.1) = row.map (·.1) := by
    conv_rhs => rw [← List.zipIdx_map_fst 0 row]
    rw [List.map_map, List.map_map]
    rfl
  simp only [Strand.tupleResults, List.map_flatMap, hrow]

variable (hlen : ∀ j, (f j).length = n)
include hlen

theorem Strand.length_tupleResults_codes :
    ((st.tupleResults d t n m keep f).map (·.2.1)).length = st.vl / n * n := by
  rw [Strand.tupleResults_codes]
  exact length_flatMap_range (fun j => by rw [List.length_map, Strand.length_tupleRow hlen]) _

theorem Strand.length_tupleCodes : (st.tupleCodes d t n m keep f).length = st.vl := by
  have hle : st.vl / n * n ≤ st.vl := Nat.div_mul_le_self _ _
  rw [Strand.tupleCodes, List.length_append, List.length_replicate, Strand.length_tupleResults_codes hlen]
  omega

/-- Component `k` of tuple `j`. -/
theorem Strand.tupleCodes_component {j k : Nat} (hj : j < st.vl / n) (hk : k < n) :
    (st.tupleCodes d t n m keep f)[j * n + k]?.getD 0 = ((st.tupleRow d t n m keep f j).getD k (0, 0#7)).1 := by
  have hrows (i : Nat) : ((st.tupleRow d t n m keep f i).map (·.1)).length = n := by
    rw [List.length_map, Strand.length_tupleRow hlen]
  have hget := getElem?_flatMap_range hrows hj hk
  have hin : k < (st.tupleRow d t n m keep f j).length := by rwa [Strand.length_tupleRow hlen]
  have hsome : ((st.tupleRow d t n m keep f j).map (·.1))[k]? = some (st.tupleRow d t n m keep f j)[k].1 := by
    rw [List.getElem?_map, List.getElem?_eq_getElem hin]
    rfl
  rw [hsome, ← Strand.tupleResults_codes] at hget
  have hpos := (List.getElem?_eq_some_iff.mp hget).1
  rw [Strand.tupleCodes, List.getElem?_append_left hpos, hget, List.getD_eq_getElem _ _ hin, Option.getD_some]

/-- Behind the last whole tuple the codes are zero (R146). -/
theorem Strand.tupleCodes_behind {i : Nat} (hi : st.vl / n * n ≤ i) :
    (st.tupleCodes d t n m keep f)[i]?.getD 0 = 0 := by
  rw [Strand.tupleCodes, List.getElem?_append_right (by rwa [Strand.length_tupleResults_codes hlen]),
    List.getElem?_replicate]
  split <;> rfl

end Tuples

/-- The codes of a tuple as the destination holds them: an active tuple's results, else its old codes or zero. -/
theorem Strand.tupleRow_code {st : Strand} {n j k : Nat} (d : VRegNo) (t : ETy) (m : MRegNo) (keep : Bool)
    (f : Nat → List (Nat × Ev)) (hj : j < st.vl) (hk : k < n) :
    ((st.tupleRow d t n m keep f j).getD k (0, 0#7)).1 % 2 ^ sbits t =
      (if st.mbit m j then ((f j).getD k (0, 0#7)).1 % 2 ^ sbits t
      else if keep then st.code t d (j * n + k) else 0) := by
  have hact : st.active? m j = st.mbit m j := by rw [Strand.active?, decide_eq_true hj, Bool.true_and]
  rw [Strand.tupleRow, hact]
  cases st.mbit m j
  · cases keep
    · simp [List.getD_eq_getElem?_getD, hk]
    · simpa [List.getD_eq_getElem?_getD, hk] using Nat.mod_eq_of_lt (st.code_lt t d (j * n + k))
  · rfl

/-- Tuples that raise nothing leave no events. -/
theorem Strand.tupleEvs_eq_nil {st : Strand} {d : VRegNo} {t : ETy} {n : Nat} {m : MRegNo} {keep : Bool}
    {f : Nat → List (Nat × Ev)} (h : ∀ j, ∀ c ∈ f j, c.2 = 0#7) : st.tupleEvs d t n m keep f = [] := by
  have hrow : ∀ j, ∀ c ∈ st.tupleRow d t n m keep f j, c.2 = 0#7 := by
    intro j c hc
    unfold Strand.tupleRow at hc
    split at hc
    · exact h j c hc
    · split at hc
      · obtain ⟨k, -, rfl⟩ := List.mem_map.mp hc
        rfl
      · rw [List.eq_of_mem_replicate hc]
  have hres : ∀ r ∈ st.tupleResults d t n m keep f, r.2.2 = 0#7 := by
    intro r hr
    obtain ⟨j, -, hj⟩ := List.mem_flatMap.mp hr
    obtain ⟨c, hc, rfl⟩ := List.mem_map.mp hj
    exact hrow j c.1 (List.fst_mem_of_mem_zipIdx hc)
  rw [Strand.tupleEvs, List.map_eq_nil_iff, List.filter_eq_nil_iff]
  intro r hr
  simpa using hres r hr

/-- What a turn over the tuples of a float type does that nothing stops and no enabled event traps, and its frame. -/
theorem State.tuplewise_next {s : State} {rs : List VRegNo} {d : VRegNo} {t : ETy} {n : Nat} {m : MRegNo} {keep : Bool}
    {f : Nat → List (Nat × Ev)} (ht : isF t = true) (hready : VecReady s.me rs [t]) (hw : Whole s.me) (hvl : s.me.vl ≠ 0)
    (hlen : ∀ j, (f j).length = n) (i : Instr) (rnd : Rnd)
    (hev : evUnion (s.me.tupleEvs d t n m keep f) &&& s.me.ten = 0#7) :
    ∃ u, finish i (s.tuplewise d t n m keep rnd f) = .next u ∧
      (∀ j k, k < n → j < s.me.vl / n → u.me.code t d (j * n + k) =
        (if s.me.mbit m j then ((f j).getD k (0, 0#7)).1 % 2 ^ sbits t
        else if keep then s.me.code t d (j * n + k) else 0)) ∧
      (∀ i, s.me.vl / n * n ≤ i → u.me.code t d i = 0) ∧
      (∀ r, r ≠ d → u.me.getV r = s.me.getV r) ∧
      VecFrame s.me u.me (evUnion (s.me.tupleEvs d t n m keep f)) (if s.me.rnd rnd = .rst then s.me.vl else 0) ∧
      sameModule s u := by
  have hb := isBlock_of_isF ht
  have hfit : (s.me.tupleCodes d t n m keep f).length * sbits t ≤ 65536 := by
    rw [Strand.length_tupleCodes hlen]
    exact vl_mul_sbits_le hready hb
  have hfull := VReg.nat_full (s.me.getV d) s.me.blk hb (sbits_mod_8_of_isF ht) hfit
  rw [State.tuplewise_whole hw hvl]
  generalize (s.me.getV d).full t s.me.blk (s.me.tupleCodes d t n m keep f) [] = v at hfull
  have hten : ((s.me.setV d v).advance rnd s.me.vl).ten = s.me.ten := by
    rw [Strand.ten, Strand.advance_fstat, Strand.setV_fstat, Strand.ten]
  rw [State.completeV_ok (by rw [State.setMe_me, Strand.advance_evSoFar, Strand.setV_evSoFar, hw.evs])
    (by rw [State.setMe_me, hten, hev]), finish_ok]
  have hcode (k : Nat) :
      (((s.me.setV d v).advance rnd s.me.vl).completed (s.me.tupleEvs d t n m keep f)).code t d k =
        (s.me.tupleCodes d t n m keep f)[k]?.getD 0 % 2 ^ sbits t := by
    rw [Strand.code, Strand.completed_getV, Strand.advance_getV, Strand.getV_setV_same, hfull, elem_pack]
  refine ⟨_, rfl, fun j k hk hj => ?_, fun k hk => ?_, fun r hr => ?_, vecFrame_completed _ _ _ _ _, rfl⟩
  · rw [State.setMe_me, State.setMe_me, hcode, Strand.tupleCodes_component hlen hj hk]
    exact Strand.tupleRow_code _ _ _ _ _ (Nat.lt_of_lt_of_le hj (Nat.div_le_self _ _)) hk
  · rw [State.setMe_me, State.setMe_me, hcode, Strand.tupleCodes_behind hlen hk, Nat.zero_mod]
  · rw [State.setMe_me, State.setMe_me, Strand.completed_getV, Strand.advance_getV, Strand.getV_setV_other _ _ _ _ hr]

/-! ### Products (R149, R150, R255) -/

theorem length_algStep (t : ETy) (rm : Rnd) (sat : Bool) (draw : Nat → Nat → Draw) (x y : Nat → Val)
    (acc : List (Nat × Nat × Ev)) (e : AlgEntry) : (algStep t rm sat draw x y acc e).length = acc.length := by
  unfold algStep
  split
  · rfl
  · simp

/-- alg_tuple gives as many components as it starts from. -/
theorem length_algTuple (tb : AlgTable) (cjg opp : Bool) (t : ETy) (rm : Rnd) (sat : Bool) (draw : Nat → Nat → Draw)
    (y0 : List Nat) (a b : Nat → Nat) : (algTuple tb cjg opp t rm sat draw y0 a b).length = y0.length := by
  have hfold (x y : Nat → Val) (es : List AlgEntry) (acc : List (Nat × Nat × Ev)) :
      (es.foldl (algStep t rm sat draw x y) acc).length = acc.length := by
    induction es generalizing acc with
    | nil => rfl
    | cons e es ih => rw [List.foldl_cons, ih, length_algStep]
  simp [algTuple, hfold]

/-- The components of tuple `j` of a product: `acc` says that it starts from the destination's old tuple. -/
def Strand.product (st : Strand) (tb : AlgTable) (acc : Bool) (d a b : VRegNo) (m : VMod) (cjg opp : Bool) (j : Nat) :
    List (Nat × Ev) :=
  algTuple tb cjg opp m.ty (st.rnd m.rnd) m.sat (fun k i => st.draw (j * tb.dim + k) i)
    ((List.range tb.dim).map (fun k => if acc then st.code m.ty d (j * tb.dim + k) else 0))
    (fun i => st.code m.ty a (j * tb.dim + i)) (fun i => st.code m.ty b (j * tb.dim + i))

theorem Strand.length_product (st : Strand) (tb : AlgTable) (acc : Bool) (d a b : VRegNo) (m : VMod) (cjg opp : Bool)
    (j : Nat) : (st.product tb acc d a b m cjg opp j).length = tb.dim := by
  simp [Strand.product, length_algTuple]

/-- Over a loaded table a product is a loop over its tuples. -/
theorem State.algMul_loaded {s : State} {d a b : VRegNo} {c : AlgNo} {m : VMod} {tb : AlgTable} (acc cjg opp : Bool)
    (ht : isF m.ty = true) (hready : VecReady s.me [d, a, b] [m.ty]) (htb : s.me.alg[c] = some tb) :
    s.algMul acc d a b c m cjg opp =
      s.tuplewise d m.ty tb.dim m.mask m.keep m.rnd (s.me.product tb acc d a b m cjg opp) := by
  rw [State.algMul, State.check_ok (firstFlt_vec hready (isBlock_of_isF ht)), run_ok_bind, State.table_some htb,
    run_ok_bind, State.syncV_free hready.rows, run_ok_bind]
  rfl

theorem State.algMul_empty {s : State} {d a b : VRegNo} {c : AlgNo} {m : VMod} (acc cjg opp : Bool)
    (ht : isF m.ty = true) (hready : VecReady s.me [d, a, b] [m.ty]) (htb : s.me.alg[c] = none) :
    s.algMul acc d a b c m cjg opp = .error (.flt (s.me.flt 0x83 7 0 c.val) s.me.pc s) := by
  rw [State.algMul, State.check_ok (firstFlt_vec hready (isBlock_of_isF ht)), run_ok_bind, State.table_none htb,
    run_error_bind]

/-- AMUL and AMAC alike: an instruction that is `algMul` does what R255 says. -/
theorem algProduct_of_exec {i : Instr} {s : State} {d a b : VRegNo} {c : AlgNo} {m : VMod} {acc cjg opp : Bool}
    (hi : exec i s = finish i (s.algMul acc d a b c m cjg opp)) (ht : isF m.ty = true)
    (hready : VecReady s.me [d, a, b] [m.ty]) : AlgProduct i acc s d a b c m cjg opp := by
  refine ⟨fun tb g htb _ hw hvl hten hg => ?_, fun htb => ?_⟩
  · have hprod : s.me.product tb acc d a b m cjg opp = g := funext fun j => (hg j).symm
    have hlen (j : Nat) : (g j).length = tb.dim := hprod ▸ s.me.length_product tb acc d a b m cjg opp j
    rw [hi, State.algMul_loaded acc cjg opp ht hready htb, hprod]
    obtain ⟨u, hu, h⟩ := State.tuplewise_next (d := d) (m := m.mask) (keep := m.keep) ht hready hw hvl hlen i m.rnd
      (by rw [hten, BitVec.and_zero])
    exact ⟨u, _, hu, h⟩
  · rw [hi, State.algMul_empty acc cjg opp ht hready htb, finish_flt]

/-! ### Conjugation (R256) -/

/-- The components of tuple `j` of a conjugation: the table's bits select the signs that are inverted. -/
def Strand.conjugate (st : Strand) (tb : AlgTable) (a : VRegNo) (t : ETy) (j : Nat) : List (Nat × Ev) :=
  (List.range tb.dim).map (fun i => (if tb.conj.getLsbD i then st.code t a (j * tb.dim + i) ^^^ 2 ^ (sbits t - 1)
    else st.code t a (j * tb.dim + i), 0#7))

theorem Strand.length_conjugate (st : Strand) (tb : AlgTable) (a : VRegNo) (t : ETy) (j : Nat) :
    (st.conjugate tb a t j).length = tb.dim := by
  rw [Strand.conjugate, List.length_map, List.length_range]

theorem Strand.conjugate_quiet (st : Strand) (tb : AlgTable) (a : VRegNo) (t : ETy) :
    ∀ j, ∀ c ∈ st.conjugate tb a t j, c.2 = 0#7 := by
  intro j c hc
  obtain ⟨i, -, rfl⟩ := List.mem_map.mp hc
  rfl

theorem sbits_pos (t : ETy) : 0 < sbits t := by cases t <;> decide

/-- A code with its sign bit inverted is a code of the same width. -/
theorem Strand.code_xor_sign_lt (st : Strand) (t : ETy) (r : VRegNo) (i : Nat) :
    st.code t r i ^^^ 2 ^ (sbits t - 1) < 2 ^ sbits t :=
  Nat.xor_lt_two_pow (st.code_lt t r i)
    (Nat.pow_lt_pow_right Nat.one_lt_two (Nat.sub_lt (sbits_pos t) Nat.one_pos))

theorem Strand.conjugate_code {tb : AlgTable} {k : Nat} (hk : k < tb.dim) (st : Strand) (a : VRegNo) (t : ETy) (j : Nat) :
    ((st.conjugate tb a t j).getD k (0, 0#7)).1 % 2 ^ sbits t =
      if tb.conj.getLsbD k then st.code t a (j * tb.dim + k) ^^^ 2 ^ (sbits t - 1)
        else st.code t a (j * tb.dim + k) := by
  have hget : ((st.conjugate tb a t j).getD k (0, 0#7)).1 =
      if tb.conj.getLsbD k then st.code t a (j * tb.dim + k) ^^^ 2 ^ (sbits t - 1)
        else st.code t a (j * tb.dim + k) := by
    simp [Strand.conjugate, List.getD_eq_getElem?_getD, hk]
  rw [hget]
  apply Nat.mod_eq_of_lt
  split
  · exact st.code_xor_sign_lt _ _ _
  · exact st.code_lt _ _ _

/-- Over a loaded table ACONJ is a loop over its tuples. -/
theorem exec_aconj_loaded {s : State} {d a : VRegNo} {c : AlgNo} {t : ETy} {tb : AlgTable} (mask : MRegNo) (keep : Bool)
    (ht : isF t = true) (hready : VecReady s.me [d, a] [t]) (htb : s.me.alg[c] = some tb) :
    exec (.aconj d a c t mask keep) s =
      finish (.aconj d a c t mask keep) (s.tuplewise d t tb.dim mask keep .rne (s.me.conjugate tb a t)) := by
  show execAconj d a c t mask keep s = _
  rw [execAconj, State.check_ok (firstFlt_vec hready (isBlock_of_isF ht)), run_ok_bind, State.table_some htb,
    run_ok_bind, State.syncV_free hready.rows, run_ok_bind]
  rfl

theorem exec_aconj_empty {s : State} {d a : VRegNo} {c : AlgNo} {t : ETy} (mask : MRegNo) (keep : Bool)
    (ht : isF t = true) (hready : VecReady s.me [d, a] [t]) (htb : s.me.alg[c] = none) :
    exec (.aconj d a c t mask keep) s = .next (s.takeFault (s.me.flt 0x83 7 0 c.val) s.me.pc 0) := by
  show execAconj d a c t mask keep s = _
  rw [execAconj, State.check_ok (firstFlt_vec hready (isBlock_of_isF ht)), run_ok_bind, State.table_none htb,
    run_error_bind, finish_flt]

/-! ### Table items (R254) -/

theorem exec_atinfo {s : State} {a : AlgNo} {tb : Option AlgTable} (d : XReg) (item : BitVec 2) (h : s.me.alg[a] = tb) :
    exec (.atinfo d a item) s = .next (s.writeX d (algItem tb item.toNat)) := by
  subst h
  rfl

/-! ### Loading a table (R142 to R144, R253) -/

theorem ofLE_lt (bs : List Byte) : ofLE bs < 256 ^ bs.length := by
  induction bs with
  | nil => decide
  | cons b bs ih =>
    have hb := b.isLt
    rw [ofLE, List.length_cons, Nat.pow_succ]
    omega

theorem field_lt (bs : List Byte) (off n : Nat) : field bs off n < 256 ^ n :=
  Nat.lt_of_lt_of_le (ofLE_lt _) (Nat.pow_le_pow_right (by decide) (List.length_take_le _ _))

/-- A loaded entry: its constant is neither zero nor a NaN or an infinity, and its indices lie below the dimension. -/
def AlgEntry.Admitted (dim : Nat) (e : AlgEntry) : Prop :=
  constZero e.c.toNat = false ∧ constBad e.c.toNat = false ∧ e.k < dim ∧ e.p < dim ∧ e.q < dim

/-- The reading of one entry of a table that is not refused: it is dropped, or it is admitted and there is room for it
(R143, R144). -/
theorem Strand.entries_succ {st : Strand} {dim e : Nat} {bs : List Byte} {fuel i n : Nat} {ents : List AlgEntry}
    (h : st.entries dim e bs (fuel + 1) i n = .ok ents) :
    st.entries dim e bs fuel (i + 1) n = .ok ents ∨
    ∃ x es, ents = x :: es ∧ x.Admitted dim ∧ n < 1024 ∧ st.entries dim e bs fuel (i + 1) (n + 1) = .ok es := by
  unfold Strand.entries at h
  extract_lets o k p q c at h
  have hc : (BitVec.ofNat 32 c).toNat = c := Nat.mod_eq_of_lt (field_lt bs (o + 4) 4)
  split at h
  · cases h
  · next hidx =>
    simp only [Bool.or_eq_true, decide_eq_true_eq, not_or, Nat.not_le] at hidx
    obtain ⟨⟨⟨hk, hp⟩, hq⟩, -⟩ := hidx
    split at h
    · cases h
    · next hbad =>
      split at h
      · exact .inl h
      · next hzero =>
        split at h
        · cases h
        · next hroom =>
          have hadm : AlgEntry.Admitted dim ⟨k, p, q, BitVec.ofNat 32 c⟩ :=
            ⟨by rw [hc]; simpa using hzero, by rw [hc]; simpa using hbad, hk, hp, hq⟩
          cases hes : st.entries dim e bs fuel (i + 1) (n + 1) with
          | error f => rw [hes] at h; cases h
          | ok es =>
            rw [hes] at h
            cases h
            exact .inr ⟨_, es, rfl, hadm, Nat.not_le.mp hroom, rfl⟩

/-- What the entries of a table come to when none is refused: those that are kept are admitted, and with the `n` kept
before them they are no more than 1024. -/
theorem Strand.entries_ok {st : Strand} {dim e : Nat} {bs : List Byte} {fuel i n : Nat} {ents : List AlgEntry}
    (hn : n ≤ 1024) (h : st.entries dim e bs fuel i n = .ok ents) :
    (∀ x ∈ ents, x.Admitted dim) ∧ n + ents.length ≤ 1024 := by
  induction fuel generalizing i n ents with
  | zero =>
    cases h
    exact ⟨fun x hx => absurd hx List.not_mem_nil, hn⟩
  | succ fuel ih =>
    rcases Strand.entries_succ h with hdrop | ⟨x, es, rfl, hx, hroom, hes⟩
    · exact ih hn hdrop
    · obtain ⟨hadm, hcount⟩ := ih hroom hes
      refine ⟨fun y hy => ?_, by rw [List.length_cons]; omega⟩
      rcases List.mem_cons.mp hy with rfl | hy
      · exact hx
      · exact hadm y hy

/-- The table that ATLD makes of a header and the entries kept (R142, R144). -/
def loadedTable (h : List Byte) (ents : List AlgEntry) : AlgTable :=
  ⟨field h 4 1, BitVec.ofNat 16 (field h 8 2), BitVec.ofNat 32 (field h 12 4), ents⟩

/-- ATLD of a table whose header and entries are admitted, into a slot that no queued instruction reads. -/
theorem exec_atld {s s1 s2 : State} {d : AlgNo} {b : BRegNo} {off : BitVec 9} {h es : List Byte} {ents : List AlgEntry}
    (halign : s.me.eb b (64 * off.toInt) % 64 = 0)
    (hhead : s.loadE b useLD (s.me.eb b (64 * off.toInt)) 64 0 = .ok (h, s1))
    (hchk : firstFlt (s.me.headChk h (addr64 (s.me.eb b (64 * off.toInt)))) = none)
    (hload : s1.loadE b useLD (s.me.eb b (64 * off.toInt) + 64) (8 * field h 6 2) 0 = .ok (es, s2))
    (hents : s.me.entries (field h 4 1) (addr64 (s.me.eb b (64 * off.toInt))) es (field h 6 2) 0 0 = .ok ents)
    (hfree : s.me.mqueue.any (fun q => algOfInstr q.instr == some d) = false) :
    exec (.atld d b off) s =
      .next (s2.setMe ({ s2.me with alg := s2.me.alg.set d (some (loadedTable h ents)) }.retire 1)) := by
  show execAtld d b off s = _
  have haligned : decide (s.me.eb b (64 * off.toInt) % 64 ≠ 0) = false := decide_eq_false (not_not_intro halign)
  simp only [execAtld, haligned, State.guard_false, run_ok_bind, hhead, State.check_ok hchk, hload, hents,
    State.orFail_ok, hfree, Bool.false_eq_true, if_false, finish_ok]
  rfl

end Sys2Proof.Machine

namespace Sys2Proof.Claims

open Sys2Proof.Machine

theorem algebraProducts : AlgebraProducts := fun _ _ _ _ _ _ _ _ ht hready =>
  ⟨algProduct_of_exec rfl ht hready, algProduct_of_exec rfl ht hready⟩

theorem algebraConjugate : AlgebraConjugate := by
  refine ⟨fun s d a tb h => ⟨writesX_of_exec (exec_atinfo d 0 h), writesX_of_exec (exec_atinfo d 1 h),
      writesX_of_exec (exec_atinfo d 2 h), writesX_of_exec (exec_atinfo d 3 h)⟩,
    fun s d a h => ⟨writesX_of_exec (exec_atinfo d 0 h), writesX_of_exec (exec_atinfo d 1 h),
      writesX_of_exec (exec_atinfo d 2 h), writesX_of_exec (exec_atinfo d 3 h)⟩,
    fun s d a c t mask keep tb ht htb _ hready hw hvl => ?_,
    fun s d a c t mask keep ht htb hready => exec_aconj_empty mask keep ht hready htb⟩
  have hquiet : s.me.tupleEvs d t tb.dim mask keep (s.me.conjugate tb a t) = [] :=
    Strand.tupleEvs_eq_nil (s.me.conjugate_quiet tb a t)
  obtain ⟨u, hu, hcodes, htail, hothers, hframe, hmod⟩ :=
    State.tuplewise_next (d := d) (m := mask) (keep := keep) ht hready hw hvl (s.me.length_conjugate tb a t)
      (.aconj d a c t mask keep) .rne (by rw [hquiet, evUnion_nil, BitVec.zero_and])
  rw [hquiet, evUnion_nil, Strand.rnd_rne, if_neg (by decide)] at hframe
  refine ⟨u, (exec_aconj_loaded mask keep ht hready htb).trans hu, fun j k hk hj => ?_, htail, hothers, hframe, hmod⟩
  rw [hcodes j k hk hj, Strand.conjugate_code hk]

theorem algebraLoad : AlgebraLoad := by
  intro s s1 s2 d b off h es ents halign hhead hchk hload hents hfree
  obtain ⟨hadm, hcount⟩ := Strand.entries_ok (Nat.zero_le _) hents
  refine ⟨_, exec_atld halign hhead hchk hload hents hfree, ?_, hadm, by omega, fun q hq => ?_, rfl, rfl,
    sameModule_setMe _ _⟩
  · simp [loadedTable]
  · have hne : d.val ≠ q.val := fun e => hq (Fin.ext e.symm)
    simp [hne]

end Sys2Proof.Claims

namespace Sys2Proof.Proofs

/-- Settles O33: AMUL, AMAC and ACONJ are the loop over tuples (`State.algMul_loaded`, `exec_aconj_loaded`), whose result and
frame `State.tuplewise_next` gives; ATINFO writes a table's item; ATLD puts the table that it has read into its slot
(`exec_atld`), and the entries that the reading keeps are admitted (`Strand.entries_ok`). -/
theorem algebra : Obligations.Algebra := ⟨Claims.algebraProducts, Claims.algebraConjugate, Claims.algebraLoad⟩

end Sys2Proof.Proofs
end
